-- ==== Sys2Proof/Word.lean ====
section
/-! DEFINITION. The word types of the model and their plainest arithmetic. -/

namespace Sys2Proof

/-- One byte (00 R9: memory and multi-byte fields are little-endian). -/
abbrev Byte := BitVec 8

/-- A 64-bit register or control word. -/
abbrev W64 := BitVec 64

/-- A 32-bit lane, bank element or FP32 pattern. -/
abbrev W32 := BitVec 32

/-- A 128-bit word of the device's code: sixteen data bytes (13 R341). -/
abbrev W128 := BitVec 128

/-- A 22-bit instruction address: line in [21..4], syllable in [3..0] (02 R29). -/
abbrev IAddr := BitVec 22

/-- One bit of a word. -/
def bit {w : Nat} (x : BitVec w) (i : Nat) : Bool := x.getLsbD i

/-- The field [hi..lo] of a word, as a number (00 R6). -/
def field {w : Nat} (x : BitVec w) (hi lo : Nat) : Nat := (x.toNat / 2 ^ lo) % 2 ^ (hi + 1 - lo)

/-- A Boolean as the number 0 or 1. -/
def b2n (b : Bool) : Nat := if b then 1 else 0

/-- The signed value of an n-bit two's complement number held in a natural number. -/
def signedOf (n x : Nat) : Int :=
  let y := x % 2 ^ n
  if 2 * y < 2 ^ n then (y : Int) else (y : Int) - (2 ^ n : Nat)

/-- An integer as an n-bit two's complement pattern. -/
def patternOf (n : Nat) (x : Int) : Nat := (x % ((2 ^ n : Nat) : Int)).toNat

/-- The quotient rounded up. -/
def ceilDiv (a b : Nat) : Nat := if b = 0 then 0 else (a + b - 1) / b

end Sys2Proof
end

