-- ==== Sys2Proof/Syntax.lean ====
section
/-! DEFINITION. The commands of the block: one constructor of Instr per row of spec/opcode_table.json. -/

namespace Sys2Proof

/-- The width of an operation's assembled immediate: one to three syllables of the native form (14 bits each)
or of the compact form (12 bits each) (02 R38, Table 2-8). -/
inductive ImmWidth where
  | w14 | w28 | w42 | w12 | w24 | w36
deriving DecidableEq, Repr

/-- An assembled immediate (02 R38): the bits, and how many there are. -/
structure Imm where
  width : ImmWidth
  bits : BitVec 42
deriving DecidableEq, Repr

/-- SV arithmetic operands (02 Table 2-4). -/
structure SvOps where
  vd : BitVec 5
  va : BitVec 5
  qf : Bool
  es : BitVec 3
  vb : BitVec 5
  vc : BitVec 5
  fn : BitVec 4
deriving DecidableEq, Repr

/-- SV load and store operands (02 Table 2-4); the 14-bit immediate is sign-extended (04 R108). -/
structure SvMem where
  vd : BitVec 5
  xa : BitVec 5
  qf : Bool
  es : BitVec 3
  imm : BitVec 14
deriving DecidableEq, Repr

/-- Operands of TCFG, TLD, TST and SWL (02 Table 2-4). -/
structure TeMove where
  t : BitVec 3
  gn : BitVec 3
  xa : BitVec 5
  tr : Bool
  cv : Bool
  fmt : BitVec 4
  slot : BitVec 14
deriving DecidableEq, Repr

/-- Operands of a tile product (02 Table 2-4). -/
structure TeProd where
  ad : BitVec 3
  ta : BitVec 3
  tb : BitVec 3
  gn : BitVec 3
  orr : BitVec 2
  acc : Bool
  gs : BitVec 2
  mvf : Bool
deriving DecidableEq, Repr

/-- Operands of MVM (02 Table 2-4). -/
structure MvOps where
  ad : BitVec 3
  gn : BitVec 3
  xa : BitVec 5
  lv : BitVec 4
  acc : Bool
deriving DecidableEq, Repr

/-- Operands of a VE operation (02 Table 2-4); `imm` is absent in the register form (08 R189). -/
structure VeOps where
  ld : BitVec 4
  la : BitVec 4
  lb : BitVec 4
  src : BitVec 2
  gn : BitVec 3
  sat : Bool
  imi : BitVec 2
  arb : BitVec 6
  imm : Option Imm
deriving DecidableEq, Repr

/-- The three requester classes of the dictionary (17 R447). -/
inductive Cls where
  | host | bmc | m
deriving DecidableEq, Repr

/-- How the receiver's decoder found a stored or transmitted code word (13 R342, Table 13-2). -/
inductive Mark where
  | good
  | corrected (sym : BitVec 5) (synd : BitVec 16)
  | uncorrectable (synd : BitVec 16)
  | poison
deriving DecidableEq, Repr

/-- A flit as a receiver or sender holds it: the sixteen words, word 0 being the header of Table 11-3 (11 R274),
how each word decoded, and whether the frame's CRC of the flit holds (11 R276). -/
structure Flit where
  words : List W128
  marks : List Mark
  crcOk : Bool
deriving DecidableEq, Repr

/-- The bucket that a collective message belongs to: BID of its peer set PS, as its flits carry them (12 R324). -/
structure Bucket where
  bid : BitVec 16
  ps : BitVec 4
deriving DecidableEq, Repr

/-- What the link-control flits of a frame say; their layout is not printed (11 R277, R280, R293, R295, R299, 12 R325; DESIGN CHOICE, log
entry 113): the sender shuts down; a logical lane and the spare it is to move onto; the answer to that, with the boundary at which the frame
F begins; a beat period with its switch count; the period in force with the count it took effect at; the acting root; a class of an Ethernet
interface paused for so many quanta (R286; log entry 143); what training exchanges: the generations offered, the device, its port, the torus size and the express enable. -/
inductive LinkControl where
  | shutdown
  | laneSwap (lane spare : Nat)
  | laneAgree (lane spare : Nat) (boundary : BitVec 48)
  | period (count : BitVec 48) (ns : Nat)
  | periodNow (count : BitVec 48) (ns : Nat)
  | root (id : BitVec 14)
  | pause (iface cls quanta : Nat)
  | exchange (gens : Nat) (id : BitVec 14) (port x y z : Nat) (express : Bool)
deriving DecidableEq, Repr

/-- The framing slice of a frame (11 Table 11-4): SYNC of every lane, FSEQ, the fields of lane 0 (the last frame received good, NAK, the
transmit stamp, the echo of the peer's), the freed places of lanes 1 to 6, the fields of lane 7 (BM, the count, the offset,
HOP); and what the frame's link-control flits say. -/
structure Framing where
  sync : BitVec 16
  fseq : BitVec 12
  lastGood : BitVec 12
  nak : Bool
  stamp : W32
  echo : W32
  freed : List Nat
  bm : Bool
  beat : BitVec 48
  offset : BitVec 16
  hop : BitVec 6
  control : List LinkControl
deriving DecidableEq, Repr

/-- What a finished training step found (11 Table 11-5, R278, R279): the peer's identity and offers, the measured
round trip, the number of lanes in service. -/
structure TrainInfo where
  peerId : BitVec 14
  peerPort : BitVec 3
  peerGen : Nat
  peerX : Nat
  peerY : Nat
  peerZ : Nat
  peerExpress : Bool
  rttNs : Nat
  lanes : Nat
deriving DecidableEq, Repr

/-- A module's identity as the steward reads it (17 R457): readable with a good checksum, of the right kind, its
manufacturer, part, serial and revision, capacity (or optical class), and the further facts a refusal looks at. -/
structure ModuleId where
  readable : Bool
  kindOk : Bool
  maker : BitVec 16
  part : List Byte
  serial : List Byte
  revision : BitVec 16
  capacity : Nat
  organisation : Nat
  speed : Nat
  powerOk : Bool
  bandOk : Bool
  featuresOk : Bool
  maxPowerW : Nat
  image : List Byte
deriving DecidableEq, Repr

/-- What a JTAG debug access reaches (16 R427). -/
inductive DebugTarget where
  | pc | mode
  | ctl (n : BitVec 16)
  | object (idx : BitVec 16) (sub : BitVec 8)
  | toll (k : Nat)
  | ledger (k : Nat)
  | trace (k : Nat)
  | xreg (r : BitVec 5)
  | freg (r : BitVec 5)
  | mem (addr : BitVec 48)
  | lreg (slice : Nat) (r : BitVec 4) (lane : BitVec 8)
  | bank (slice : Nat) (a : BitVec 3) (i : BitVec 14)
  | frag (slice : Nat) (t : BitVec 3) (i : BitVec 15)
  | steward (k : Nat)
deriving DecidableEq, Repr

/-- The fields of configuration space a host write changes (17 R433 to R442). -/
inductive CfgField where
  | busMaster | msixEnable | bar4Size | aerStatus
deriving DecidableEq, Repr

/-- How a finished comparison stood (13 R358). -/
inductive Comparison where
  | transient | permanent | spareSuspect
deriving DecidableEq, Repr

/-- The commands. The constructors stand in the order of spec/opcode_table.json; LAWS.json maps each to its row. -/
inductive Instr where
  -- stream control (02, 03)
  | bundleIssue
  | faultEntry
  | interruptEntry
  | watchdogExpiry
  | waitHoldWatchdogExpiry
  | pmsync
  | xret
  | halt
  | br (xa : BitVec 5) (cc : BitVec 3) (xl : BitVec 5) (imm : BitVec 28)
  | brf (xa : BitVec 5) (cc : BitVec 3) (xl : BitVec 5) (imm : BitVec 28)
  | brIndirect (xa : BitVec 5) (cc : BitVec 3) (xl : BitVec 5)
  | loop (xc : BitVec 5) (ci : BitVec 9) (imm : BitVec 28)
  | modew (xa : BitVec 5)
  | moder (xa : BitVec 5)
  | gms (xa : BitVec 5) (ch : BitVec 2) (gn : BitVec 3)
  | gmc (gn : BitVec 3)
  | pdrop (pl : BitVec 2)
  -- scalar register-immediate (04)
  | addi (d a : BitVec 5) (q : BitVec 4) (imm : Imm)
  | andi (d a : BitVec 5) (q : BitVec 4) (imm : Imm)
  | ori (d a : BitVec 5) (q : BitVec 4) (imm : Imm)
  | xori (d a : BitVec 5) (q : BitVec 4) (imm : Imm)
  | slli (d a : BitVec 5) (q : BitVec 4) (imm : Imm)
  | srli (d a : BitVec 5) (q : BitVec 4) (imm : Imm)
  | srai (d a : BitVec 5) (q : BitVec 4) (imm : Imm)
  | slti (d a : BitVec 5) (q : BitVec 4) (imm : Imm)
  | ldx (d a : BitVec 5) (q : BitVec 4) (imm : Imm)
  | ldf (d a : BitVec 5) (q : BitVec 4) (imm : Imm)
  | stx (d a : BitVec 5) (q : BitVec 4) (imm : Imm)
  | stf (d a : BitVec 5) (q : BitVec 4) (imm : Imm)
  | ctlr (d a : BitVec 5) (q : BitVec 4) (imm : Imm)
  | ctlw (d a : BitVec 5) (q : BitVec 4) (imm : Imm)
  | conx (d a : BitVec 5) (q : BitVec 4) (imm : Imm)
  | conf (d a : BitVec 5) (q : BitVec 4) (imm : Imm)
  -- scalar register-register (04)
  | add (d a : BitVec 5) (q : BitVec 4) (b : BitVec 5) (fn : BitVec 9)
  | sub (d a : BitVec 5) (q : BitVec 4) (b : BitVec 5) (fn : BitVec 9)
  | and (d a : BitVec 5) (q : BitVec 4) (b : BitVec 5) (fn : BitVec 9)
  | or (d a : BitVec 5) (q : BitVec 4) (b : BitVec 5) (fn : BitVec 9)
  | xor (d a : BitVec 5) (q : BitVec 4) (b : BitVec 5) (fn : BitVec 9)
  | sll (d a : BitVec 5) (q : BitVec 4) (b : BitVec 5) (fn : BitVec 9)
  | srl (d a : BitVec 5) (q : BitVec 4) (b : BitVec 5) (fn : BitVec 9)
  | sra (d a : BitVec 5) (q : BitVec 4) (b : BitVec 5) (fn : BitVec 9)
  | slt (d a : BitVec 5) (q : BitVec 4) (b : BitVec 5) (fn : BitVec 9)
  | sltu (d a : BitVec 5) (q : BitVec 4) (b : BitVec 5) (fn : BitVec 9)
  | mul (d a : BitVec 5) (q : BitVec 4) (b : BitVec 5) (fn : BitVec 9)
  | mulh (d a : BitVec 5) (q : BitVec 4) (b : BitVec 5) (fn : BitVec 9)
  | mulhu (d a : BitVec 5) (q : BitVec 4) (b : BitVec 5) (fn : BitVec 9)
  | div (d a : BitVec 5) (q : BitVec 4) (b : BitVec 5) (fn : BitVec 9)
  | divu (d a : BitVec 5) (q : BitVec 4) (b : BitVec 5) (fn : BitVec 9)
  | rem (d a : BitVec 5) (q : BitVec 4) (b : BitVec 5) (fn : BitVec 9)
  | remu (d a : BitVec 5) (q : BitVec 4) (b : BitVec 5) (fn : BitVec 9)
  | movxf (d a : BitVec 5) (q : BitVec 4) (b : BitVec 5) (fn : BitVec 9)
  | movfx (d a : BitVec 5) (q : BitVec 4) (b : BitVec 5) (fn : BitVec 9)
  | fadd (d a : BitVec 5) (q : BitVec 4) (b : BitVec 5) (fn : BitVec 9)
  | fsub (d a : BitVec 5) (q : BitVec 4) (b : BitVec 5) (fn : BitVec 9)
  | fmul (d a : BitVec 5) (q : BitVec 4) (b : BitVec 5) (fn : BitVec 9)
  | fma (d a : BitVec 5) (q : BitVec 4) (b : BitVec 5) (fn : BitVec 9)
  | fdiv (d a : BitVec 5) (q : BitVec 4) (b : BitVec 5) (fn : BitVec 9)
  | fsqrt (d a : BitVec 5) (q : BitVec 4) (b : BitVec 5) (fn : BitVec 9)
  | fmin (d a : BitVec 5) (q : BitVec 4) (b : BitVec 5) (fn : BitVec 9)
  | fmax (d a : BitVec 5) (q : BitVec 4) (b : BitVec 5) (fn : BitVec 9)
  | feq (d a : BitVec 5) (q : BitVec 4) (b : BitVec 5) (fn : BitVec 9)
  | flt (d a : BitVec 5) (q : BitVec 4) (b : BitVec 5) (fn : BitVec 9)
  | fle (d a : BitVec 5) (q : BitVec 4) (b : BitVec 5) (fn : BitVec 9)
  | fcvt (d a : BitVec 5) (q : BitVec 4) (b : BitVec 5) (fn : BitVec 9)
  -- short vectors (04)
  | vadd (o : SvOps)
  | vsub (o : SvOps)
  | vand (o : SvOps)
  | vor (o : SvOps)
  | vxor (o : SvOps)
  | vshl (o : SvOps)
  | vshr (o : SvOps)
  | vmin (o : SvOps)
  | vmax (o : SvOps)
  | vceq (o : SvOps)
  | vcgt (o : SvOps)
  | vsel (o : SvOps)
  | vfadd (o : SvOps)
  | vfsub (o : SvOps)
  | vfmul (o : SvOps)
  | vfma (o : SvOps)
  | vfmin (o : SvOps)
  | vfmax (o : SvOps)
  | vfceq (o : SvOps)
  | vfclt (o : SvOps)
  | vwmul (o : SvOps)
  | vdot (o : SvOps)
  | vdup (o : SvOps)
  | vld (o : SvMem)
  | vst (o : SvMem)
  | vlds (o : SvMem)
  | vsts (o : SvMem)
  | vldr (o : SvMem)
  -- tiles and arrays (05, 06, 09)
  | tcfg (o : TeMove)
  | tld (o : TeMove)
  | tst (o : TeMove)
  | swl (o : TeMove)
  | tmm (o : TeProd)
  | tmmd (o : TeProd) (de : BitVec 6) (db : BitVec 3)
  | mvm (o : MvOps)
  -- element-wise engine (08)
  | veFadd (o : VeOps)
  | veFsub (o : VeOps)
  | veFmul (o : VeOps)
  | veFma (o : VeOps)
  | frcp (o : VeOps)
  | veFsqrt (o : VeOps)
  | frsqrt (o : VeOps)
  | fscale (o : VeOps)
  | veFmin (o : VeOps)
  | veFmax (o : VeOps)
  | fabs (o : VeOps)
  | fneg (o : VeOps)
  | veAdd (o : VeOps)
  | veSub (o : VeOps)
  | veMul (o : VeOps)
  | addu (o : VeOps)
  | subu (o : VeOps)
  | mulu (o : VeOps)
  | min (o : VeOps)
  | max (o : VeOps)
  | minu (o : VeOps)
  | maxu (o : VeOps)
  | veAnd (o : VeOps)
  | veOr (o : VeOps)
  | veXor (o : VeOps)
  | andn (o : VeOps)
  | shl (o : VeOps)
  | shr (o : VeOps)
  | veSra (o : VeOps)
  | mov (o : VeOps)
  | bcst (o : VeOps)
  | iota (o : VeOps)
  | ceq (o : VeOps)
  | clt (o : VeOps)
  | cltu (o : VeOps)
  | fceq (o : VeOps)
  | fclt (o : VeOps)
  | fcle (o : VeOps)
  | sel (o : VeOps)
  | cvtn (o : VeOps)
  | cvtw (o : VeOps)
  | gath (o : VeOps)
  | scat (o : VeOps)
  | ldl (o : VeOps)
  | stl (o : VeOps)
  | ldb (o : VeOps)
  | feval (o : VeOps)
  | fdrv (o : VeOps)
  | ftld (o : VeOps)
  | rdrop (o : VeOps)
  | rmask (o : VeOps)
  | rsum (o : VeOps)
  | rmax (o : VeOps)
  | rmin (o : VeOps)
  | ramax (o : VeOps)
  | risum (o : VeOps)
  | coprocessorOpcode (op : BitVec 8) (o : VeOps)
  -- DM, CL and CU slots (10, 11, 12)
  | dmaIssue (xd : BitVec 5) (gn : BitVec 3) (tag : BitVec 6)
  | dmw (gn : BitVec 3) (tag : BitVec 6)
  | collectiveIssue (xd : BitVec 5) (tag : BitVec 6)
  | clw (tag : BitVec 6)
  | rbeat (x : BitVec 5)
  | rang (x : BitVec 5)
  | wbeat (x : BitVec 5)
  | mark (imm : BitVec 28)
  -- the beat (11)
  | beatBoundary (seq1CrcOk : Bool)
  | streamStartAfterWake
  | beatRootEnable
  | beatPeriodSwitch
  | backupRootTakeover
  | holdoverExpiry
  | beatReacquired (port : BitVec 3) (count : BitVec 48)
  -- control-register writes with a behaviour of their own
  | sxSwiWrite (v : W64)
  | sxTinvWrite (v : W64)
  | sxBcmpWrite (v : W64)
  | mxWdtWrite (v : W64)
  | tpr0Write (v : W64)
  | scctlWrite (v : W64)
  | scldqWrite (v : W64)
  | cpentWrite (v : W64)
  | msopWrite (v : W64)
  | cqw0Write (v : W64)
  | dcrepWrite (v : W64)
  | odcmdWrite (v : W64)
  -- DMA engines (10, 07, 09)
  | dmaAccept (slice : BitVec 8)
  | copy (slice : BitVec 8)
  | fill (slice : BitVec 8)
  | scaledConversion (slice : BitVec 8)
  | cachePrefetch (slice : BitVec 8)
  | stashPut (slice : BitVec 8)
  | stashGet (slice : BitVec 8)
  | stashRelease (slice : BitVec 8)
  | dmaRequestIssue (slice : BitVec 8)
  | dmaRequestComplete (slice : BitVec 8) (req : Nat)
  | dmaRequestTimeout (slice : BitVec 8) (req : Nat)
  | serviceBoundExceeded (slice : BitVec 8) (req : Nat)
  | scaledConversionPassEnd (slot : BitVec 14)
  -- collective engine (12)
  | collectiveAccept
  | reduceScatter (tag : BitVec 6)
  | allGather (tag : BitVec 6)
  | closeVote (tag : BitVec 6)
  | collectiveOpen (tag : BitVec 6)
  | collectiveMessageComplete (bucket : Bucket) (peer : BitVec 14) (pk : BitVec 3) (dim : BitVec 2) (body : List W128)
      (tally status digest : W128)
  | collectiveDeadline (tag : BitVec 6)
  | earlyArrivalResend (tag : BitVec 6) (peer : BitVec 14)
  | voteCommit (tag : BitVec 6)
  -- tocsins and links (13, 11)
  | tocsinReceived (port : BitVec 3) (src : BitVec 14) (ts : BitVec 87)
  | frameReceived (port : BitVec 3) (frame : Framing) (flits : List Flit)
  | flitSend (port : BitVec 3)
  | ethernetFrameReceived (port : BitVec 3) (fcsOk : Bool) (sender : BitVec 16) (seq : W32) (flits : List Flit)
  | trainingStepDone (port : BitVec 3) (info : TrainInfo)
  | trainingStepTimeout (port : BitVec 3)
  | portDarkTimeout (port : BitVec 3)
  | laneSwapSwitch (port : BitVec 3)
  | shroudSenseChange (mated : Bool)
  -- reliability (13)
  | patrolScrubRead (far : Bool)
  | correctionWriteback (addr : BitVec 48)
  | correctionSummaryExpiry (ucls : BitVec 8) (unit : BitVec 16)
  | comparisonComplete (outcome : Comparison)
  | retirementSwitch (ucls : BitVec 8) (unit : BitVec 16)
  | pealComplete (passed failed : BitVec 16) (bad : List (BitVec 8 × BitVec 16))
  | pealWindowExpiry
  | spotCheckComplete (quarter : BitVec 3) (differs : Bool) (elem : BitVec 14) (bank : BitVec 8)
  -- checkpoint strata (14)
  | secureStratum1 (own : BitVec 2) (arg : W128)
  | secureStratum2 (own : BitVec 2) (arg : W128)
  | secureStratum3 (own : BitVec 2) (arg : W128)
  | returnGuestImage (own : BitVec 2) (arg : W128)
  | restoreAfterReturn (own : BitVec 2) (arg : W128)
  | restoreFromNvme (own : BitVec 2) (arg : W128)
  | restoreAfterHostWrite (own : BitVec 2) (arg : W128)
  | nvmeCommandComplete (ok : Bool) (data : List Byte)
  -- power (15)
  | powerEstimate (activity : List Nat) (quarterUj : List Nat) (queueUj : List Nat)
  | estimatorGainCorrection (measuredMw estimatedMw : Nat)
  | muteChangeEffect
  | dvfsClockSwitch
  | droopTrip (detector : BitVec 4)
  | droopRecovery
  | droopMuteStep
  | thermalSensorRead (sensors : List Int) (stackTemps : List Int)
  | powerTransitionBegin
  | powerTransitionComplete (modules : List (Nat × ModuleId))
  -- the board (18)
  | p48vRise
  | aonResetRelease (straps : BitVec 3)
  | romBootComplete
  | stewardFirmwareReady
  | resetNAssert (us : Nat)
  | brownout (resetToo : Bool)
  | overvoltage (resetToo : Bool)
  | inputRecovery
  | pePerstNChange (high : Bool)
  -- firmware, trust and debug (16)
  | updateVerifyComplete
  | updateActivation (failedEngines : List (BitVec 3))
  | stewardRestartComplete
  | flashWriteComplete
  | updateActivate (cls : Cls)
  | updateAbort (cls : Cls)
  | commitSecurityVersions (cls : Cls)
  | debugChallenge (cls : Cls)
  | challengeExpiry
  | debugToken (token : List Byte)
  | lifecycleToken (token : List Byte)
  | revocationToken (token : List Byte)
  | debugLevelRequest (v : BitVec 8)
  | bypass
  | idcode
  | samplePreload
  | extest
  | jtagDebugAccess (write : Bool) (target : DebugTarget) (v : W64)
  | jtagChallengeRead
  | jtagTokenWrite (token : List Byte)
  | jtagRelock
  | debugHalt
  | debugSingleStep
  | getVersion
  | getCapabilities
  | negotiateAlgorithms (offers : List Byte)
  | getDigests
  | getCertificate (slot : BitVec 8) (offset len : Nat)
  | challenge (slot : BitVec 8) (nonce : List Byte)
  | getMeasurements (block : BitVec 8) (nonce : List Byte)
  | getCsr
  | setCertificate (slot : BitVec 8) (chain : List Byte)
  | getMessageTypeSupport
  | getVendorDefinedMessageSupport (selector : BitVec 8)
  | doeDiscovery (index : BitVec 8)
  -- the object dictionary (17)
  | readObject (cls : Cls) (idx : BitVec 16) (sub : BitVec 8)
  | writeObject (cls : Cls) (idx : BitVec 16) (sub : BitVec 8) (data : List Byte)
  | describeObject (cls : Cls) (idx : BitVec 16) (sub : BitVec 8)
  | openSession (cls : Cls) (tag : BitVec 8) (idx : BitVec 16) (sub : BitVec 8) (write : Bool)
  | segment (cls : Cls) (ofs len : Nat) (data : List Byte)
  | closeSession (cls : Cls)
  | abortRequest (cls : Cls) (tag : BitVec 8)
  | viewObject (cls : Cls) (idx : BitVec 16) (sub : BitVec 8)
  | sessionTimeout (cls : Cls)
  | pealInstall (cls : Cls) (package : List Byte)
  | requestedStateWrite (cls : Cls) (v : BitVec 8)
  | pmcsrWrite (v : BitVec 2)
  | pcieEnableWrite (cls : Cls) (v : BitVec 8)
  | laserEnableWrite (cls : Cls) (v : BitVec 8) (ids : List (Nat × ModuleId))
  | marlEnableWrite (cls : Cls) (v : BitVec 8) (spd : List (Nat × ModuleId))
  | ownerKeySetProvision (cls : Cls) (set : BitVec 8) (hashes : List Byte)
  | stratum3StoredSeqWrite (cls : Cls) (v : W64)
  -- the host port (17)
  | dpost (len : BitVec 11)
  | hqenWrite (v : W64)
  | hostCueStageWrite (entry : BitVec 10) (word : BitVec 2) (v : W64)
  | hostCueW0Write (entry : BitVec 10) (v : W64)
  | hostMemoryRead (bar : BitVec 3) (offset : Nat) (len : Nat)
  | hostMemoryWrite (bar : BitVec 3) (offset : Nat) (data : List Byte)
  | pcieLinkTrained (rate width : Nat)
  | functionLevelReset
  | flashPortLinkUp (id : ModuleId)
  | modulePresenceLoss (code : BitVec 8)
  | flashPortTrainingTimeout
  | clayEnableWrite (cls : Cls) (v : BitVec 8)
  | portModeWrite (cls : Cls) (port : BitVec 3) (v : BitVec 8) (ids : List (Nat × ModuleId))
  | flashPortEnableWrite (cls : Cls) (v : BitVec 8)
  | beatPeriodWrite (cls : Cls) (v : BitVec 16)
  | controlWindowWrite (offset : BitVec 16) (v : W64)
  | configurationWrite (fieldName : CfgField) (v : W32)
deriving DecidableEq, Repr

end Sys2Proof
end

