-- ==== Sys2Proof/Machine/Float.lean ====
section
/-! DEFINITION. Number formats and rounding (07, 04 R104, 08 R191): exact values, one rounding, ties away from zero. -/

namespace Sys2Proof.Machine

/-- A value that a format can hold, or the exact result of an operation: ±num·2^exp, an infinity, or a NaN.
A zero keeps its sign (07 R164). -/
inductive FVal where
  | nan
  | inf (neg : Bool)
  | fin (neg : Bool) (num : Nat) (exp : Int)
deriving DecidableEq, Repr

/-- How a format treats codes with all exponent bits set (07 Table 7-1). -/
inductive Special where
  | ieee      -- infinity and NaNs
  | e4m3      -- only S.1111.111 is a NaN
  | none      -- neither
deriving DecidableEq, Repr

/-- A floating-point element format (07 R163, Table 7-1). -/
structure Fmt where
  ebits : Nat
  mbits : Nat
  bias : Nat
  special : Special
deriving DecidableEq, Repr

def fp64 : Fmt := ⟨11, 52, 1023, .ieee⟩
def fp32 : Fmt := ⟨8, 23, 127, .ieee⟩
def bf16 : Fmt := ⟨8, 7, 127, .ieee⟩
def fp16 : Fmt := ⟨5, 10, 15, .ieee⟩
def e4m3 : Fmt := ⟨4, 3, 7, .e4m3⟩
def e5m2 : Fmt := ⟨5, 2, 15, .ieee⟩
def e3m2 : Fmt := ⟨3, 2, 3, .none⟩
def e2m3 : Fmt := ⟨2, 3, 1, .none⟩
def e2m1 : Fmt := ⟨2, 1, 1, .none⟩

/-- The width of an element. -/
def fmtWidth (f : Fmt) : Nat := 1 + f.ebits + f.mbits

/-- The pattern, without sign, of the largest finite value. -/
def fmtMax (f : Fmt) : Nat :=
  match f.special with
  | .ieee => (2 ^ f.ebits - 1) * 2 ^ f.mbits - 1
  | .e4m3 => 2 ^ (f.ebits + f.mbits) - 2
  | .none => 2 ^ (f.ebits + f.mbits) - 1

/-- The canonical NaN (07 R164; 04 R104, R110). Formats without NaN have none; their conversions never ask for it. -/
def fmtNan (f : Fmt) : Nat :=
  match f.special with
  | .ieee => if f.mbits = 2 then 2 ^ (f.ebits + f.mbits) - 1
             else (2 ^ f.ebits - 1) * 2 ^ f.mbits + 2 ^ (f.mbits - 1)
  | .e4m3 => 2 ^ (f.ebits + f.mbits) - 1
  | .none => 0

/-- The pattern of an infinity, without sign. -/
def fmtInf (f : Fmt) : Nat := (2 ^ f.ebits - 1) * 2 ^ f.mbits

/-- A pattern with its sign bit. -/
def withSign (f : Fmt) (neg : Bool) (p : Nat) : Nat := b2n neg * 2 ^ (f.ebits + f.mbits) + p

/-- The value of a pattern (07 R163). -/
def fDecode (f : Fmt) (x : Nat) : FVal :=
  let x := x % 2 ^ fmtWidth f
  let neg := decide (2 ^ (f.ebits + f.mbits) ≤ x)
  let e := x / 2 ^ f.mbits % 2 ^ f.ebits
  let m := x % 2 ^ f.mbits
  let finite : FVal :=
    if e = 0 then .fin neg m (1 - (f.bias : Int) - f.mbits)
    else .fin neg (2 ^ f.mbits + m) ((e : Int) - f.bias - f.mbits)
  match f.special with
  | .ieee => if e = 2 ^ f.ebits - 1 then (if m = 0 then .inf neg else .nan) else finite
  | .e4m3 => if e = 2 ^ f.ebits - 1 ∧ m = 2 ^ f.mbits - 1 then .nan else finite
  | .none => finite

/-- 2^k for an integer k, as a pair numerator, denominator. -/
def pow2Parts (k : Int) : Nat × Nat := if 0 ≤ k then (2 ^ k.toNat, 1) else (1, 2 ^ (-k).toNat)

/-- The floor of log2 of n/d, for n and d above zero. -/
def floorLog2 (n d : Nat) : Int :=
  let k : Int := (Nat.log2 n : Int) - Nat.log2 d
  let p := pow2Parts k
  if d * p.1 ≤ n * p.2 then k else k - 1

/-- n/d·2^e divided by 2^q, rounded to the nearest integer, a half going up (away from zero) (07 R167). -/
def roundQuot (n d : Nat) (e q : Int) : Nat :=
  let p := pow2Parts (e - q)
  let num := n * p.1
  let den := d * p.2
  let fl := num / den
  if den ≤ 2 * (num % den) then fl + 1 else fl

/-- The unsigned pattern nearest to n/d·2^e with an unbounded exponent range (07 R167). -/
def roundPattern (f : Fmt) (n d : Nat) (e : Int) : Nat :=
  if n = 0 then 0
  else
    let lowest : Int := 1 - (f.bias : Int) - f.mbits
    let q := max (floorLog2 n d + e - f.mbits) lowest
    (q - lowest).toNat * 2 ^ f.mbits + roundQuot n d e q

/-- A finite value rounded to a format whose overflow is an infinity: the arithmetic of every FP unit (04 R104, 08 R191). -/
def roundTo (f : Fmt) (neg : Bool) (n d : Nat) (e : Int) : Nat :=
  let p := roundPattern f n d e
  withSign f neg (if fmtMax f < p then fmtInf f else p)

/-- An exact result written in a format that has infinities and NaNs. -/
def fEncode (f : Fmt) (v : FVal) : Nat :=
  match v with
  | .nan => fmtNan f
  | .inf neg => withSign f neg (fmtInf f)
  | .fin neg n e => roundTo f neg n 1 e

/-- The signed numerator of a finite value over 2^lo, for lo at or below its exponent. -/
def alignTo (lo : Int) (neg : Bool) (n : Nat) (e : Int) : Int :=
  let m : Int := (n * 2 ^ (e - lo).toNat : Nat)
  if neg then -m else m

/-- The exact sum (IEEE signs of zero: an exact zero sum is +0 unless both operands are negative). -/
def fvAdd (a b : FVal) : FVal :=
  match a, b with
  | .nan, _ | _, .nan => .nan
  | .inf x, .inf y => if x = y then .inf x else .nan
  | .inf x, _ => .inf x
  | _, .inf y => .inf y
  | .fin s n e, .fin s' n' e' =>
    let lo := min e e'
    let z := alignTo lo s n e + alignTo lo s' n' e'
    if z = 0 then .fin (s && s') 0 lo
    else .fin (decide (z < 0)) z.natAbs lo

/-- The exact negation. -/
def fvNeg (a : FVal) : FVal :=
  match a with
  | .nan => .nan
  | .inf s => .inf (!s)
  | .fin s n e => .fin (!s) n e

/-- The exact product. -/
def fvMul (a b : FVal) : FVal :=
  match a, b with
  | .nan, _ | _, .nan => .nan
  | .inf x, .inf y => .inf (x != y)
  | .inf x, .fin s n _ => if n = 0 then .nan else .inf (x != s)
  | .fin s n _, .inf y => if n = 0 then .nan else .inf (y != s)
  | .fin s n e, .fin s' n' e' => .fin (s != s') (n * n') (e + e')

/-- The value scaled by 2^k, exactly. -/
def fvScale (a : FVal) (k : Int) : FVal :=
  match a with
  | .fin s n e => .fin s n (e + k)
  | v => v

/-- The quotient, rounded once. -/
def fDiv (f : Fmt) (a b : FVal) : Nat :=
  match a, b with
  | .nan, _ | _, .nan => fmtNan f
  | .inf _, .inf _ => fmtNan f
  | .inf x, .fin s _ _ => withSign f (x != s) (fmtInf f)
  | .fin s _ _, .inf y => withSign f (s != y) 0
  | .fin s n e, .fin s' n' e' =>
    if n' = 0 then (if n = 0 then fmtNan f else withSign f (s != s') (fmtInf f))
    else roundTo f (s != s') n n' (e - e')

/-- The integer square root, bit by bit from bit k down. -/
def isqrtFrom (n : Nat) : Nat → Nat → Nat
  | 0, r => if (r + 1) * (r + 1) ≤ n then r + 1 else r
  | k + 1, r =>
    let t := r + 2 ^ (k + 1)
    isqrtFrom n k (if t * t ≤ n then t else r)

/-- The integer square root. -/
def isqrt (n : Nat) : Nat := isqrtFrom n (Nat.log2 n / 2 + 1) 0

/-- The square root, rounded once (08 R191: −0 gives −0, a value below zero a NaN). -/
def fSqrt (f : Fmt) (a : FVal) : Nat :=
  match a with
  | .nan => fmtNan f
  | .inf s => if s then fmtNan f else fmtInf f
  | .fin s n e =>
    if n = 0 then withSign f s 0
    else if s then fmtNan f
    else
      let odd := e % 2 ≠ 0
      let n1 := if odd then 2 * n else n
      let e1 := if odd then e - 1 else e
      let k := f.mbits + 3
      let m := n1 * 4 ^ k
      let r := isqrt m
      roundTo f false (2 * r + b2n (decide (r * r ≠ m))) 1 (e1 / 2 - k - 1)

/-- The reciprocal square root, rounded once (08 R191). -/
def fRsqrt (f : Fmt) (a : FVal) : Nat :=
  match a with
  | .nan => fmtNan f
  | .inf s => if s then fmtNan f else 0
  | .fin s n e =>
    if n = 0 then withSign f s (fmtInf f)
    else if s then fmtNan f
    else
      let odd := e % 2 ≠ 0
      let n1 := if odd then 2 * n else n
      let e1 := if odd then e - 1 else e
      let k := Nat.log2 n1 + f.mbits + 4
      let r := isqrt (4 ^ k / n1)
      roundTo f false (2 * r + b2n (decide (r * r * n1 ≠ 4 ^ k))) 1 (-(e1 / 2) - k - 1)

/-- The order of two values; none when either is a NaN. −0 and +0 compare equal. -/
def fvCompare (a b : FVal) : Option Ordering :=
  match a, b with
  | .nan, _ | _, .nan => none
  | .inf x, .inf y => some (compare (if x then (0 : Int) else 1) (if y then 0 else 1))
  | .inf x, _ => some (if x then .lt else .gt)
  | _, .inf y => some (if y then .gt else .lt)
  | .fin s n e, .fin s' n' e' =>
    let lo := min e e'
    some (compare (alignTo lo s n e) (alignTo lo s' n' e'))

/-- Whether the value has its sign bit set. -/
def fvIsNeg (a : FVal) : Bool :=
  match a with
  | .nan => false
  | .inf s => s
  | .fin s _ _ => s

/-- The minimum or maximum, with −0 below +0, and NaN if either is one (08 R191). -/
def fvMinMax (wantMax : Bool) (a b : FVal) : FVal :=
  match fvCompare a b with
  | none => .nan
  | some .lt => if wantMax then b else a
  | some .gt => if wantMax then a else b
  | some .eq => if wantMax then (if fvIsNeg a then b else a) else (if fvIsNeg a then a else b)

/-- The magnitude. -/
def fvAbs (a : FVal) : FVal :=
  match a with
  | .nan => .nan
  | .inf _ => .inf false
  | .fin _ n e => .fin false n e

/-- The nearest integer, ties away from zero, of a finite value. -/
def fvRoundInt (neg : Bool) (n : Nat) (e : Int) : Int :=
  let m : Int := roundQuot n 1 e 0
  if neg then -m else m

/-- A conversion to an integer range: saturating, NaN to 0 (04 R104). -/
def fvToInt (lo hi : Int) (a : FVal) : Int :=
  match a with
  | .nan => 0
  | .inf s => if s then lo else hi
  | .fin s n e => max lo (min hi (fvRoundInt s n e))

/-- The exact value of an integer. -/
def fvOfInt (z : Int) : FVal := .fin (decide (z < 0)) z.natAbs 0

/-- What one conversion did (07 R168): the counts of Table 7-2. -/
inductive ConvNote where
  | plain | saturated | flushed | nonFinite
deriving DecidableEq, Repr

/-- A conversion to a floating-point destination under Table 7-2. -/
def convFloat (f : Fmt) (v : FVal) : Nat × ConvNote :=
  match v with
  | .nan =>
    if f.special = .none then (0, .nonFinite)
    else (fmtNan f, if f.mbits = 3 ∨ f.mbits = 2 then .nonFinite else .plain)
  | .inf s =>
    match f.special with
    | .ieee => (withSign f s (fmtInf f), if f.mbits = 2 then .nonFinite else .plain)
    | .e4m3 => (fmtNan f, .nonFinite)
    | .none => (withSign f s (fmtMax f), .nonFinite)
  | .fin s n e =>
    let p := roundPattern f n 1 e
    if fmtMax f < p then
      if f.special = .ieee ∧ f.mbits ≠ 2 then (withSign f s (fmtInf f), .plain)
      else (withSign f s (fmtMax f), .saturated)
    else (withSign f s p, if p = 0 ∧ n ≠ 0 then .flushed else .plain)

/-- A conversion to an integer destination of w bits under Table 7-2. -/
def convInt (w : Nat) (v : FVal) : Nat × ConvNote :=
  let hi : Int := (2 ^ (w - 1) : Nat) - 1
  let lo : Int := -((2 ^ (w - 1) : Nat) : Int)
  match v with
  | .nan => (0, .nonFinite)
  | .inf s => (patternOf w (if s then lo else hi), .nonFinite)
  | .fin s n e =>
    let z := fvRoundInt s n e
    if hi < z then (patternOf w hi, .saturated)
    else if z < lo then (patternOf w lo, .saturated)
    else (patternOf w z, .plain)

/-- The classes of Table 2-5's codes: W and N of 05 R125, the MX formats, the integers. -/
inductive FmtClass where
  | wide | narrow | mx | int
deriving DecidableEq, Repr

/-- The class of a format code (02 Table 2-5, 05 R125). -/
def codeClass (c : Nat) : FmtClass :=
  if c ≤ 2 then .wide else if c ≤ 7 then .narrow else if c ≤ 9 then .int else .mx

/-- The element width w of a format code (05 R118; 32 for INT32, 08 R194). -/
def codeWidth (c : Nat) : Nat :=
  match c with
  | 0 => 32 | 1 => 16 | 2 => 16 | 3 => 8 | 4 => 8 | 5 => 6 | 6 => 6 | 7 => 4
  | 8 => 8 | 9 => 32 | 10 => 8 | 11 => 8 | 12 => 6 | 13 => 6 | 14 => 4 | _ => 8

/-- The element format of a floating-point code. -/
def codeFmt (c : Nat) : Fmt :=
  match c with
  | 0 => fp32 | 1 => bf16 | 2 => fp16 | 3 => e4m3 | 4 => e5m2 | 5 => e3m2 | 6 => e2m3 | 7 => e2m1
  | 10 => e4m3 | 11 => e5m2 | 12 => e3m2 | 13 => e2m3 | 14 => e2m1 | _ => fp32

/-- Whether the elements of a code are integers (INT8, INT32, MXINT8). -/
def codeIsInt (c : Nat) : Bool := c = 8 || c = 9 || c = 15

/-- emax of 07 R166 for an MX code. -/
def mxEmax (c : Nat) : Int :=
  match c with
  | 10 => 8 | 11 => 15 | 12 => 4 | 13 => 2 | 14 => 2 | _ => 0

/-- The value of an element of a code, without its block scale (07 R163, R165). -/
def elemValue (c x : Nat) : FVal :=
  if c = 15 then fvScale (fvOfInt (signedOf 8 x)) (-6)
  else if codeIsInt c then fvOfInt (signedOf (codeWidth c) x)
  else fDecode (codeFmt c) x

/-- The value of an MX element under its block's scale byte (07 R165). -/
def mxValue (c x scale : Nat) : FVal :=
  if scale = 255 then .nan else fvScale (elemValue c x) ((scale : Int) - 127)

/-- A conversion to an element of a non-MX code under Table 7-2. -/
def convElem (c : Nat) (v : FVal) : Nat × ConvNote :=
  if codeIsInt c then convInt (codeWidth c) v else convFloat (codeFmt c) v

/-- The larger magnitude of a list's finite values, as n·2^e; none if no value is finite and nonzero. -/
def maxFinite (vs : List FVal) : FVal :=
  vs.foldl (fun m v =>
    match v with
    | .fin _ n e => if fvCompare m (.fin false n e) = some .lt then .fin false n e else m
    | _ => m) (.fin false 0 0)

/-- Whether a value is a NaN or an infinity. -/
def fvNonFinite (v : FVal) : Bool :=
  match v with
  | .fin _ _ _ => false
  | _ => true

/-- A 32-element block formed from wider data (07 R166): its scale byte, its elements, whether it is non-finite, and
how many of its elements saturated (DEDUCED, log entry 25). -/
def mxBlock (c : Nat) (vs : List FVal) : Nat × List Nat × Bool × Nat :=
  if vs.any fvNonFinite then (255, vs.map fun _ => 0, true, 0)
  else
    let x : Int := match maxFinite vs with
      | .fin _ n e => if n = 0 then -127 else max (-127) (min 127 (floorLog2 n 1 + e - mxEmax c))
      | _ => -127
    let conv := fun v : FVal =>
      if c = 15 then convInt 8 (fvScale v (6 - x)) else convFloat (codeFmt c) (fvScale v (-x))
    let out := vs.map conv
    ((x + 127).toNat, out.map (·.1), false, (out.filter fun o => o.2 = .saturated).length)

/-- FP32 patterns: the value, and the rounded pattern. -/
def f32 (x : W32) : FVal := fDecode fp32 x.toNat
def toF32 (v : FVal) : W32 := BitVec.ofNat 32 (fEncode fp32 v)

/-- FP32 operations of the element-wise engine and the arrays (08 R191, 06 R140). -/
def f32Add (a b : W32) : W32 := toF32 (fvAdd (f32 a) (f32 b))
def f32Sub (a b : W32) : W32 := toF32 (fvAdd (f32 a) (fvNeg (f32 b)))
def f32Mul (a b : W32) : W32 := toF32 (fvMul (f32 a) (f32 b))
def f32Fma (a b c : W32) : W32 := toF32 (fvAdd (fvMul (f32 a) (f32 b)) (f32 c))
def f32Div (a b : W32) : W32 := BitVec.ofNat 32 (fDiv fp32 (f32 a) (f32 b))
def f32One : W32 := 0x3F800000
def f32Nan : W32 := 0x7FC00000

/-- A bank element multiplied by 2^q (07 R169): exact but where it leaves the normal range. -/
def f32Scale (a : W32) (q : Int) : W32 := toF32 (fvScale (f32 a) q)

/-- The floor of an FP32 value that is not below zero, as a natural number. -/
def f32Floor (a : W32) : Nat :=
  match f32 a with
  | .fin false n e => if 0 ≤ e then n * 2 ^ e.toNat else n / 2 ^ (-e).toNat
  | _ => 0


end Sys2Proof.Machine
end

