-- ==== Sys2Proof/Config.lean ====
section
/-! DEFINITION. What one implementation fixes and the spec does not state: free values, without a body, so that no
proof can lean on one of them; and the limits the spec states as numbers of the part. -/

namespace Sys2Proof

/-- The opcode syllable of the operation with an issue number: the model's commands carry operands and no syllable (13 R350; DESIGN CHOICE,
log entry 40). -/
opaque Config.syllable : (op : Nat) → BitVec 14

/-- A fresh free value for each value of the state's counter (DESIGN CHOICE, log entry 3). -/
opaque Config.freeValue : Nat → W64

/-- The order in which a cell of the transposed orientation adds its products and the passing sum, and how it groups them (06 R139 fixes that there is one
order and does not print it; DESIGN CHOICE, log entry 10). -/
opaque Config.cellOrder : Nat

/-- The order in which the three partial products of an FP32 product are summed (06 R142 prints none; DESIGN CHOICE, log entry 10). -/
opaque Config.splitOrder : Nat

/-- The order and grouping in which the matrix-vector path adds the products of one sum (06 R154, R156 print none; DESIGN CHOICE, log
entry 10). -/
opaque Config.mvOrder : Nat

/-- Which products and VE operations of each N a spot check samples (13 R368 gives only the rate; DESIGN CHOICE, log entry 15). -/
opaque Config.samplePhase : Nat

/-- SHA-384 of a byte string (an external standard, 16 Table 16-2; PRESUMED, log entry 11). -/
opaque Config.sha384 : List Byte → List Byte

/-- Whether an ECDSA P-384 signature over a message verifies under a public key (16 R413; PRESUMED, log entry 11). -/
opaque Config.ecdsaVerify : (key message signature : List Byte) → Bool

/-- Whether an LMS signature over a message verifies under a public key (16 R413; PRESUMED, log entry 11). -/
opaque Config.lmsVerify : (key message signature : List Byte) → Bool

/-- The ECDSA P-384 signature over a message by the key that HMAC_DRBG draws from a seed (16 R422, R425; PRESUMED, log entry 11). -/
opaque Config.ecdsaSign : (seed message : List Byte) → List Byte

/-- The signature over a message by a leaf of the HSS tree (levels 2) or LMS tree (levels 1) whose seed and identifier the KDF gives (16
R422, R425; PRESUMED, log entry 11). -/
opaque Config.hssSign : (levels : Nat) → (seed : List Byte) → (leaf : Nat) → (message : List Byte) → List Byte

/-- The labels that tell the outputs of the KDF apart (16 R422 names none; PRESUMED, log entry 11). -/
opaque Config.kdfLabel : Nat → List Byte

/-- The UDS fused before delivery (16 R412; DESIGN CHOICE, log entry 7). -/
opaque Config.shippedUds : List Byte

/-- The two SHA-384 hashes fused for vendor key set n, 96 bytes (16 R414; DESIGN CHOICE, log entry 7). -/
opaque Config.vendorKeyHash : Nat → List Byte

/-- A certificate signing request for the DeviceID key (16 Table 16-5; PRESUMED, log entry 11). -/
opaque Config.csr : List Byte

/-- The bytes of an object whose Default is as built or as fused (17 Table 17-19; DESIGN CHOICE, log entry 5). -/
opaque Config.asBuiltBytes : (key : Nat) → List Byte

/-- The certificate chain of slot 0: the seed of DeviceID, the Alias key's CDI and generation (16 R422, R424; PRESUMED, log entry 11). -/
opaque Config.certChain : (deviceSeed cdi : List Byte) → Nat → List Byte

/-- The steward's true random generator (16 R412, R428; DESIGN CHOICE, log entry 3). -/
opaque Config.random : Nat → Nat → List Byte

/-- The first 128 columns of row i of the check matrix H, in 16 bytes (13 R341: "as built", the text prints no value; DESIGN CHOICE, log
entry 12). -/
opaque Config.checkRow : (i byte : Nat) → Byte

/-- The value of a dictionary object that is "as built", "as fused", "as manufactured" or "as shipped"
(17 Table 17-19, 15 Table 15-8, 16 Table 16-8; DESIGN CHOICE, log entry 5). -/
opaque Config.asBuilt : (key : Nat) → Nat

/-- The 832-byte image of vendor function entry e, 0 to 15 (08 R204 prints no coefficient; DESIGN CHOICE, log entry 13). -/
opaque Config.vendorEntry : Nat → List Byte

/-- The lines of the M-level runtime that a runtime component carries, from its first line on (16 R411, Table 16-4 print no packing;
PRESUMED, log entry 11). -/
opaque Config.runtimeLines : List Byte → List (BitVec 168)

/-- The firmware image as shipped (PRESUMED, log entry 11). -/
opaque Config.shippedImage : List Byte

/-- The JTAG identification code (16 R426 prints none; DESIGN CHOICE, log entry 5). -/
opaque Config.idcode : W32

/-- Whether a clay stack is in service on a die whose population, object 2201h, is not that of all four (15 R392; DESIGN CHOICE, log entry 5). -/
opaque Config.stackServes : (stack : Nat) → Bool

/-- The characterised minimum voltage of a DVFS point, in mV (15 R404: fused per part; DESIGN CHOICE, log entry 5). -/
opaque Config.vMin : (point : Nat) → Nat

/-- The leakage of the domains that are on, in mW, by temperature and voltage (15 R398: per-part fused table; DESIGN CHOICE, log entry 6). -/
opaque Config.staticPower : (domains temperature millivolts : Nat) → Nat

/-- The weight of activity counter k, in mW per event (15 R398: per-part fused; DESIGN CHOICE, log entry 6). -/
opaque Config.activityWeight : Nat → Nat

/-- The set of a line in a memory-side cache: a fixed hash of the line address that the spec does not print (10 R251; DESIGN CHOICE,
log entry 95). -/
opaque Config.cacheSet : (line : Nat) → Nat

/-- What the die-to-die link does to an access across it in a clk, modulo 3: 0 completes it, 1 an uncorrectable error, 2 no completion within
65,536 clk; whether a word of a completed one is corrected in the receiver, by the parity of a third of it; and the syndrome of an
uncorrectable word, its sixth (03 Table 3-4, 13 R341 to R343; DESIGN CHOICE, log entry 104). -/
opaque Config.linkOutcome : (clk address : Nat) → Nat

/-- The receive places that a class takes up on an Ethernet port when the port asks its peer to pause it (11 R286 prints none; DESIGN CHOICE,
log entry 143). -/
opaque Config.pauseFrom : Nat

/-- Which of the old and the new translation an access uses while an invalidation is not yet complete (03 R97; DESIGN CHOICE, log entry 14). -/
opaque Config.staleTranslation : Nat → Bool

/-- The module that stands at an attachment point and what its identity memory gives, where the steward reads it without a command that
says so (17 R457; DESIGN CHOICE, log entry 110). -/
opaque Config.moduleAt : Nat → Nat → Option ModuleId

end Sys2Proof
end

