-- ==== Sys2Proof/Machine/Store.lean ====
section
/-! DEFINITION. Sparse tables: lists of (key, value) pairs in one canonical form (keys strictly rising, no entry equal
to the default), used for memory, register files and tables alike. -/

namespace Sys2Proof.Machine

/-- A sparse table (DESIGN CHOICE, log entry 94). -/
abbrev Store (α : Type) := List (Nat × α)

/-- The value at a key, or the default. -/
def storeGet {α : Type} (d : α) (s : Store α) (k : Nat) : α :=
  match s with
  | [] => d
  | (k', v) :: r => if k' = k then v else storeGet d r k

/-- The table without the key. -/
def storeErase {α : Type} (s : Store α) (k : Nat) : Store α :=
  match s with
  | [] => []
  | (k', v) :: r => if k' = k then storeErase r k else (k', v) :: storeErase r k

/-- An entry put before the first larger key. -/
def storeInsert {α : Type} (s : Store α) (k : Nat) (v : α) : Store α :=
  match s with
  | [] => [(k, v)]
  | (k', v') :: r => if k < k' then (k, v) :: (k', v') :: r else (k', v') :: storeInsert r k v

/-- Write a value; writing the default removes the entry. -/
def storeSet {α : Type} [DecidableEq α] (d : α) (s : Store α) (k : Nat) (v : α) : Store α :=
  if v = d then storeErase s k else storeInsert (storeErase s k) k v

/-- Every entry's value passed through a function of key and value (entries that become the default stay out). -/
def storeMap {α : Type} [DecidableEq α] (d : α) (f : Nat → α → α) (s : Store α) : Store α :=
  match s with
  | [] => []
  | (k, v) :: r => if f k v = d then storeMap d f r else (k, f k v) :: storeMap d f r

/-- The entries whose key passes a test. -/
def storeFilter {α : Type} (p : Nat → Bool) (s : Store α) : Store α := s.filter fun e => p e.1

/-- Values written at consecutive keys. -/
def storeSetMany {α : Type} [DecidableEq α] (d : α) (s : Store α) (k : Nat) (vs : List α) : Store α :=
  match vs with
  | [] => s
  | v :: r => storeSetMany d (storeSet d s k v) (k + 1) r

/-- The values of n consecutive keys. -/
def storeGetMany {α : Type} (d : α) (s : Store α) (k n : Nat) : List α :=
  match n with
  | 0 => []
  | m + 1 => storeGet d s k :: storeGetMany d s (k + 1) m

/-- Keys strictly rising from a bound. -/
def storeSorted {α : Type} (lo : Nat) (s : Store α) : Bool :=
  match s with
  | [] => true
  | (k, _) :: r => decide (lo ≤ k) && storeSorted (k + 1) r

/-- The canonical form: keys strictly rising, no entry equal to the default. -/
def storeWf {α : Type} [DecidableEq α] (d : α) (s : Store α) : Bool :=
  storeSorted 0 s && s.all fun e => decide (e.2 ≠ d)

end Sys2Proof.Machine
end

