-- ==== Sys2Proof/Machine/State.lean ====
section
/-! DEFINITION. The state of the block: everything the spec gives the machine, as plain data, and the state after reset.
Tables are sparse stores keyed by a natural number; each field's docstring says how its key is built. -/

namespace Sys2Proof.Machine

/-- The faults of the model. No command of this block ends in one: every failing access, refused command and stopped
stream of the spec is an effect on the state. -/
inductive Fault where
deriving DecidableEq, Repr

/-- The refusals of the model. -/
inductive Refusal where
  /-- An arm of exec whose meaning is not written yet; safe, since nothing is claimed of the command. -/
  | notModelled (mnemonic : String)
deriving DecidableEq, Repr

/-! ### Stream and privilege -/

/-- The registers that one handler level (S or M) owns (03 Table 3-1). -/
structure LevelRegs where
  vtb : W64
  ret : W64
  saved : W64
  fault : W64
  faddr : W64
  ie : W64
  rpl0 : W64
  rpl1 : W64
  rpl2 : W64
  rpl3 : W64
deriving DecidableEq, Repr

/-- A branch whose delay slots are unfinished (02 R43, 03 R87): its address, its target, whether it is taken, the delay
slot that issues next (1 or 2), and whether it is a BRF. -/
structure Branch where
  addr : IAddr
  target : IAddr
  taken : Bool
  slot : Nat
  brf : Bool
deriving DecidableEq, Repr

/-- A mode change in its shadow (02 R45): its kind and value as SAVED.PK and SAVED.PV hold them (03 Table 3-2), and how
many bundles still issue under the old mode. -/
structure Change where
  kind : BitVec 3
  value : BitVec 10
  left : Nat
deriving DecidableEq, Repr

/-- A fetched line (02 R30): its number, its bits, and whether its word is uncorrectable or poisoned (R31). -/
structure FLine where
  num : Nat
  bits : BitVec 168
  bad : Bool
deriving DecidableEq, Repr

/-- A wait that holds issue (02 R53). -/
inductive Wait where
  | dmw (mask : BitVec 160) (tag : BitVec 6)
  | clw (tag : BitVec 6)
  | wbeat (count : BitVec 48)
deriving DecidableEq, Repr

/-- A scalar or short-vector access as its replay record holds it (03 R79): slot, opcode, operand and immediate
syllables, effective address, store data, first element still to run; with the level it issued at, its bundle's address
and its issue number. -/
structure Access where
  slot : BitVec 3
  opcode : BitVec 14
  p1 : BitVec 14
  imm1 : BitVec 14
  ea : W64
  data : W128
  first : Nat
  level : BitVec 2
  bundle : IAddr
  op : Nat
  /-- the clk its latencies count from -/
  base : Nat
deriving DecidableEq, Repr

/-- A deferred fault that is detected and not yet taken (03 R76): code, subcode, fault address, slot, reporting slice,
level of origin, bundle address, issue number; and the replay words if the operation leaves a record (R79, R157, R200). -/
structure Deferred where
  code : BitVec 8
  sub : BitVec 8
  faddr : W64
  slot : BitVec 3
  slice : Nat
  level : BitVec 2
  bundle : IAddr
  op : Nat
  /-- the clk of detection -/
  clk : Nat
  replay : Option (W64 × W64 × W64 × W64)
deriving DecidableEq, Repr

/-- The sequencer (01, 02, 03). -/
structure Seq where
  /-- the stream runs (01 R25) -/
  running : Bool
  /-- the address of the first unissued bundle (02 R29) -/
  pc : IAddr
  fa : BitVec 4
  fw : BitVec 4
  spr : BitVec 2
  /-- MODE.IF: compact form (02 Table 2-6) -/
  compact : Bool
  pl : BitVec 2
  /-- G0 to G7 (02 R41) -/
  gmask : Store (BitVec 160)
  gstage : Store (BitVec 160)
  /-- the visible loop depth (02 R47) -/
  depth : Nat
  lc : Store W32
  le : Store IAddr
  /-- the first body bundle of each open loop (02 R48) -/
  lstart : Store IAddr
  branch : Option Branch
  change : Option Change
  lines : List FLine
  /-- for each PMSYNC under way, the bundles still to issue before it discards the fetched lines (02 R30) -/
  pmsync : List Nat
  /-- the clk from which the next bundle may issue (03 R73, R82) -/
  issueFrom : Nat
  /-- the clk up to which the steward holds issue while it writes runtime lines (02 R53, 16 R419) -/
  holdTo : Nat
  /-- replayed and resumed operations whose landing holds issue (03 R84, 05 R133) -/
  awaiting : List Nat
  /-- the unsatisfied waits of the last issued bundle, in slot order, and that bundle's address -/
  wait : List Wait
  waitAt : IAddr
  /-- issue has run past line 262,143 (R32) -/
  past : Bool
  /-- beat boundaries within the hold (03 R480) -/
  waitBeats : Nat
  deferred : List Deferred
  /-- the handlers that have been entered and not returned from, the last first: the issue number at entry, the level interrupted
  (03 R81), and the operation whose replay record the entry left (R84) -/
  entries : List (Nat × BitVec 2 × Option Nat)
  /-- how the words that hold the control and loop state decode (13 R355) -/
  ctrlMark : Mark
deriving DecidableEq, Repr

/-- Counts and flags of the sequencer beside the stream itself. -/
structure Count where
  /-- clk since reset; the model's own (00 R8) -/
  clk : Nat
  /-- issue number of the next operation; the model's own (02 R60) -/
  op : Nat
  /-- counter of free values; the model's own (DESIGN CHOICE, log entry 3) -/
  free : Nat
  /-- what a record's OP names of the operation whose work is done now, C000h while none is; the model's own (13 R350) -/
  opNow : BitVec 16
  /-- step angle and step count (01 R20) -/
  angle : BitVec 16
  step : BitVec 48
  repeatPending : Bool
  /-- a stop at the next MARK to angle 0 (11 R311) -/
  stopAtMark : Bool
  /-- the escalation handler runs (03 R89) -/
  escalating : Bool
  /-- the code of the fault that entered it (03 R91) -/
  escCode : BitVec 8
  /-- interrupt latches 10h to 1Fh (03 R70) -/
  ipend : BitVec 16
  /-- the watchdog count of 03 R480 -/
  watchdog : Nat
  /-- the clk of the 16-clk frame of the mute, and the clk withheld in all (15 R400) -/
  frame : Nat
  withheld : Nat
  /-- CRC of the bundles issued in the beat, the model's digest: their number (13 R355) -/
  bundlesInBeat : Nat
  /-- sequencer restarts within the step (13 R355) -/
  restarts : Nat
  /-- advances of the step count since the stream start (14 R382) -/
  stepsRun : Nat
  /-- the first step since the stream start (09 R224) -/
  firstStep : Bool
  /-- the step in which a replacement's vote withdraws its micro-batches (14 R385) -/
  dropStep : Option (BitVec 48)
  /-- a recovery selected the drain check (09 R224) -/
  recoveryArm : Bool
  /-- the spans written in the current clk by agents whose order within a clk is fixed: first byte, length, rank (10 R247, R252) -/
  writes : List (Nat × Nat × Nat)
deriving DecidableEq, Repr

/-- The control registers of 03 Table 3-1 that belong to no level set, and those of the tile, scale, element-wise,
stash, DMA, cue and collective tables. -/
structure Ctl where
  sx : LevelRegs
  mx : LevelRegs
  ptb : W64
  /-- the root in use since the last TINV (03 R97) -/
  ptbInUse : W64
  /-- cached table entries: key (unit·4 + level)·2^31 + the address bits that index down to the entry, unit 0 the sequencer, 1 + s slice
  s (03 R93, R97) -/
  tlb : Store W64
  /-- invalidations not yet complete: the clk each ends, all or one region, the region's VA[51..21], the root that SX_PTB held (03 R97) -/
  tinvs : List (Nat × Bool × Nat × W64)
  bcmp : W64
  bcmpArmed : Bool
  iroute : W64
  escsp : W64
  wdt : W64
  tpsel : W64
  /-- TPR1 and TPR2 as staged (05 Table 5-9) -/
  tpr1 : W64
  tpr2 : W64
  scsel : W64
  scdq : Store (BitVec 9)
  /-- VB0 to VB3 (08 Table 8-2) -/
  vb : Store W64
  rtkl : W64
  rtkh : W64
  rtsub : W64
  cpsel : W64
  mssel : W64
  stsel : W64
  dcArm : Bool
  dcReason : BitVec 2
  dmerr : W64
  dmelog : W64
  dmea : W64
  cqsel : W64
  cqen : W64
  cqref : W64
  clerr : W64
  clelog : W64
  clverd : W64
  clnfl : W64
  ckstat : W64
  pwq : W64
  odsel : W64
  oddat : W64
  odst : W64
  odw : Store W64
  odwhit : W64
deriving DecidableEq, Repr

/-- The scalar core (04 R99). -/
structure Scalar where
  x : Store W64
  f : Store W64
deriving DecidableEq, Repr

/-! ### Work in flight -/

/-- A tile movement as it was captured at issue (05 R121): operation (0 TLD, 1 TST, 2 SWL), tile, slice and its position k,
configuration word, memory-side format, TR, CV, slot, address, first row to move, level, bundle. -/
structure Move where
  kind : Nat
  t : Nat
  slice : Nat
  gk : Nat
  cfg : W64
  /-- members of the owning membership -/
  n : Nat
  fmt : BitVec 4
  tr : Bool
  cv : Bool
  slot : BitVec 14
  addr : W64
  level : BitVec 2
  bundle : IAddr
  /-- the dequantisation exponent of the slot, captured at issue (07 R172) -/
  deq : Int
  first : Nat
  base : Nat
  op : Nat
  /-- the record's place in its queue when the movement is a resumed one (05 R133) -/
  place : Option Nat
deriving DecidableEq, Repr

/-- An element on its way: bit position in its destination, width, pattern, and whether it is poison. -/
structure El where
  pos : Nat
  w : Nat
  v : Nat
  bad : Bool
deriving DecidableEq, Repr

/-- A source element as a row read delivers it (05 R123): block-local row and column, pattern, scale byte, poison of the
element and of its scale byte, and for a store the physical byte address of its destination and that of its scale byte. -/
structure Raw where
  r : Nat
  c : Nat
  v : Nat
  scale : Nat
  bad : Bool
  sbad : Bool
  dst : Nat
  dstScale : Nat
deriving DecidableEq, Repr

/-- The lane-wise and reducing operations of the element-wise engine (08 Table 8-1), without the memory operations. -/
inductive VeFn where
  | fadd | fsub | fmul | fma | frcp | fsqrt | frsqrt | fscale | fmin | fmax | fabs | fneg
  | add | sub | mul | addu | subu | mulu | min | max | minu | maxu
  | and | or | xor | andn | shl | shr | sra | mov | bcst | iota
  | ceq | clt | cltu | fceq | fclt | fcle | sel | cvtn | cvtw
  | feval | fdrv | ftld | rdrop | rmask | rsum | rmax | rmin | ramax | risum | routine
deriving DecidableEq, Repr

/-- The operands of a VE operation in one slice, as read at issue: A, B and LD, each lane with its poison (08 R187). -/
structure VeSlice where
  slice : Nat
  a : List (W32 × Bool)
  b : List (W32 × Bool)
  d : List (W32 × Bool)
deriving DecidableEq, Repr

/-- A VE operation as captured at issue (02 R55, 08 R188): the bank and block that A is read from at issue + 6, if it is
one; SCDQ; the field immediate; the conversion's format and exponent; the entry of a table routine; the rattle's key, sub-stream
and step; the clk its result lands in. -/
structure VeJob where
  fn : VeFn
  ld : Nat
  sat : Bool
  bank : Option (Nat × Nat)
  scdq : Int
  imm : Nat
  fmt : Nat
  e : Int
  fe : Nat
  key : W128
  sub : W32
  step : BitVec 48
  land : Nat
  lanes : List VeSlice
  res : List Nat
  /-- slices in which another operation has taken its resource over, with the clk from which nothing of it lands there (02 R63) -/
  lost : List (Nat × Nat)
  /-- quarters whose spot sample this operation fills (13 R368) -/
  sampled : List Nat
  level : BitVec 2
  bundle : IAddr
  op : Nat
deriving DecidableEq, Repr

/-- A VE operation before it reads its operands: a micro-op of a micro-sequence waits for its clk in this form (08 R207). -/
structure VeStart where
  fn : VeFn
  ld : Nat
  la : Nat
  lb : Nat
  sat : Bool
  bank : Option (Nat × Nat)
  /-- the broadcast immediate, if B is one -/
  immB : Option W32
  imm : Nat
  /-- the format and exponent of a conversion; none: MODE.FA and 0 -/
  conv : Option (Nat × Int)
  fe : Nat
  /-- a declared latency, for a table routine -/
  lat : Option Nat
  /-- SCDQ of its bank, captured at issue -/
  scdq : Int
  res : List Nat
  /-- as in VeJob -/
  lost : List (Nat × Nat)
  mask : BitVec 160
  level : BitVec 2
  bundle : IAddr
  op : Nat
deriving DecidableEq, Repr

/-- A long-vector memory access as it is latched (08 R197 to R200): 0 LDL, 1 STL, 2 LDB, 3 GATH, 4 SCAT. -/
structure VeMem where
  kind : Nat
  ld : Nat
  imm : Nat
  addr : W64
  lanes : List VeSlice
  /-- the bank and block that a gather or scatter reads its index from, if it reads one -/
  bank : Option (Nat × Nat)
  scdq : Int
  level : BitVec 2
  bundle : IAddr
  op : Nat
  base : Nat
deriving DecidableEq, Repr

/-- A matrix-vector product as it is latched (06 R156, R157): bank, ACC, address, format, the vector of each slice. -/
structure MvJob where
  /-- resources taken from it before its header was read: key and issue clk of the taker -/
  taken : List (Nat × Nat)
  ad : Nat
  acc : Bool
  addr : W64
  fw : Nat
  vec : List (Nat × List (W32 × Bool))
  level : BitVec 2
  bundle : IAddr
  op : Nat
  base : Nat
deriving DecidableEq, Repr

/-- A landing or a timed read (02 R59 to R62). -/
inductive Micro where
  | setX (r : Nat) (v : W64)
  | setF (r : Nat) (v : W64)
  | setVec (d : Nat) (bits : Nat) (els : List (Nat × Nat))
  | access (a : Access)
  | read (a : Access) (addrs : List Nat)
  | store (bytes : List (Nat × Byte)) (level : BitVec 2)
  | tcfg (t : Nat) (word : W64) (gn : BitVec 3) (mask : BitVec 160)
  | rowRead (m : Move) (row : Nat)
  | rowLand (m : Move) (els scales : List El) (last : Bool)
  | prodBlock (op : Nat)
  | prodRow (op q i : Nat)
  | prodLand (op i : Nat)
  | drainLand (slice db : Nat) (vals : List (Nat × W32 × Bool))
  | prodDone (op : Nat)
  | mvmStart (j : MvJob)
  | mvmLand (j : MvJob) (vals : List (Nat × List (W32 × Bool)))
  | setL (vals : List (Nat × W32 × Bool))
  | veRead (j : VeJob)
  | veMem (m : VeMem)
  | veLoad (m : VeMem) (off : List (Nat × Nat))
  | veIndex (m : VeMem) (off : Nat)
  | gathRead (m : VeMem) (slice lane addr : Nat)
  | gathLand (m : VeMem)
  | storeMarked (bytes : List (Nat × Byte × Bool))
  | table (slice entry : Nat) (image : List Byte) (bad : List Bool)
  | veIssue (v : VeStart)
  | scaleAdvance (slot : Nat) (spr : BitVec 2)
deriving DecidableEq, Repr

/-- One piece of work in flight: when it is due, whether it is a landing (phase 0) or a read (phase 1), the issue number
of its operation, the resources it occupies, and what it does. -/
structure Work where
  due : Nat
  phase : Nat
  op : Nat
  res : List Nat
  act : Micro
deriving DecidableEq, Repr

/-- The last use of a resource (02 R63): operation, begin clk, end of its reuse distance. -/
structure Use where
  op : Nat
  begin : Nat
  free : Nat
deriving DecidableEq, Repr

/-! ### Tiles, arrays, element-wise state -/

/-- How an access's address came out: a physical address, or a fault's code, subcode and FADDR. -/
inductive Addr where
  | ok (pa : Nat)
  | fail (code sub : Nat) (faddr : W64)
deriving DecidableEq, Repr

/-- A configured tile (05 R120, R122): the word as accepted, the number of the group, the owning membership. EN = 0 in the
word is the unconfigured state. -/
structure TileCfg where
  word : W64
  gn : BitVec 3
  mask : BitVec 160
deriving DecidableEq, Repr

/-- A tile-progress record (05 Table 5-9): TPR0, TPR1 and TPR2. TPR0[63] is V. -/
structure TileRec where
  w0 : W64
  w1 : W64
  w2 : W64
deriving DecidableEq, Repr

/-- A tile product in flight (06): its operands as captured at issue, the routed flag, the drain derivative's entry, bank
and SCDQ, the fold as 06 R147 to R152 give it, and what its reads have delivered so far. -/
structure Prod where
  op : Nat
  issued : Nat
  bundle : IAddr
  level : BitVec 2
  ad : Nat
  ta : Nat
  tb : Nat
  trans : Bool
  acc : Bool
  cfgA : TileCfg
  cfgB : TileCfg
  routed : Bool
  /-- G, or 0 where no group is rescaled -/
  g : Nat
  /-- the source of the stationary block in each slice: 0 fragment, 1 shadow, 2 active (06 R143) -/
  source : Store Nat
  /-- TMMD: entry DE, bank DB, SCDQ of AD (09 R220, R221) -/
  drain : Option (Nat × Nat × Int)
  /-- the derivative entry of each slice as read at t + 7: word k of slice s at s·256 + k; present if valid -/
  entry : Store W32
  entryOk : Store Bool
  /-- captured stationary elements and scales by cell position (slice·131072 + r·512 + c; scales from 65536 on), and those
  that are poison -/
  block : Store Nat
  blockBad : Store Bool
  /-- captured streamed rows: key (q·256 + k)·2048 + i, elements, scales, poisoned elements -/
  rows : List (Nat × List Nat × List Nat × List Bool)
  /-- quarters whose spot sample this product fills (13 R368) -/
  sampled : List Nat
deriving DecidableEq, Repr

/-- Tile registers, arrays and banks (05, 06). Keys: fragments (slice·8 + t)·32768 + byte; block scales
(slice·8 + t)·2048 + byte; banks (slice·8 + a)·16384 + element; weights by cell position as in Prod.block. Marks are kept per code word: byte/16, or element/4. -/
structure Tiles where
  frag : Store Byte
  fragMark : Store Mark
  bscale : Store Byte
  bscaleMark : Store Mark
  bank : Store W32
  bankMark : Store Mark
  cfg : Store TileCfg
  /-- what TCF0 to TCF7 read: the word as last accepted, with its group's number in [2..0] (05 R122) -/
  accepted : Store W64
  /-- the one translation that an operation has made of each 2 MiB page of its address: issue number, page, result (05 R123) -/
  xlat : List (Nat × Nat × Addr)
  /-- key (slice·3 + resource)·8 + index (05 R132) -/
  recs : Store TileRec
  /-- of each record, by the same key, the issue number of its operation (0 where CTLW wrote the record) and the members of the owning
  membership it was captured under (05 R120, R132, R133) -/
  recMeta : Store (Nat × Nat)
  /-- bindings: 0 none, t + 1 (06 R143) -/
  active : Store Nat
  shadow : Store Nat
  activeVals : Store Nat
  activeBad : Store Bool
  shadowVals : Store Nat
  shadowBad : Store Bool
  prods : List Prod
  /-- rows read of a group that has not landed: operation, slice, row, elements (05 R124) -/
  moveBuf : List (Nat × Nat × Nat × List Raw)
  /-- operations that have raised their one deferred fault (03 R481) -/
  raised : List Nat
  /-- latched MVM operations by issue number (06 R157) -/
  mvLatch : Store MvJob
deriving DecidableEq, Repr

/-- A scale slot (07 Table 7-3). -/
structure Slot where
  st : BitVec 2
  cls : BitVec 2
  tf : BitVec 4
  mg : BitVec 3
  sl : BitVec 3
  fl : BitVec 3
  nf : Bool
  vc : BitVec 5
  hd : BitVec 4
  e : BitVec 9
  lae : BitVec 9
  lv : Bool
  bk : BitVec 3
  ring : List W32
  acc : W32
  used : Bool
  /-- the saturations and flushes that its conversions have recorded (07 R175) -/
  ns : Nat
  nz : Nat
  /-- the marks of the five code words of its record, the rest good (13 Table 13-1) -/
  marks : List Mark
deriving DecidableEq, Repr

/-- The element-wise engine (08). Keys: L registers (slice·16 + r)·256 + lane, marks per 4 lanes; function tables
(slice·64 + entry)·832 + byte, marks (slice·64 + entry)·52 + byte/16, valid flag slice·64 + entry; coprocessor records and micro-ops by number. -/
structure Elem where
  l : Store W32
  lMark : Store Mark
  table : Store Byte
  tableMark : Store Mark
  tableValid : Store Bool
  /-- entries 0 to 15 hold the vendor set, but for those written since the stream start: slice·64 + entry (08 R204) -/
  vendor : Bool
  vendorOver : Store Bool
  cprec : Store W64
  msop : Store W64
  /-- accesses latched for replay, by issue number -/
  latch : Store VeMem
  /-- elements a gather has read so far: operation, slice, lane, value, poison -/
  gathBuf : List (Nat × Nat × Nat × W32 × Bool)
deriving DecidableEq, Repr

/-! ### DMA and stash -/

/-- A transfer as issued (10 R254): descriptor address, group, tag, level, MODE.SPR at issue, issue number and clk; `ck`, OWN and ARG of a cue
action of code 4h (14 R378). -/
structure Xfer where
  xd : W64
  mask : BitVec 160
  tag : BitVec 6
  level : BitVec 2
  spr : BitVec 2
  op : Nat
  issued : Nat
  ck : Option (BitVec 2 × W128)
  /-- the queue of the cue that started it (15 R399) -/
  cueQ : Option Nat
deriving DecidableEq, Repr

/-- An end of a request: none (the source of a fill, the destination of a prefetch), an address as the descriptor names
it, a device physical address, or a device physical address of another device (10 R255 to R262). -/
inductive End where
  | none
  | named (a : W64)
  /-- an address that the level of another operation names: a stash entry's home (09 R230) -/
  | home (level : BitVec 2) (a : W64)
  | phys (pa : Nat)
  | remote (dev pa : Nat)
deriving DecidableEq, Repr

/-- One request of a transfer (10 R258): its ends and its length in bytes. -/
structure Req where
  src : End
  dst : End
  len : Nat
deriving DecidableEq, Repr

/-- A request in flight: its number, its ends as resolved at issue and as the descriptor names them, the clk of its issue, whether it was counted past its
service bound, the flits of a remote write not yet completed, the controller queues that it needs with the bank in each and whether it has
its entries in them (10 R265, R267), and, plus one, the clk in which it last found a scratch bank claimed (10 R246). -/
structure Flight where
  num : Nat
  req : Req
  named : Req
  since : Nat
  late : Bool
  owed : Nat
  places : List (Nat × Nat)
  admitted : Bool
  blocked : Nat
deriving DecidableEq, Repr

/-- A transfer that a slice's engine holds (10 R254 to R261): the slice, its position in the group, the descriptor as read,
whether its kind's step has begun it, the requests not yet issued, those in flight, the number of its last request (for the
rotation of R254), the cause that stopped it (0 none), whether a scaled conversion runs in it, and, plus one, the clk in which its next
request last met a hot bank (10 R266). -/
structure Held where
  x : Xfer
  slice : Nat
  k : Nat
  desc : BitVec 512
  begun : Bool
  todo : List Req
  out : List Flight
  drawn : Nat
  cause : Nat
  conv : Bool
  hot : Nat
deriving DecidableEq, Repr

/-- A scaled conversion in flight (07 R175, R177): its slot, transfer, the lowest slice's descriptor, every slice that takes part with its
position and its own descriptor (10 R254), the slot as captured at its start, the exponent in force, the measured maximum, how many
non-finite inputs were met, the slices that met poison with the address of the request, and the pass it is in (0 waiting, 1 pre-scan, 2
convert, 3 redo). -/
structure Conv where
  slot : Nat
  op : Nat
  mask : BitVec 160
  tag : BitVec 6
  desc : BitVec 512
  parts : List (Nat × Nat × BitVec 512)
  level : BitVec 2
  spr : BitVec 2
  cap : Slot
  e0 : Int
  hown : W32
  nonFinite : Nat
  bad : List (Nat × W64)
  pass : Nat
deriving DecidableEq, Repr

/-- A stash entry (09 R228, Table 9-4): state and captured fields; the run of each slice in granules (offset + 1); while it is
busy, the transfer that makes it so and the state that follows. -/
structure StashEnt where
  st : BitVec 3
  next : BitVec 3
  op : Nat
  last : BitVec 2
  recomp : Bool
  keep : Bool
  size : Nat
  layer : BitVec 16
  home : W64
  level : BitVec 2
  mask : BitVec 160
  seqNo : Nat
  run : Store Nat
deriving DecidableEq, Repr

/-- DMA engines, scaled conversions and stash. -/
structure Dma where
  queue : List Xfer
  /-- slices that have accepted the transfer of an issue number: key op·256 + slice -/
  accepted : Store Bool
  held : List Held
  convs : List Conv
  nextReq : Nat
  /-- transfers already counted as ended in error (7220h:09) -/
  erred : List Nat
  stash : Store StashEnt
  /-- puts that the engines hold and that have not begun, with the entry that each has taken: operation, entry, descriptor (09 R230) -/
  claims : List (Nat × Nat × BitVec 512)
  /-- the issue number at the last announcement of a repeat or start (09 R234) -/
  cut : Nat
  /-- the issue number at the last stream start or restore (09 R228) -/
  born : Nat
deriving DecidableEq, Repr

/-! ### Links, beat and cues -/

/-- The states of a port (11 Table 11-2). -/
inductive PortState where
  | off | dark | training | active | retrain | miswired | failed
deriving DecidableEq, Repr

/-- A flit that waits at a port or stands in its replay buffer: the port it came in on (8: this device), whether it still holds a place of
that port's receive buffer, the flit as it came and as it is sent (11 R283, R290, R293). -/
structure Queued where
  origin : Nat
  held : Bool
  came : Flit
  flit : Flit
deriving DecidableEq, Repr

/-- One optical port (11 R271 to R293). -/
structure Port where
  st : PortState
  /-- the training step in progress, 1 to 5 -/
  step : Nat
  gen : Nat
  half : Bool
  /-- logical lane to physical lane, key logical; absent: the lane itself -/
  laneMap : Store Nat
  /-- retired physical lanes, oldest first -/
  retired : List Nat
  /-- a swap that has begun: logical lane, spare (11 R280); whether both ends have agreed on it, and the boundary at which its frame F
  begins -/
  swap : Option (Nat × Nat)
  agreed : Bool
  swapAt : BitVec 48
  /-- credits of the six channels (absent: 32) and of the shared pool (11 R283) -/
  credits : Store Nat
  shared : Nat
  /-- sequence number of the next frame to send, and of the last frame received good -/
  txSeq : BitVec 12
  rxGood : BitVec 12
  /-- frames are discarded until the replayed one arrives (11 R276) -/
  discarding : Bool
  /-- the last 128 frames sent -/
  replay : List (BitVec 12 × List Queued)
  /-- the link-control flits of those frames -/
  sentCtl : List (BitVec 12 × List LinkControl)
  replays : Nat
  /-- flits waiting to be sent -/
  queue : List Queued
  /-- flits of class C and of class M sent in the round of 11 R284 -/
  served : Nat × Nat
  /-- the input that is next in rotation, by class -/
  turn : Store Nat
  /-- the frame being sent carries the beat marker (11 R294) -/
  marker : Bool
  /-- the training attempts -/
  attempts : Nat
  /-- places freed since the last frame, by channel -/
  freed : Store Nat
  /-- a NAK is to go out -/
  nak : Bool
  peerHop : BitVec 6
  peerId : BitVec 14
  /-- the peer's last transmit stamp (11 Table 11-4) -/
  stamp : W32
  rtt : Nat
  ethSeq : W32
  /-- an Ethernet port's flow control (11 R286): receive places taken by class, classes for which a pause is out, and the clk until which a
  class of an interface (interface·4 + class) is paused by the peer -/
  placed : Store Nat
  pausing : List Nat
  paused : Store Nat
deriving DecidableEq, Repr

/-- The beat (11 R294 to R300). -/
structure Beat where
  count : BitVec 48
  /-- the clk of the last boundary -/
  boundary : Nat
  period : Nat
  /-- the count at which the period in force took effect, as this device knows it (11 R295) -/
  periodFrom : BitVec 48
  switchAt : Option (BitVec 48 × Nat)
  st : Nat
  hop : BitVec 6
  upstream : Nat
  actingRoot : Bool
  /-- waiting for the upstream's count to pass this device's (11 R300) -/
  waiting : Bool
  gen : Bool
  /-- whether this device has enabled its beat as root since its D2D domain came up (11 R294) -/
  enabled : Bool
  /-- the acting root, as this device knows it, and whether a peer has told it (11 R299) -/
  root : BitVec 14
  rootTold : Bool
deriving DecidableEq, Repr

/-- A cue entry (11 Table 11-7): the four words, and whether it has fired in this step (R305). -/
structure Cue where
  w0 : W64
  w1 : W64
  w2 : W64
  w3 : W64
  fired : Bool
  /-- the host wrote it (17 Table 17-6, vector 2) -/
  host : Bool
  /-- the marks of its two code words, the rest good (13 Table 13-1) -/
  marks : List Mark
deriving DecidableEq, Repr

/-- Links, beat and cue table. -/
structure Fabric where
  ports : Store Port
  beat : Beat
  cues : Store Cue
  /-- W1 to W3 staged by CTLW, and by the host under an entry, by word number (11 R303, 17 R444) -/
  stage : Store W64
  hostStage : Option (BitVec 10 × Store W64)
  shroud : Bool
  /-- flits that came back to this device from a port that left ACTIVE, and its collective flits lost to a dark destination (true), not yet
  taken up (11 R292, R293, 12 R332) -/
  inbox : List (Bool × Flit)
  /-- DMA actions that wait for a full issue queue (11 R310) -/
  cueWait : List Xfer
  /-- scans under way, beat and angle (11 R304, R305, R307): first clk, next group of eight entries, boundary count or
  angle -/
  beatScans : List (Nat × Nat × Nat)
  angleScans : List (Nat × Nat × Nat)
  /-- one more than the last clk whose examination has been made; the model's own -/
  scanned : Nat
  /-- the entries that fired in the last examination (11 R306) -/
  firedNow : List Nat
deriving DecidableEq, Repr

/-! ### Collective engine -/

/-- A collective message as it is received (12 R324): sender, PK, dimension, body, tally and status words. -/
structure Msg where
  bid : Nat
  ps : Nat
  peer : Nat
  pk : Nat
  dim : Nat
  body : List W128
  tally : W128
  status : W128
  digest : W128
deriving DecidableEq, Repr

/-- A collective that the engine has accepted (12 R314 to R333). -/
structure Coll where
  xd : W64
  tag : BitVec 6
  level : BitVec 2
  op : Nat
  desc : BitVec 512
  isOpen : Bool
  openBeat : BitVec 48
  /-- its kind's step has begun it -/
  running : Bool
  /-- the number of phases it has ended -/
  phase : Nat
  /-- exponents, or the vote word, of the blocks of the current range -/
  items : List Int
  /-- the shared exponents of all blocks, after the exponent pass -/
  exps : List Int
  /-- this device's blocks in message form: of the whole bucket (reduce-scatter) or of the current range (all-gather) -/
  blocks : List (List Byte)
  /-- v of 12 R330, element by element, with CMP = 1 -/
  vs : List W32
  /-- mantissa sums of the current range, and how many contributions they hold -/
  sums : List Int
  count : Nat
  got : List Msg
  /-- the step in which it was accepted (12 R316) -/
  step : BitVec 48
  /-- its exponent and vote messages as sent, by destination, for a resend (12 R325) -/
  sent : List Msg
  /-- the messages that stand in its work area, each at its byte offset (12 R328) -/
  wa : List (Msg × Nat)
  /-- the attempt in which it was accepted (12 R335) -/
  att : BitVec 8
deriving DecidableEq, Repr

/-- The collective engine and the vote (12). -/
structure CollE where
  /-- issue queue: XD, tag, level, issue number, issue clk -/
  queue : List (W64 × BitVec 6 × BitVec 2 × Nat × Nat)
  held : List Coll
  /-- open phases 1 to 255 -/
  phases : Store Bool
  /-- messages held for collectives not yet open (12 R325) -/
  early : List Msg
  /-- collectives of the attempt that have ended: bucket, peer set, OP -/
  ended : List (Nat × Nat × Nat)
  /-- flits of the attempt that are kept: sender, type-specific field and payload (12 R325) -/
  seen : List (Nat × Nat × List W128)
  attempt : BitVec 8
  /-- consecutive repeats committed in this step -/
  repeats : Nat
  voteL : Bool
  voteN : Bool
  voteT : Bool
  voteD : Bool
  /-- peer sets of the repeat tocsins that have come for the current attempt -/
  tocsin : List Nat
  /-- the vote to come is that of a re-exchange -/
  reexchange : Bool
  /-- step, attempt and peer set of the votes committed as proceed, as far back as a tocsin's STEP reaches (12 R337) -/
  committed : List (Nat × Nat × Nat)
  /-- L was set while a vote that had begun was not yet committed (13 R364) -/
  lateL : Bool
deriving DecidableEq, Repr

/-! ### Reliability -/

/-- A toll record (13 Table 13-3). -/
structure Toll where
  type : BitVec 16
  sev : BitVec 8
  flags : BitVec 8
  seqNo : BitVec 32
  beat : BitVec 48
  step : BitVec 48
  att : BitVec 8
  ucls : BitVec 8
  unit : BitVec 16
  op : BitVec 16
  temp : BitVec 16
  volt : BitVec 16
  addr : W64
  synd : BitVec 16
  count : BitVec 32
  job : W64
  detail : W64
deriving DecidableEq, Repr

/-- A ledger entry (13 R359). -/
structure LedgerEnt where
  utc : W64
  ucls : BitVec 8
  unit : BitVec 16
  type : BitVec 16
  seqNo : BitVec 32
  kind : BitVec 8
deriving DecidableEq, Repr

/-- What the reports of one unit remember (13 R352): the beat of its last 0001h record, the corrections since and their
addresses, and the corrections by address. -/
structure UnitRep where
  ucls : BitVec 8
  unit : BitVec 16
  beat : BitVec 48
  count : Nat
  distinct : List W64
  addrs : List (W64 × List (BitVec 48))
deriving DecidableEq, Repr

/-- A retirement under way (13 R361). -/
structure Follow where
  ucls : BitVec 8
  unit : BitVec 16
deriving DecidableEq, Repr

/-- An installed peal (13 R365). `package` is the whole package as management flash holds it, which each boot verifies (16 Table 16-1). -/
structure Peal where
  num : BitVec 16
  flags : BitVec 16
  version : W32
  dur : W32
  body : List Byte
  package : List Byte
deriving DecidableEq, Repr

/-- Reliability state (13). -/
structure Rel where
  ring : List Toll
  /-- records that wait in AON while the steward restarts, at most 64 (16 R419) -/
  waiting : List Toll
  flash : List Toll
  nextSeq : BitVec 32
  poison : List Nat
  /-- a stream has started since the last end of a job and no consumption has ended it (13 R347) -/
  jobOpen : Bool
  /-- the job has ended, and its issued operations complete before the slices, slots and cues are cleared (13 R347) -/
  ending : Bool
  /-- corrected words whose write-back has not landed (13 R343) -/
  fixes : List Nat
  reports : List UnitRep
  suspects : List (BitVec 8 × BitVec 16)
  ledger : List LedgerEnt
  follows : List Follow
  /-- the beat for which the steward has planned the switch of a retirement that it has begun (13 Table 13-5, 0022h) -/
  plans : List (Follow × BitVec 48)
  /-- rows of scratch banks and pseudo-channels that stand for their suspect unit, and rows that have been replaced, with whether the repair
  is hard (13 R357, R361): unit class, unit, row -/
  rows : List (BitVec 8 × BitVec 16 × Nat)
  replaced : List (BitVec 8 × BitVec 16 × Nat × Bool)
  /-- array rows and columns whose assigned spare follows a weight load in progress (its issue number), or has followed through a
  complete load or take-up (06 R160) -/
  trailed : List (Follow × Option Nat)
  /-- suspect and retiring rows and columns to which a free spare of their array is assigned (06 R160) -/
  spares : List Follow
  peals : List Peal
  running : Option (BitVec 16 × BitVec 48)
  /-- operations that have reached slices under test, with the slices and what their stores are put back to (13 R366) -/
  undo : List (Nat × List Nat × Tiles × Elem)
  samples : Store (BitVec 16)
  /-- what the spot-check buffers hold (13 R368), by quarter -/
  sampleData : Store (List Nat)
  products : Nat
  veOps : Nat
  tocsins : List (BitVec 14 × W32)
  tseq : W32
  /-- physical slice of a logical slice that differs from R16's map -/
  sliceMap : Store Nat
  scrubNear : Nat
  scrubFar : Nat
deriving DecidableEq, Repr

/-! ### Checkpoint, power, trust, host, dictionary, board -/

/-- A checkpoint operation whose tag has not ended (14 R378, R379): OP, SL and DEV of its argument, its tag and issue number,
the slot or region, SEQ and STEP of the image, the header with COMMIT = SEQ, the request ID of its remote writes with the
completions still owed, whether the commit is on its way, and the bytes read from the flash module. -/
structure CkJob where
  op : Nat
  sl : Nat
  dev : Nat
  tag : BitVec 6
  issue : Nat
  place : Nat
  seq : W64
  step : Nat
  header : List Byte
  req : Nat
  owed : Nat
  committing : Bool
  got : Nat
  /-- the S translation in force at a restore's firing (14 R388) -/
  root : W64
deriving DecidableEq, Repr

/-- A command to the flash module (14 R377): what it serves (0 a drain, 1 a restore, 2 nothing any more), the opcode of the NVM command set (0 Flush,
1 Write, 2 Read), the first LBA of namespace 1 and the count of LBAs, FUA, the address in slot L, and the bytes of a header. -/
structure NvmeCmd where
  use : Nat
  opcode : Nat
  lba : Nat
  blocks : Nat
  fua : Bool
  pa : Nat
  bytes : List Byte
deriving DecidableEq, Repr

/-- A drain of slot L, or a staged stratum 3 image (14 R379): stratum, region, SEQ and STEP, the header with COMMIT = SEQ, and the
chunks of the image. -/
structure Drain where
  stratum : Nat
  region : Nat
  seq : W64
  step : Nat
  header : List Byte
  total : Nat
deriving DecidableEq, Repr

/-- Checkpoint state (14 R376, R379, R381). `job` is the secure or restore under way and `returns` the returns of guest images, which are no
checkpoint operations of this device; `newest` holds 1 + the slot or region of the newest committed image of a stratum. -/
structure Ckpt where
  job : Option CkJob
  returns : List CkJob
  drain : Option Drain
  nextSeq : W64
  newest : Store Nat
  /-- commands that wait for a place in the I/O queue pair, and those in it, each oldest first (14 R377) -/
  todo : List NvmeCmd
  sent : List NvmeCmd
deriving DecidableEq, Repr

/-- Power (15). -/
structure Power where
  /-- the state in force: 0 D0, 1 damped, 2 D3hot, 3 D3cold (Table 15-2) -/
  state : Nat
  /-- one bit per domain of 15 Table 15-1, in its order, AON in bit 0 -/
  domains : BitVec 32
  /-- a transition under way -/
  target : Option Nat
  /-- a start cue that waits for D0 (15 R396): queue, OWN, ARG[22..0] -/
  wake : Option (Nat × BitVec 2 × Nat)
  /-- the mute in force, and the three levels whose largest is the next one (15 R403) -/
  mute : Nat
  capMute : Nat
  droopMute : Nat
  thermalMute : Nat
  /-- the DVFS point in force, and one whose clock switch waits (15 R405) -/
  dvfs : Nat
  dvfsNext : Option Nat
  /-- droop detectors that have tripped and not recovered, whether the droop mute falls, estimates since the last trip -/
  tripped : BitVec 16
  recovering : Bool
  quiet : Nat
  /-- the supply of the arithmetic clock's domains above the set voltage of the point in force, in mV (15 R405) -/
  supply : Int
  /-- the estimator's common gain, in 10^-6 (15 R398) -/
  gain : Nat
  /-- activity counted since the last estimate: array cell-clks by format 0 to 15, multiply-accumulates, lane operations, scratch accesses; what
  objects 7220h:01 to :06 and the flits sent showed then (15 R398) -/
  acts : Store Nat
  shown : List Nat
  /-- bytes that actions started by a cue have moved since then, by queue (15 R399) -/
  cueWork : Store Nat
  /-- estimates in a row with μ_c at 0, and at 12 (15 Table 15-5) -/
  atZero : Nat
  atTwelve : Nat
  /-- the 48 sensors as last read, in 1/8 °C (15 R408) -/
  sensors : List Int
  /-- the core supply of each die as that read measured it, in mV (13 R350) -/
  volts : List (BitVec 16)
  /-- reads spent at or above the throttle point, a throttle not yet cooled below 97 °C, reads at or above the limit, the
  limit's mute in force, warnings counted (15 Table 15-7) -/
  hot : Nat
  throttled : Bool
  limitN : Nat
  limit : Bool
  warnings : Nat
  /-- the last 16 trips: beat, sensor, temperature (15 R409) -/
  trips : List (BitVec 48 × Nat × Int)
  /-- the latch of THERMTRIP_N (18 R467) -/
  thermtrip : Bool
  /-- domains that the loss of a module has taken down (17 R459) -/
  down : BitVec 32
deriving DecidableEq, Repr

/-- An Alias key as it has been certified (16 R422, R423): the CDI it is derived from, the generation, and the signatures its HSS key has
left. -/
structure AliasKey where
  cdi : List Byte
  gen : Nat
  left : Nat
deriving DecidableEq, Repr

/-- Trust, firmware and debug (16). -/
structure Trust where
  /-- the fused security state: 0 manufacturing, 1 development, 2 production, 4 decommissioned (object 5000h:01) -/
  security : Nat
  /-- the revocation fuse of each key set -/
  revoked : Store Bool
  /-- the 96 bytes of owner key sets 4 and 5, once provisioned -/
  ownerKeys : Store (List Byte)
  /-- the debug level: 0 closed, 1 observe, 2 invasive -/
  level : Nat
  /-- the nonce of the challenge that is valid -/
  challenge : Option (List Byte)
  /-- the token result, object 5000h:04 -/
  token : Nat
  /-- the unique device secret is fused and not destroyed -/
  udsFused : Bool
  /-- the 48 bytes of the UDS; empty: those fused before delivery. Closed to every reader since ROM has started steward firmware (R412) -/
  uds : List Byte
  udsClosed : Bool
  /-- the seed of the DeviceID keys and the CDI, as ROM has derived them; empty: not derived (R422) -/
  deviceSeed : List Byte
  cdi : List Byte
  /-- the steward holds its Alias keys (R429 erases them) -/
  aliasOk : Bool
  /-- the certified Alias keys, the one in use first -/
  aliases : List AliasKey
  /-- the DeviceID leaves that remain -/
  leaves : Nat
  updStatus : Nat
  updReason : Nat
  /-- a write of 1 to 1F50h:02 has asked for activation -/
  goAhead : Bool
  /-- who transfers the image while the status is 1 -/
  updBy : Option Cls
  staged : List Byte
  /-- the image in management flash; empty: the image as shipped -/
  flash : List Byte
  /-- the flash image is incomplete (R420) -/
  flashBad : Bool
  /-- the image that runs; empty: the image as shipped -/
  running : List Byte
  /-- the runtime of the running image stands in program memory since SEQ0 first came on -/
  loaded : Bool
  /-- failed start checks of each port's optical engine since its last good one (R419) -/
  engineFails : Store Nat
  /-- slot 0 holds a certificate chain, and the chain that SET_CERTIFICATE has put there (empty: the one as built) -/
  slot0Set : Bool
  chain : List Byte
  /-- the steward restarts into new firmware, since the activation in a clk of the clock (R419) -/
  restarting : Bool
  since : Nat
  /-- the SPDM messages since GET_VERSION that every signature covers, and the digest and certificate messages since (R425) -/
  vca : List Byte
  msgB : List Byte
  /-- 0 not booted, 1 ROM, 2 steward firmware stage, 3 ready, 4 recovery (R411, R421) -/
  boot : Nat
  /-- the JTAG instruction: 0 IDCODE, 1 BYPASS, 2 SAMPLE/PRELOAD, 3 EXTEST -/
  jtag : Nat
  /-- the issue trace, newest last, at most 4,096 (R427) -/
  trace : List IAddr
  /-- a debugger holds the stream halted (R427) -/
  halted : Bool
deriving DecidableEq, Repr

/-- An attached dictionary session (17 R453). -/
structure Session where
  /-- the TAG of its OPEN -/
  tag : BitVec 8
  idx : BitVec 16
  sub : BitVec 8
  write : Bool
  offset : Nat
  bytes : List Byte
deriving DecidableEq, Repr

/-- The host port (17). -/
structure HostPort where
  hevt : W64
  hwofs : W64
  hcqres : W64
  dresp : W64
  reqBuf : Store Byte
  respBuf : List Byte
  msix : Store W32
  pba : Store Bool
  busMaster : Bool
  msixOn : Bool
  pmcsr : BitVec 2
  bar4k : Nat
  link : Bool
  rate : Nat
  width : Nat
  /-- the link runs in Flit mode (17 R433) -/
  flit : Bool
  perstHigh : Bool
  /-- the AER log of the port's discarded writes: bit 15 Completer Abort, bit 20 Unsupported Request (17 R439) -/
  aer : W32
deriving DecidableEq, Repr

/-- The object dictionary (17): scalars by key index·256 + subindex, strings and domains, the two views of objects 2200h:01 and :02 (R456; those of 3000h are 3000h:01 and :02), the keys of the
mismatches in force, sessions by class, and the attached modules with the reason of their refusal. -/
structure Dict where
  objs : Store Nat
  blobs : Store (List Byte)
  mgmtView : Store Nat
  dataView : Store Nat
  mismatch : List Nat
  sessions : Store Session
  modules : List (Nat × ModuleId × Nat)
deriving DecidableEq, Repr

/-- The board (18). -/
structure Board where
  p48v : Bool
  aon : Bool
  inReset : Bool
  /-- RESET_N is asserted -/
  resetLow : Bool
  stwRdy : Bool
  straps : BitVec 3
  faultLog : List (W64 × Nat × Nat)
deriving DecidableEq, Repr

/-- What the device sends or shows outside. -/
inductive Output where
  | msix (vector : Nat)
  | tocsin (kind : Nat) (ps : Nat) (step att : Nat) (tseq : Nat) (ttype : Nat)
  | flit (port : Nat) (f : Flit)
  | frame (port : Nat) (f : Framing)
  /-- a flow-control frame: a class's priority, and its pause in quanta of 512 bits (11 R286) -/
  | pause (port priority quanta : Nat)
  /-- an Ethernet frame (11 R287): port, interface, MAC address, EtherType, priority, header, flits -/
  | ethernet (port iface : Nat) (mac : List Byte) (etherType priority : Nat) (header : W64) (flits : List Flit)
  | stream (started : Bool) (addr : Nat)
  | answer (cls : Cls) (status : Nat) (data : List Byte)
  | bytes (what : Nat) (data : List Byte)
  /-- a command of the NVM command set to namespace 1 of the flash module (14 R377): opcode, LBA, count of LBAs, FUA, the data of a Write -/
  | nvme (opcode lba blocks : Nat) (fua : Bool) (data : List Byte)
  | pin (name : Nat) (level : Bool)
deriving DecidableEq, Repr

/-- How a memory-side cache holds a line of 128 bytes (10 R251): whether it does, whether the line is dirty, and whether it was
filled as least recent and has not been used since. -/
structure CacheLine where
  held : Bool
  dirty : Bool
  old : Bool
deriving DecidableEq, Repr

/-- A line that its cache does not hold. -/
def noLine : CacheLine := ⟨false, false, false⟩

/-- The state of the block. `pending` is the queue of waiting commands, first in, first out; `out` is what the device
sent, newest first. Memory is keyed by device physical address; `marks` by address / 16; `cache`, the lines that the two memory-side caches hold, by
address / 128. -/
structure State where
  pending : List Instr
  out : List Output
  seq : Seq
  cnt : Count
  ctl : Ctl
  sc : Scalar
  work : List Work
  uses : Store Use
  mem : Store Byte
  marks : Store Mark
  cache : Store CacheLine
  tiles : Tiles
  slots : Store Slot
  elem : Elem
  dma : Dma
  fab : Fabric
  coll : CollE
  rel : Rel
  ckpt : Ckpt
  power : Power
  trust : Trust
  host : HostPort
  dict : Dict
  board : Board
deriving DecidableEq, Repr

/-! ### Reset -/

/-- A level's registers at reset (03 Table 3-1: all zero). -/
def resetLevel : LevelRegs :=
  { vtb := 0, ret := 0, saved := 0, fault := 0, faddr := 0, ie := 0, rpl0 := 0, rpl1 := 0, rpl2 := 0, rpl3 := 0 }

/-- The sequencer at reset (02 R41, R47, Table 2-6; the stream is stopped; DESIGN CHOICE, log entry 2 for what the spec leaves). -/
def resetSeq : Seq :=
  { running := false, pc := 0, fa := 1, fw := 1, spr := 0, compact := false, pl := 3,
    gmask := [(0, BitVec.allOnes 160)], gstage := [], depth := 0, lc := [], le := [], lstart := [],
    branch := none, change := none, lines := [], pmsync := [], issueFrom := 0, holdTo := 0, awaiting := [], wait := [],
    waitAt := 0, past := false, waitBeats := 0, deferred := [], entries := [], ctrlMark := .good }

/-- The counts at reset (DESIGN CHOICE, log entries 1 to 3). -/
def resetCount : Count :=
  { clk := 0, op := 0, free := 0, opNow := 0xC000, angle := 0, step := 0, repeatPending := false, stopAtMark := false,
    escalating := false, escCode := 0, ipend := 0, watchdog := 0, frame := 0, withheld := 0, stepsRun := 0, bundlesInBeat := 0, restarts := 0, firstStep := false, dropStep := none,
    recoveryArm := false, writes := [] }

/-- The control registers at reset (each table: zero; CLVERD 7, 12 Table 12-6). -/
def resetCtl : Ctl :=
  { sx := resetLevel, mx := resetLevel, ptb := 0, ptbInUse := 0, tlb := [], tinvs := [], bcmp := 0, bcmpArmed := false, iroute := 0,
    escsp := 0, wdt := 0, tpsel := 0, tpr1 := 0, tpr2 := 0, scsel := 0, scdq := [], vb := [], rtkl := 0, rtkh := 0,
    rtsub := 0, cpsel := 0, mssel := 0, stsel := 0, dcArm := false, dcReason := 0, dmerr := 0, dmelog := 0,
    dmea := 0, cqsel := 0, cqen := 0, cqref := 0, clerr := 0, clelog := 0, clverd := 7, clnfl := 0, ckstat := 0,
    pwq := 0, odsel := 0, oddat := 0, odst := 0, odw := [], odwhit := 0 }

/-- Tiles, arrays and banks at reset (05 R119, 06 R143). -/
def resetTiles : Tiles :=
  { frag := [], fragMark := [], bscale := [], bscaleMark := [], bank := [], bankMark := [], cfg := [], accepted := [], xlat := [], recs := [], recMeta := [],
    active := [], shadow := [], activeVals := [], activeBad := [], shadowVals := [], shadowBad := [], prods := [], moveBuf := [], raised := [],
    mvLatch := [] }

/-- The element-wise engine at reset (08 R186, R202). -/
def resetElem : Elem :=
  { l := [], lMark := [], table := [], tableMark := [], tableValid := [], vendor := false, vendorOver := [], cprec := [], msop := [], latch := [], gathBuf := [] }

/-- DMA and stash at reset (09 R228, 10 R254). -/
def resetDma : Dma :=
  { queue := [], accepted := [], held := [], convs := [], nextReq := 0, erred := [], stash := [], claims := [], cut := 0, born := 0 }

/-- The beat at reset (11 R294, Table 11-10: period 1,000 ns, HOP 63). -/
def resetBeat : Beat :=
  { count := 0, boundary := 0, period := 1000, periodFrom := 0, switchAt := none, st := 0, hop := 63, upstream := 0, actingRoot := false, waiting := false,
    gen := false, enabled := false, rootTold := false, root := 0 }

/-- An idle cue entry. -/
def idleCue : Cue := { w0 := 0, w1 := 0, w2 := 0, w3 := 0, fired := false, host := false, marks := [] }

/-- Links, beat and cues at reset. -/
def resetFabric : Fabric :=
  { ports := [], beat := resetBeat, cues := [], stage := [], hostStage := none, shroud := false, inbox := [],
    cueWait := [], beatScans := [], angleScans := [], scanned := 0, firedNow := [] }

/-- The collective engine at reset (12). -/
def resetColl : CollE :=
  { queue := [], held := [], phases := [], early := [], ended := [], seen := [], attempt := 0, repeats := 0, voteL := false, voteN := false,
    voteT := false, voteD := false, tocsin := [], reexchange := false, committed := [], lateL := false }

/-- Reliability state as the part leaves manufacture (13; DESIGN CHOICE, log entry 5). -/
def resetRel : Rel :=
  { ring := [], waiting := [], flash := [], nextSeq := 1, poison := [], jobOpen := false, ending := false, fixes := [], reports := [], suspects := [], ledger := [],
    follows := [], plans := [], rows := [], replaced := [], trailed := [], spares := [], peals := [], running := none, undo := [], samples := [], sampleData := [], products := 0, veOps := 0, tocsins := [], tseq := 0,
    sliceMap := [], scrubNear := 0, scrubFar := 0 }

/-- Checkpoint state at reset (14; SEQ starts at 1, R376). -/
def resetCkpt : Ckpt := { job := none, returns := [], drain := none, nextSeq := 1, newest := [], todo := [], sent := [] }

/-- Power at reset: D3cold, only AON on (15 R393; DESIGN CHOICE, log entry 8). -/
def resetPower : Power :=
  { state := 3, domains := 1, target := none, wake := none, mute := 0, capMute := 0, droopMute := 0, thermalMute := 0,
    dvfs := 0, dvfsNext := none, tripped := 0, recovering := false, quiet := 5, supply := 0, acts := [], shown := [], cueWork := [], gain := 1000000, atZero := 0, atTwelve := 0,
    sensors := [], volts := [], hot := 0, throttled := false, limitN := 0, limit := false, warnings := 0, trips := [],
    thermtrip := false, down := 0 }

/-- Trust state: fused values as DESIGN CHOICE, log entry 7 chooses them, debug closed, no challenge, no update. -/
def resetTrust : Trust :=
  { security := 2, revoked := [], ownerKeys := [], level := 0, challenge := none, token := 0, udsFused := true,
    uds := [], udsClosed := false, deviceSeed := [], cdi := [], aliasOk := false, aliases := [], leaves := 32768, updStatus := 0, updReason := 0, goAhead := false,
    updBy := none, staged := [], flash := [], flashBad := false, running := [], loaded := false, engineFails := [],
    slot0Set := true, chain := [], restarting := false, since := 0, vca := [], msgB := [], boot := 0, jtag := 0, trace := [], halted := false }

/-- The host port at reset (17). -/
def resetHost : HostPort :=
  { hevt := 0, hwofs := 0, hcqres := 0, dresp := 0, reqBuf := [], respBuf := [], msix := [], pba := [],
    busMaster := false, msixOn := false, pmcsr := 0, bar4k := 42, link := false, rate := 0, width := 0, flit := false,
    perstHigh := false, aer := 0 }

/-- The dictionary at reset: every object at its Default. -/
def resetDict : Dict :=
  { objs := [], blobs := [], mgmtView := [], dataView := [], mismatch := [], sessions := [], modules := [] }

/-- The board before the first power-up (18; DESIGN CHOICE, log entry 8). -/
def resetBoard : Board :=
  { p48v := false, aon := false, inReset := false, resetLow := false, stwRdy := false, straps := 0, faultLog := [] }

/-- The machine right after reset. -/
def State.reset : State :=
  { pending := [], out := [], seq := resetSeq, cnt := resetCount, ctl := resetCtl, sc := { x := [], f := [] },
    work := [], uses := [], mem := [], marks := [], cache := [], tiles := resetTiles, slots := [], elem := resetElem,
    dma := resetDma, fab := resetFabric, coll := resetColl, rel := resetRel, ckpt := resetCkpt, power := resetPower,
    trust := resetTrust, host := resetHost, dict := resetDict, board := resetBoard }

end Sys2Proof.Machine
end

