-- ==== Sys2Proof/Machine/Objects.lean ====
section
/-! DEFINITION. The object dictionary's table: every scalar, string and blob object with its type, rights, default and
range (17 R446 to R448 and each chapter's object table), and the reading and writing of objects by the steward. -/

namespace Sys2Proof.Machine

/-- The types of 17 Table 17-11. -/
inductive OType where
  | u8 | u16 | u32 | u64 | i32 | i64 | f32 | str | blob (size : Nat) | domain (size : Nat)
deriving DecidableEq, Repr

/-- The rights of 17 Table 17-8. -/
inductive Right where
  | none | ro | rw | wo | const | rwIdle | woOnce | woWhenUpdate
deriving DecidableEq, Repr

/-- The Range column. -/
inductive Range where
  | any
  | upTo (lo hi : Nat)
  | oneOf (vs : List Nat)
  | multiple (k : Nat)
  /-- 0, or an instruction address of the native form (02 R29) -/
  | native
deriving DecidableEq, Repr

/-- The Default column: a number, or a value that is "as built", "as fused", "as booted" or "as shipped". -/
inductive Dflt where
  | val (n : Nat)
  | built
deriving DecidableEq, Repr

/-- One row of an object table: index, first and last subindex, type, rights of host, BMC and M, default, range. -/
structure ObjRow where
  idx : Nat
  lo : Nat
  hi : Nat
  ty : OType
  host : Right
  bmc : Right
  m : Right
  dflt : Dflt
  range : Range
deriving DecidableEq, Repr

/-- Read-only for every class. -/
def rowRo (idx lo hi : Nat) (ty : OType) (d : Nat) : ObjRow := ⟨idx, lo, hi, ty, .ro, .ro, .ro, .val d, .any⟩

/-- A 64-bit counter, read-only for every class; its chapter may let M write zero. -/
def rowCnt (idx lo hi : Nat) : ObjRow := ⟨idx, lo, hi, .u64, .ro, .ro, .ro, .val 0, .any⟩

/-- Constant for every class. -/
def rowConst (idx lo hi : Nat) (ty : OType) (d : Dflt) : ObjRow := ⟨idx, lo, hi, ty, .const, .const, .const, d, .any⟩

/-- RW-idle for host and BMC, RW for M. -/
def rowIdle (idx lo hi : Nat) (ty : OType) (d : Nat) (r : Range) : ObjRow :=
  ⟨idx, lo, hi, ty, .rwIdle, .rwIdle, .rw, .val d, r⟩

/-- RO for the host, RW-idle for BMC and M. -/
def rowFab (idx lo hi : Nat) (ty : OType) (d : Nat) (r : Range) : ObjRow :=
  ⟨idx, lo, hi, ty, .ro, .rwIdle, .rwIdle, .val d, r⟩

/-- RO for the host, RW for BMC and M. -/
def rowMgmt (idx lo hi : Nat) (ty : OType) (d : Nat) (r : Range) : ObjRow :=
  ⟨idx, lo, hi, ty, .ro, .rw, .rw, .val d, r⟩

/-- Identity and trust objects (17 Table 17-19, 16 Table 16-8). -/
def objRows1 : List ObjRow :=
  [ rowConst 0x1000 0 0 .u32 (.val 0x00014416), rowConst 0x1008 0 0 .str (.val 0), rowConst 0x1018 1 1 .u16 .built,
    rowConst 0x1018 2 2 .u32 (.val 0x4416), rowConst 0x1018 3 3 .u8 .built, rowConst 0x1018 4 4 (.blob 16) .built,
    rowConst 0x1018 5 5 .u16 .built,
    ⟨0x1F50, 1, 1, .domain 0x1000000, .woWhenUpdate, .wo, .wo, .val 0, .any⟩,
    ⟨0x1F50, 2, 2, .u8, .woWhenUpdate, .wo, .rw, .val 0, .upTo 0 1⟩,
    rowRo 0x1F50 3 3 .u8 0, rowRo 0x1F50 4 4 .u8 0, ⟨0x1F50, 5, 5, .u32, .ro, .ro, .ro, .built, .any⟩,
    ⟨0x5000, 1, 1, .u8, .ro, .ro, .ro, .val 0, .any⟩, rowRo 0x5000 2 2 .u8 0,
    ⟨0x5000, 3, 3, .blob 2112, .wo, .wo, .wo, .val 0, .any⟩, rowRo 0x5000 4 4 .u8 0,
    rowRo 0x5001 0 0 (.domain 65536) 0, rowRo 0x5002 1 1 .u32 0, rowConst 0x5002 2 2 (.blob 16) .built,
    ⟨0x5003, 1, 2, .u32, .ro, .ro, .ro, .built, .any⟩, ⟨0x5010, 1, 6, .u8, .ro, .ro, .ro, .built, .upTo 0 2⟩,
    ⟨0x5010, 7, 8, .blob 96, .ro, .woOnce, .ro, .val 0, .any⟩, ⟨0x5020, 1, 4, .u8, .ro, .ro, .ro, .built, .upTo 0 64⟩,
    ⟨0x5021, 1, 1, .u8, .ro, .wo, .wo, .val 0, .oneOf [1]⟩, rowRo 0x5030 1 1 (.blob 48) 0,
    ⟨0x5030, 2, 2, .u8, .wo, .wo, .wo, .val 0, .upTo 0 2⟩, rowMgmt 0x5040 1 1 .u8 0 (.upTo 0 1) ]

/-- Compute, host port, memory and link objects (Tables 6-11, 8-6, 9-6, 10-9, 11-10, 17-19). -/
def objRows2 : List ObjRow :=
  [ rowIdle 0x2010 1 1 .u8 8 (.upTo 1 128), rowConst 0x2011 0 0 .u8 (.val 168), rowRo 0x2011 1 168 .u32 0xFFFFFFFF,
    ⟨0x2020, 1, 1, .u32, .ro, .ro, .ro, .built, .any⟩, rowIdle 0x2031 1 1 .u16 3277 (.upTo 0 9830),
    rowRo 0x2031 2 2 .u32 0, rowIdle 0x2032 1 1 .u8 3 (.upTo 0 7), rowIdle 0x2032 2 2 .u32 0 .any,
    rowMgmt 0x2100 1 1 .u8 0 (.upTo 0 1), rowFab 0x2100 2 2 .u8 7 (.upTo 1 7), rowFab 0x2100 3 3 .u8 8 (.oneOf [1, 2, 4, 8]),
    rowMgmt 0x2100 4 4 .u8 0 (.upTo 0 2), rowMgmt 0x2100 6 6 .u8 0 (.upTo 0 1), rowMgmt 0x2100 7 7 .u16 0 .any,
    rowMgmt 0x2100 8 8 .u8 0 (.upTo 0 1), rowRo 0x2101 1 2 .u8 0,
    rowMgmt 0x2102 1 4 .u8 0 (.oneOf (0 :: (List.range 247).map (· + 8))), rowRo 0x2103 0 0 (.domain 2048) 0,
    rowRo 0x2104 1 1 .u8 0,
    rowIdle 0x2200 1 2 .u8 0 (.upTo 0 1), rowRo 0x2201 1 2 .u64 0x2CB4160000, rowRo 0x2202 1 4 .u64 0,
    rowRo 0x2202 5 8 .u8 0, rowIdle 0x2203 1 1 .u16 8533 (.oneOf [6400, 7467, 8533]), rowRo 0x2203 2 3 .u16 0,
    rowRo 0x2204 1 2 .u64 0,
    rowFab 0x2300 1 1 .u16 0 (.upTo 0 0x27FF), rowFab 0x2300 2 3 .u8 1 (.upTo 1 16), rowFab 0x2300 4 4 .u8 1 (.upTo 1 40),
    rowFab 0x2300 5 5 .u8 0 (.upTo 0 1), rowFab 0x2301 1 6 .u8 0 (.upTo 0 1), rowFab 0x2301 7 8 .u8 0 (.upTo 0 2),
    rowFab 0x2301 9 10 .u8 0 (.upTo 0 1), rowRo 0x2302 1 8 .u8 0, rowFab 0x2303 1 1 .u8 2 (.upTo 1 2),
    rowRo 0x2303 2 9 .u8 0, rowRo 0x2304 1 8 .u32 0xFFFF, rowRo 0x2305 1 8 .u16 0, rowRo 0x2306 1 8 .u16 0,
    ⟨0x2307, 1, 1, .u8, .ro, .rwIdle, .rw, .val 3, .upTo 1 15⟩, ⟨0x2307, 2, 2, .u8, .ro, .rwIdle, .rw, .val 1, .upTo 1 15⟩,
    rowFab 0x2308 1 1 .u16 0x88B5 (.upTo 0x600 0xFFFF), ⟨0x2309, 0, 0, .domain 2048, .ro, .rwIdle, .rwIdle, .val 0, .any⟩,
    rowMgmt 0x2310 1 1 .u8 0 (.upTo 0 15), rowRo 0x2310 2 5 .u8 0,
    rowFab 0x2320 1 1 .u16 1000 (.upTo 250 16000), rowFab 0x2320 2 3 .u16 0 (.upTo 0 0x27FF),
    rowFab 0x2320 4 4 .u64 0 (.upTo 0 (2 ^ 48 - 1)), rowRo 0x2320 5 5 .u8 0, rowRo 0x2320 6 6 .u16 63, rowRo 0x2320 7 7 .u16 0,
    rowFab 0x2340 0 0 (.domain 768) 0 .any, rowIdle 0x2341 1 1 .u8 0 (.upTo 0 1), rowIdle 0x2341 2 2 .u8 3 (.upTo 1 15),
    rowIdle 0x2341 3 3 .u16 1000 (.upTo 1 4095), rowIdle 0x2341 4 4 .u16 16 (.upTo 1 1024) ]

/-- Cue, scaling, power, reliability, checkpoint and counter objects. -/
def objRows3 : List ObjRow :=
  [ ⟨0x2400, 1, 1, .u32, .ro, .ro, .rw, .val 0, .native⟩, rowMgmt 0x2401 0 0 (.domain 32768) 0 .any,
    rowIdle 0x2500 1 1 .u8 0 (.upTo 0 1), rowIdle 0x2500 2 3 .u8 3 (.upTo 3 4), ⟨0x2500, 4, 5, .u16, .ro, .ro, .ro, .val 0, .upTo 0 16384⟩,
    ⟨0x2501, 0, 0, .domain 1310720, .ro, .ro, .rwIdle, .val 0, .any⟩,
    ⟨0x3000, 1, 1, .u8, .ro, .rw, .rw, .val 3, .upTo 0 3⟩, rowRo 0x3000 2 2 .u8 0, rowRo 0x3000 3 3 .u8 3,
    rowRo 0x3001 1 1 .u32 1, ⟨0x3010, 1, 1, .u16, .rw, .rw, .rw, .val 1500, .upTo 450 1500⟩,
    rowMgmt 0x3010 2 2 .u16 1500 (.upTo 450 1500), rowRo 0x3011 1 1 .u8 0, rowMgmt 0x3020 1 1 .u8 0 (.upTo 0 3),
    rowRo 0x3020 2 2 .u8 0, ⟨0x3020, 3, 6, .u16, .ro, .ro, .ro, .built, .any⟩, rowRo 0x3030 1 17 .i32 0,
    rowRo 0x3031 0 0 (.domain 256) 0, rowRo 0x3032 0 0 (.domain 256) 0, rowRo 0x3040 1 3 .u32 0,
    rowIdle 0x4000 1 1 .u8 0 (.upTo 0 1), rowMgmt 0x4000 2 2 .u32 86400 (.upTo 3600 604800),
    rowMgmt 0x4000 3 3 .u32 3600 (.upTo 60 86400), rowRo 0x4000 4 4 .u16 0, rowIdle 0x4000 6 6 .u64 0 .any,
    rowMgmt 0x4000 7 7 .u8 0 (.upTo 0 1), rowConst 0x4001 0 0 (.blob 288) .built, rowRo 0x4010 0 0 (.domain 262144) 0,
    rowRo 0x4011 1 1 .u32 1, rowMgmt 0x4020 1 1 .u64 0 .any, rowRo 0x4021 0 0 (.domain 2097152) 0,
    rowConst 0x4022 1 1 .u8 (.val 3), rowConst 0x4022 2 2 .u8 (.val 30), rowRo 0x4023 1 8 .u8 0,
    ⟨0x4030, 0, 0, .domain 0x100000, .wo, .wo, .wo, .val 0, .any⟩, rowRo 0x4031 0 0 (.domain 1024) 0,
    rowIdle 0x4040 1 1 .u32 1024 .any, rowIdle 0x4040 2 2 .u32 65536 .any,
    rowFab 0x4100 1 1 .u16 0 (.upTo 0 0x27FF), ⟨0x4101, 0, 0, .blob 32, .wo, .wo, .rw, .val 0, .any⟩,
    rowFab 0x4102 1 1 .u64 0 (.multiple 0x200000), rowFab 0x4102 2 2 .u64 0 (.multiple 0x100000),
    rowFab 0x4102 3 3 .u16 0 (.upTo 0 0x27FF), rowFab 0x4103 1 1 .u64 0 .any,
    ⟨0x4104, 1, 1, .u32, .rwIdle, .rwIdle, .rw, .val 1, .upTo 1 0xFFFFFFFF⟩, rowIdle 0x4104 2 2 .u8 0 (.upTo 0 1),
    rowIdle 0x4104 3 3 .u8 1 (.upTo 0 7), rowIdle 0x4104 4 4 .u8 0 (.upTo 0 1),
    rowRo 0x4110 1 3 .u64 (2 ^ 64 - 1), rowRo 0x4110 4 7 .u64 0,
    ⟨0x4111, 1, 1, .u8, .wo, .wo, .rw, .val 0, .upTo 0 1⟩, ⟨0x4111, 2, 2, .u64, .wo, .wo, .rw, .val 0, .any⟩,
    rowRo 0x4111 3 3 .u64 0, rowRo 0x6000 0 0 (.domain 576) 0, rowRo 0x6001 1 9 (.domain 65536) 0,
    rowCnt 0x7200 1 11, rowCnt 0x7201 1 8, rowCnt 0x7202 1 8, rowCnt 0x7203 1 8, rowCnt 0x7204 1 8, rowCnt 0x7205 1 8,
    rowCnt 0x7206 1 8, rowCnt 0x7207 1 8, rowCnt 0x7208 1 8, rowCnt 0x7220 1 11, rowCnt 0x7230 1 4, rowCnt 0x7250 1 9,
    rowCnt 0x7260 1 7, rowCnt 0x7270 1 9, rowCnt 0x7300 1 15, rowCnt 0x7310 1 14, rowCnt 0x7410 1 14, rowCnt 0x7420 1 8,
    rowCnt 0x7430 1 9, rowCnt 0x7431 1 16, rowCnt 0x7432 1 6, rowCnt 0x7440 1 11 ]

/-- The whole table. -/
def objRows : List ObjRow := objRows1 ++ objRows2 ++ objRows3

/-- The row of an object, if there is one. -/
def objRow (idx sub : Nat) : Option ObjRow :=
  objRows.find? fun r => decide (r.idx = idx) && decide (r.lo ≤ sub) && decide (sub ≤ r.hi)

/-- The size in bytes of an object's value; a string's and a domain's is its largest. -/
def typeSize (t : OType) : Nat :=
  match t with
  | .u8 => 1
  | .u16 => 2
  | .u32 | .i32 | .f32 => 4
  | .u64 | .i64 => 8
  | .str => 255
  | .blob n => n
  | .domain n => n

/-- The key of an object. -/
def objKey (idx sub : Nat) : Nat := idx * 256 + sub

/-- The Default of an object. -/
def objDefault (idx sub : Nat) : Nat :=
  match objRow idx sub with
  | none => 0
  | some r =>
    match r.dflt with
    | .val n => n
    | .built => match r.range with
      | .upTo lo hi => lo + Config.asBuilt (objKey idx sub) % (hi - lo + 1)
      | _ => Config.asBuilt (objKey idx sub) % 2 ^ (8 * typeSize r.ty)

/-- The value of a scalar object as the steward holds it. -/
def objGet (s : State) (idx sub : Nat) : Nat := storeGet (objDefault idx sub) s.dict.objs (objKey idx sub)

/-- Write a scalar object. -/
def objSet (s : State) (idx sub v : Nat) : State :=
  { s with dict := { s.dict with objs := storeSet (objDefault idx sub) s.dict.objs (objKey idx sub) v } }

/-- Add to a counter; counters are 64-bit and wrap. -/
def objAdd (s : State) (idx sub n : Nat) : State := objSet s idx sub ((objGet s idx sub + n) % 2 ^ 64)

/-- Bytes of a number, little-endian (00 R9). -/
def leBytes (n : Nat) (x : Nat) : List Byte :=
  match n with
  | 0 => []
  | k + 1 => BitVec.ofNat 8 (x % 256) :: leBytes k (x / 256)

/-- The number that bytes spell, little-endian. -/
def ofLe (bs : List Byte) : Nat :=
  match bs with
  | [] => 0
  | b :: r => b.toNat + 256 * ofLe r

end Sys2Proof.Machine
end

