-- ==== Sys2Proof/Machine/Ops.lean ====
section
/-! DEFINITION. The named operations that every family uses: lifting a change of one part to the state, work in flight,
resources, outputs, interrupts, toll records, and stopping the stream. -/

namespace Sys2Proof.Machine

/-! ### Lifts -/

def State.onSeq (s : State) (f : Seq → Seq) : State := { s with seq := f s.seq }
def State.onCnt (s : State) (f : Count → Count) : State := { s with cnt := f s.cnt }
def State.onCtl (s : State) (f : Ctl → Ctl) : State := { s with ctl := f s.ctl }
def State.onSc (s : State) (f : Scalar → Scalar) : State := { s with sc := f s.sc }
def State.onTiles (s : State) (f : Tiles → Tiles) : State := { s with tiles := f s.tiles }
def State.onElem (s : State) (f : Elem → Elem) : State := { s with elem := f s.elem }
def State.onDma (s : State) (f : Dma → Dma) : State := { s with dma := f s.dma }
def State.onFab (s : State) (f : Fabric → Fabric) : State := { s with fab := f s.fab }
def State.onColl (s : State) (f : CollE → CollE) : State := { s with coll := f s.coll }
def State.onRel (s : State) (f : Rel → Rel) : State := { s with rel := f s.rel }
def State.onCkpt (s : State) (f : Ckpt → Ckpt) : State := { s with ckpt := f s.ckpt }
def State.onPower (s : State) (f : Power → Power) : State := { s with power := f s.power }
def State.onTrust (s : State) (f : Trust → Trust) : State := { s with trust := f s.trust }
def State.onHost (s : State) (f : HostPort → HostPort) : State := { s with host := f s.host }
def State.onDict (s : State) (f : Dict → Dict) : State := { s with dict := f s.dict }
def State.onBoard (s : State) (f : Board → Board) : State := { s with board := f s.board }

/-- Send something outside (DESIGN CHOICE, log entry 48). -/
def State.emit (s : State) (o : Output) : State := { s with out := o :: s.out }

/-! ### Small tools -/

/-- The last n elements of a list. -/
def takeLast {α : Type} (n : Nat) (l : List α) : List α := l.drop (l.length - n)

/-- The members of a group mask, ascending (05 R117). -/
def members (mask : BitVec 160) : List Nat := (List.range 160).filter fun i => mask.getLsbD i

/-- A field of a word replaced (bits hi down to lo). -/
def setField (x : W64) (hi lo v : Nat) : W64 :=
  BitVec.ofNat 64 (x.toNat - field x hi lo * 2 ^ lo + v % 2 ^ (hi + 1 - lo) * 2 ^ lo)

/-- A bit of a word replaced. -/
def setBit (x : W64) (i : Nat) (b : Bool) : W64 := setField x i i (b2n b)

/-- The smaller index whose test holds, or none. -/
def firstIdx {α : Type} (p : α → Bool) (l : List α) : Option Nat := l.findIdx? p

/-! ### Free values -/

/-- A fresh free value (DESIGN CHOICE, log entry 3). -/
def freshFree (s : State) : W64 × State :=
  (Config.freeValue s.cnt.free, s.onCnt fun c => { c with free := c.free + 1 })

/-! ### Work in flight (02 R54 to R63) -/

/-- Put a piece of work in due order; within a clk landings come before reads, and within those the issue order rules
(R60, R62). -/
def insertWork (w : Work) (l : List Work) : List Work :=
  match l with
  | [] => [w]
  | h :: r =>
    if w.due < h.due ∨ (w.due = h.due ∧ (w.phase < h.phase ∨ (w.phase = h.phase ∧ w.op < h.op)))
    then w :: h :: r else h :: insertWork w r

/-- Schedule a landing (phase 0) or a read (phase 1). -/
def schedule (s : State) (due phase op : Nat) (res : List Nat) (act : Micro) : State :=
  { s with work := insertWork ⟨due, phase, op, res, act⟩ s.work }

/-- Schedule a landing L clk from now. -/
def landIn (s : State) (l op : Nat) (res : List Nat) (act : Micro) : State :=
  schedule s (s.cnt.clk + l) 0 op res act

/-- The clk that have passed, withheld ones among them (15 R400). -/
def realClk (s : State) : Nat := s.cnt.clk + s.cnt.withheld

/-- The clock of a point, in MHz (15 Table 15-6). -/
def pointMhz (k : Nat) : Nat := if k = 0 then 1000 else if k = 1 then 900 else if k = 2 then 800 else 600

/-- The issue number of the operation being issued. -/
def nextOp (s : State) : State := s.onCnt fun c => { c with op := c.op + 1 }

/-- Units of the resources of 02 Table 2-7 whose reuse distance can exceed 1. -/
inductive RUnit where
  | divider | fpDivider | scratchRead | scratchWrite | shadow | arrays | mvUnit | reduction | elemPort | coproc
deriving DecidableEq, Repr

/-- The number of a resource: its unit and its slice. -/
def resKey (u : RUnit) (slice : Nat) : Nat := (u.ctorIdx + 1) * 256 + slice

/-- The reuse-violation counter of a unit (10 Table 10-9 7230h, 08 Table 8-6 7260h:07). -/
def reuseCounter (u : RUnit) : Nat × Nat :=
  match u with
  | .divider | .fpDivider => (0x7230, 3)
  | .scratchRead | .scratchWrite | .shadow | .arrays => (0x7230, 1)
  | .mvUnit => (0x7230, 2)
  | .reduction | .elemPort | .coproc => (0x7260, 7)

/-- The resource of a long-vector memory access in each of its slices (08 R198); LDB has one in its first slice alone. -/
def vmUnit (kind : Nat) : Option RUnit :=
  if kind = 0 then some .scratchRead else if kind = 1 then some .scratchWrite else if kind = 2 then none else some .elemPort

/-- An operation that is not yet under way, or not yet at its reads, loses the slice whose resource is taken from a clk on: a gather, a
scatter or a load the slice's reads, an element-wise operation what it lands there from that clk on. -/
def loseLane (op key clk : Nat) (w : Work) : Work :=
  let without := fun m : VeMem =>
    if m.kind = 2 ∧ (m.lanes.head?.map fun l => resKey .scratchRead l.slice) = some key then { m with lanes := [] }
    else { m with lanes := m.lanes.filter fun l => (vmUnit m.kind).all fun u => decide (resKey u l.slice ≠ key) }
  if w.op ≠ op then w
  else
    match w.act with
    | .veMem m => { w with act := .veMem (without m) }
    | .veIndex m off => { w with act := .veIndex (without m) off }
    | .veLoad m off => { w with act := .veLoad (without m) off }
    | .veRead j => if j.res.contains key then { w with act := .veRead { j with lost := (key % 256, clk) :: j.lost } } else w
    | .veIssue v => if v.res.contains key then { w with act := .veIssue { v with lost := (key % 256, clk) :: v.lost } } else w
    | _ => w

/-- Whether a resource is one that an MVM takes: a scratch read port, the arrays or the matrix-vector unit of a slice. -/
def mvmKey (key : Nat) : Bool := decide (resKey .scratchRead 0 ≤ key) && decide (key < resKey .reduction 0)

/-- An MVM whose distance is not known yet notes what was taken from it, and when. -/
def loseUnit (op key clk : Nat) (w : Work) : Work :=
  match w.act with
  | .mvmStart j => if w.op = op ∧ mvmKey key = true then { w with act := .mvmStart { j with taken := (key, clk) :: j.taken } } else w
  | _ => w

/-- Drop the work of an operation on a resource from a clk on (02 R63). -/
def dropWork (s : State) (op key clk : Nat) : State :=
  { s with work := (s.work.filter fun w => !(decide (w.op = op) && w.res.contains key && decide (clk ≤ w.due))).map (loseLane op key clk) }

/-- Whether the resource is still within the reuse distance of an earlier operation at a clk. -/
def resBusy (s : State) (key clk : Nat) : Bool :=
  let u := storeGet ⟨0, 0, 0⟩ s.uses key
  decide (clk < u.free)

/-- Take a resource at an issue clk for a distance: an earlier operation still within its distance is taken over from the
clk `from'` in which the new one begins (02 R63). -/
def claimOne (s : State) (key op clk d from' : Nat) : State :=
  let u := storeGet ⟨0, 0, 0⟩ s.uses key
  let s := if clk < u.free ∧ u.op ≠ op then dropWork s u.op key from' else s
  let s := if u.op = op then s else { s with work := s.work.map (loseUnit u.op key clk) }
  { s with uses := storeSet ⟨0, 0, 0⟩ s.uses key ⟨op, clk, clk + d⟩ }

/-- Take the resource of a unit in several slices; one takeover is counted for the operation (02 R63). -/
def claimFrom (s : State) (u : RUnit) (slices : List Nat) (op clk d from' : Nat) : State :=
  let keys := slices.map (resKey u)
  let s := if keys.any (fun k => resBusy s k clk && decide ((storeGet ⟨0, 0, 0⟩ s.uses k).op ≠ op))
    then objAdd s (reuseCounter u).1 (reuseCounter u).2 1 else s
  keys.foldl (fun s k => claimOne s k op clk d from') s

/-- How long after its issue an operation begins on a unit: slice-level units take 6 clk (02 R54). -/
def beginLag (u : RUnit) : Nat :=
  match u with
  | .divider | .fpDivider => 0
  | _ => 6

/-- The same where the new operation begins as long after its issue as its unit does (02 R54, R63; DESIGN CHOICE, log entry 91). -/
def claim (s : State) (u : RUnit) (slices : List Nat) (op clk d : Nat) : State := claimFrom s u slices op clk d (clk + beginLag u)

/-! ### Registers -/

/-- Read an X register: X0 reads as zero (04 Table 4-1). -/
def getX (s : State) (r : Nat) : W64 := if r = 0 then 0 else storeGet 0 s.sc.x r

/-- Write an X register: a write to X0 is discarded. -/
def setX (s : State) (r : Nat) (v : W64) : State :=
  if r = 0 then s else s.onSc fun c => { c with x := storeSet 0 c.x r v }

/-- Read an F register. -/
def getF (s : State) (r : Nat) : W64 := storeGet 0 s.sc.f r

/-- Write an F register. -/
def setF (s : State) (r : Nat) (v : W64) : State := s.onSc fun c => { c with f := storeSet 0 c.f r v }

/-- A group mask (02 R41). -/
def groupMask (s : State) (gn : Nat) : BitVec 160 := storeGet 0 s.seq.gmask gn

/-! ### Interrupts and MSI-X -/

/-- Set the pending latch of an interrupt, 10h to 1Fh (03 R70). -/
def raiseInt (s : State) (k : Nat) : State :=
  s.onCnt fun c => { c with ipend := c.ipend ||| BitVec.ofNat 16 (2 ^ (k - 16)) }

/-- The domain numbers of 15 Table 15-1. -/
def domOn (s : State) (d : Nat) : Bool := s.power.domains.getLsbD d

/-- A dword of the MSI-X table; a vector is masked after reset (17 Table 17-4: per PCIe). -/
def msixGet (s : State) (k : Nat) : W32 := storeGet (if k % 4 = 3 then 1 else 0) s.host.msix k

/-- Whether a message may be sent now. -/
def msixOpen (s : State) (v : Nat) : Bool :=
  s.host.busMaster && s.host.msixOn && !(bit (msixGet s (4 * v + 3)) 0) && decide (s.host.pmcsr = 0)

/-- Signal an event of an MSI-X vector (17 R442): only with the PCI domain on and the link up; while its HEVT bit is set
no further message goes out. A message that may not be sent yet is pending. -/
def signal (s : State) (v : Nat) : State :=
  if !(domOn s 29 && s.host.link) then s
  else if bit s.host.hevt v then s
  else
    let s := s.onHost fun h => { h with hevt := setBit h.hevt v true }
    if msixOpen s v then s.emit (.msix v)
    else s.onHost fun h => { h with pba := storeSet false h.pba v true }

/-! ### Toll records (13 R350, R351) -/

/-- An empty record. -/
def blankToll : Toll :=
  { type := 0, sev := 0, flags := 0, seqNo := 0, beat := 0, step := 0, att := 0, ucls := 0, unit := 0, op := 0xC000,
    temp := 0, volt := 0, addr := 0, synd := 0, count := 1, job := 0, detail := 0 }

/-- The die of a unit (01 Table 1-1), for VOLT and TEMP. -/
def dieOfUnit (ucls unit : Nat) : Nat :=
  if ucls = 1 then unit / 84
  else if ucls = 2 ∨ ucls = 3 ∨ ucls = 0x11 then unit / (if ucls = 0x11 then 64 else 256) / 84
  else if ucls = 4 then unit / 32 / 84
  else if ucls = 5 ∨ ucls = 0xA ∨ ucls = 0xB then unit % 2
  else if ucls = 6 then unit / 32 / 4
  else if ucls = 7 then unit / 8 / 2
  else if ucls = 8 then unit / 18 / 4
  else if ucls = 0xE then (if unit < 0x10 then unit / 2 else if unit < 0x20 then (unit - 0x10) / 2 else 0)
  else 0

/-- The hottest sensor of a die, of its quarters and its periphery (15 R408), as a 32-bit pattern. -/
def dieTemp (s : State) (die : Nat) : Nat :=
  let l := ((s.power.sensors.drop (16 * die)).take 16) ++ ((s.power.sensors.drop (32 + 4 * die)).take 4)
  patternOf 32 (l.foldl max (l.headD 0))

/-- Do the work of an operation, which a record's OP names meanwhile (13 R350): 4000h + KIND of a DMA, 8000h + OP of a collective, else the
opcode syllable. -/
def withOpAnd {α : Type} (code : Nat) (f : State → State × α) (s : State) : State × α :=
  let r := f (s.onCnt fun c => { c with opNow := BitVec.ofNat 16 code })
  (r.1.onCnt fun c => { c with opNow := s.cnt.opNow }, r.2)

def withOp (code : Nat) (f : State → State) (s : State) : State := (withOpAnd code (fun s => (f s, ())) s).1

/-- Whether records of a type name the operation that raised them: corrected words, poison created, a derivative mismatch. -/
def namesOp (t : Toll) : Bool := t.op = 0xC000 && (t.type = 1 || t.type = 3 || t.type = 0x10)

/-- A record enters the toll ring, and flash from severity 2 on; interrupt 14h or 17h is raised and vector 0 signalled. -/
def enterToll (s : State) (t : Toll) : State :=
  let s := s.onRel fun r => { r with
    ring := takeLast 4096 (r.ring ++ [t]),
    flash := if 2 ≤ t.sev.toNat then takeLast 1024 (r.flash ++ [t]) else r.flash }
  if t.sev = 0 then s
  else signal (raiseInt s (if t.sev = 1 then 0x14 else 0x17)) 0

/-- File a toll record: sequence number, beat, step, attempt, job, and the voltage and temperature of the last sensor read are filled in
(DESIGN CHOICE, log entry 40). While the steward restarts, up to 64 records wait in AON (16 R419); a record that finds no place there is lost
(DESIGN CHOICE, log entry 66). -/
def fileToll (s : State) (t : Toll) : State :=
  let (v, s) := freshFree s
  let die := dieOfUnit t.ucls.toNat t.unit.toNat
  let temp := if t.ucls = 0 then objGet s 0x3030 1 else dieTemp s die
  let t := { t with
    seqNo := s.rel.nextSeq, op := if namesOp t then s.cnt.opNow else t.op, beat := s.fab.beat.count, step := s.cnt.step, att := s.coll.attempt,
    temp := BitVec.ofNat 16 temp, volt := s.power.volts.getD die (v.setWidth 16), job := BitVec.ofNat 64 (objGet s 0x4000 6) }
  let s := s.onRel fun r => { r with nextSeq := if r.nextSeq = BitVec.allOnes 32 then r.nextSeq else r.nextSeq + 1 }
  if s.trust.restarting then s.onRel fun r => { r with waiting := (r.waiting ++ [t]).take 64 } else enterToll s t

/-- A record of a type and severity, with its detail. -/
def tollOf (type sev : Nat) (detail : Nat) : Toll :=
  { blankToll with type := BitVec.ofNat 16 type, sev := BitVec.ofNat 8 sev, detail := BitVec.ofNat 64 detail }

/-- The words of a record (13 Table 13-3), as one number. -/
def tollWord (t : Toll) : Nat :=
  t.type.toNat + t.sev.toNat * 2 ^ 16 + t.flags.toNat * 2 ^ 24 + t.seqNo.toNat * 2 ^ 32 + t.beat.toNat * 2 ^ 80
    + t.step.toNat * 2 ^ 128 + t.att.toNat * 2 ^ 176 + t.ucls.toNat * 2 ^ 184 + t.unit.toNat * 2 ^ 192
    + t.op.toNat * 2 ^ 208 + t.temp.toNat * 2 ^ 224 + t.volt.toNat * 2 ^ 240 + t.addr.toNat * 2 ^ 256
    + t.synd.toNat * 2 ^ 320 + t.count.toNat * 2 ^ 352 + t.job.toNat * 2 ^ 384 + t.detail.toNat * 2 ^ 448

/-! ### Two views of one object (17 R456) -/

/-- The management view of an object. Of 3000h it is 3000h:01. -/
def mgmtView (s : State) (idx sub : Nat) : Nat :=
  if idx = 0x3000 then objGet s 0x3000 1 else storeGet 0 s.dict.mgmtView (objKey idx sub)

/-- The data view of an object. Of 3000h it is 3000h:02. -/
def dataView (s : State) (idx sub : Nat) : Nat :=
  if idx = 0x3000 then objGet s 0x3000 2 else storeGet 0 s.dict.dataView (objKey idx sub)

/-- The more restrictive of two values (17 Table 17-15): the lower-power state, or 0. -/
def restrictive (idx a b : Nat) : Nat := if idx = 0x3000 then max a b else min a b

/-- The value in force. -/
def viewInForce (s : State) (idx sub : Nat) : Nat := restrictive idx (mgmtView s idx sub) (dataView s idx sub)

/-- After a write of a view: the value in force follows, and a mismatch begins or ends (DEDUCED, log entry 73). -/
def settleViews (s : State) (idx sub : Nat) : State :=
  let k := objKey idx sub
  let m := mgmtView s idx sub
  let d := dataView s idx sub
  let v := restrictive idx m d
  let s := if idx = 0x3000 then s else objSet s idx sub v
  if m = d then { s with dict := { s.dict with mismatch := s.dict.mismatch.filter fun x => decide (x ≠ k) } }
  else if s.dict.mismatch.contains k then s
  else
    let s := { s with dict := { s.dict with mismatch := s.dict.mismatch ++ [k] } }
    signal (fileToll (objAdd s 0x7440 9 1)
      (tollOf 0x60 2 (idx + sub * 2 ^ 16 + m * 2 ^ 24 + d * 2 ^ 32 + v * 2 ^ 40))) 8

/-- Put a value into one view. -/
def putView (s : State) (mgmt : Bool) (idx sub v : Nat) : State :=
  if idx = 0x3000 then objSet s 0x3000 (if mgmt then 1 else 2) v
  else if mgmt then { s with dict := { s.dict with mgmtView := storeSet 0 s.dict.mgmtView (objKey idx sub) v } }
  else { s with dict := { s.dict with dataView := storeSet 0 s.dict.dataView (objKey idx sub) v } }

/-- A write of the BMC: while a mismatch is in force it makes both views its value. -/
def writeMgmtView (s : State) (idx sub v : Nat) : State :=
  let both := s.dict.mismatch.contains (objKey idx sub)
  let s := putView s true idx sub v
  settleViews (if both then putView s false idx sub v else s) idx sub

/-- A write of the host or of M level. -/
def writeDataView (s : State) (idx sub v : Nat) : State := settleViews (putView s false idx sub v) idx sub

/-! ### Ports and flits (11 R274, R284) -/

/-- A port that is off. -/
def blankPort : Port :=
  { st := .off, step := 1, gen := 0, half := false, laneMap := [], retired := [], swap := none, agreed := false, swapAt := 0, credits := [],
    shared := 1628, txSeq := 0, rxGood := 0, discarding := false, replay := [], sentCtl := [], replays := 0, queue := [],
    served := (0, 0), turn := [], marker := false, attempts := 0, freed := [], nak := false, peerHop := 63, peerId := 0,
    stamp := 0, rtt := 0, ethSeq := 0, placed := [], pausing := [], paused := [] }

/-- A port. -/
def portGet (s : State) (k : Nat) : Port := storeGet blankPort s.fab.ports k

/-- Write a port. -/
def portSet (s : State) (k : Nat) (p : Port) : State :=
  s.onFab fun f => { f with ports := storeSet blankPort f.ports k p }

/-- Whether a port carries traffic. -/
def portActive (s : State) (k : Nat) : Bool := decide ((portGet s k).st = .active)

/-- The ACTIVE ports that run Shuaskol. -/
def shuaskolPorts (s : State) : List Nat :=
  (List.range 8).filter fun k => portActive s k && decide (objGet s 0x2301 (k + 1) = 1)

/-- A flit header (11 Table 11-3). -/
def flitHeader (dst src cls vcd det type nw ts : Nat) : W128 :=
  BitVec.ofNat 128 (dst % 2 ^ 14 * 2 ^ 114 + src % 2 ^ 14 * 2 ^ 100 + cls % 4 * 2 ^ 98 + vcd % 2 * 2 ^ 97 + det % 4 * 2 ^ 95
    + type % 16 * 2 ^ 91 + nw % 16 * 2 ^ 87 + ts % 2 ^ 87)

/-- A flit as a sender makes it: the header, the payload words with their marks, idle words after them. -/
def makeFlit (h : W128) (payload : List (W128 × Mark)) : Flit :=
  { words := h :: (payload.map (·.1) ++ List.replicate (15 - payload.length) 0),
    marks := .good :: (payload.map (·.2) ++ List.replicate (15 - payload.length) .good), crcOk := true }

/-- The header word of a flit. -/
def headOf (f : Flit) : W128 := f.words.headD 0

/-- The flit with another header. -/
def withHead (f : Flit) (h : W128) : Flit := { f with words := h :: f.words.drop 1 }

/-- The class of a flit. -/
def flitCls (f : Flit) : Nat := field (headOf f) 99 98

/-- Put a flit in a port's output queue. -/
def enqueueFlit (s : State) (k : Nat) (q : Queued) : State :=
  let p := portGet s k
  portSet s k { p with queue := p.queue ++ [q] }

/-- The type-specific field of a tocsin (13 Table 13-6a). -/
def tocsinField (kind ps step att tseq ttype : Nat) : Nat :=
  kind % 16 * 2 ^ 83 + ps % 16 * 2 ^ 79 + step % 65536 * 2 ^ 63 + att % 8 * 2 ^ 60 + tseq % 2 ^ 32 * 2 ^ 28 + ttype % 65536 * 2 ^ 12

/-- The flit of a tocsin (13 R353): TYPE 3h, class K, its DST equal to its SRC. -/
def tocsinFlit (src ts : Nat) : Flit := makeFlit (flitHeader src src 2 0 0 3 0 ts) []

/-- Put a tocsin on every ACTIVE Shuaskol port but one (8: all). -/
def forwardTocsin (s : State) (src ts except : Nat) : State :=
  ((shuaskolPorts s).filter fun k => decide (k ≠ except)).foldl (fun s k => enqueueFlit s k ⟨except, false, tocsinFlit src ts, tocsinFlit src ts⟩) s

/-- Send a tocsin (13 R353): kind, peer set, and the type of the record that caused it. -/
def sendTocsin (s : State) (kind ps ttype : Nat) : State :=
  let step := s.cnt.step.toNat % 65536
  let att := s.coll.attempt.toNat % 8
  let tseq := s.rel.tseq.toNat
  let me := objGet s 0x2300 1
  let s := s.emit (.tocsin kind ps step att tseq ttype)
  let s := forwardTocsin s me (tocsinField kind ps step att tseq ttype) 8
  s.onRel fun r => { r with
    tseq := r.tseq + 1,
    tocsins := takeLast 1024 (r.tocsins ++ [(BitVec.ofNat 14 me, r.tseq)]) }

/-- HOP of a device behind a port. -/
def hopVia (s : State) (k : Nat) : BitVec 6 := BitVec.ofNat 6 (min 63 ((portGet s k).peerHop.toNat + 1))

/-- The beat advertisement of this device: its upstream's HOP plus 1 while the upstream is ACTIVE (11 R296). -/
def myHop (s : State) : Nat :=
  let b := s.fab.beat
  if b.st = 2 ∧ portActive s b.upstream = true then (hopVia s b.upstream).toNat else b.hop.toNat

/-- The framing slices of a frame of a port (11 Table 11-4). The transmit stamp and the marker's offset measure time between clk edges: free
values (DESIGN CHOICE, log entry 113). -/
def framingOf (s : State) (k : Nat) (seq : BitVec 12) (marker : Bool) (ctl : List LinkControl) : Framing :=
  let p := portGet s k
  let v := Config.freeValue s.cnt.free
  { sync := 0xF628, fseq := seq, lastGood := p.rxGood, nak := p.nak, stamp := v.setWidth 32, echo := p.stamp,
    freed := (List.range 6).map fun c => storeGet 0 p.freed c, bm := marker, beat := s.fab.beat.count,
    offset := (v >>> 32).setWidth 16, hop := BitVec.ofNat 6 (myHop s), control := ctl }

/-- Open a frame on a port: it carries the sequence number, the acknowledgement, a NAK, the freed places, the beat marker of a boundary that
falls in it and link control (11 Table 11-4); the last 128 frames are held for replay. -/
def openFrame (s : State) (k : Nat) (marker : Bool) (ctl : List LinkControl) : State :=
  let p := portGet s k
  let seq := p.txSeq + 1
  let s := s.emit (.frame k (framingOf s k seq marker ctl))
  portSet (freshFree s).2 k { p with
    txSeq := seq, nak := false, freed := [], marker := marker, replay := takeLast 128 (p.replay ++ [(seq, [])]),
    sentCtl := if ctl.isEmpty then p.sentCtl else takeLast 128 (p.sentCtl ++ [(seq, ctl)]) }

/-- A link-control message on every ACTIVE Shuaskol port but one (8: all). -/
def tellPeers (s : State) (except : Nat) (c : LinkControl) : State :=
  ((shuaskolPorts s).filter fun k => decide (k ≠ except)).foldl (fun s k => openFrame s k false [c]) s

/-- Every ACTIVE Shuaskol port announces shutdown (11 R293). -/
def announceShutdown (s : State) : State := (shuaskolPorts s).foldl (fun s k => openFrame s k false [.shutdown]) s

/-- Whether an array has a free spare for one more of its rows or columns, beside those that already follow one (06 R160, Table 6-11). -/
def spareRoom (s : State) (taken : List Follow) (f : Follow) : Bool :=
  let m := objGet s 0x2011 (f.unit.toNat / 256 + 1)
  let used := (List.range 2).countP fun i => decide (m / 256 ^ (2 * b2n (decide (f.ucls = 2)) + i) % 256 ≠ 255)
  let mine := taken.countP fun g => decide (g.ucls = f.ucls) && decide (g.unit.toNat / 256 = f.unit.toNat / 256)
  decide (used + mine < 2)

/-- The steward assigns free spares to the suspect and retiring rows and columns: one that has a spare keeps it, the others take what is
free in their order (06 R160). -/
def assignSpares (s : State) : State :=
  let want := ((s.rel.suspects.map fun u => (⟨u.1, u.2⟩ : Follow)) ++ s.rel.follows).filter fun f => decide (f.ucls = 2 ∨ f.ucls = 3)
  let kept := s.rel.spares.filter want.contains
  let all := want.foldl (fun l f => if l.contains f || !(spareRoom s l f) then l else l ++ [f]) kept
  s.onRel fun r => { r with spares := all, trailed := r.trailed.filter fun x => all.contains x.1 }

/-- Make a unit a suspect (13 R356); a suspect row or column is assigned a free spare (06 R160). -/
def addSuspect (s : State) (ucls unit : Nat) : State :=
  let u := (BitVec.ofNat 8 ucls, BitVec.ofNat 16 unit)
  if s.rel.suspects.contains u then s
  else assignSpares (objAdd (s.onRel fun r => { r with suspects := r.suspects ++ [u] }) 0x7410 5 1)

/-- A row of a scratch bank or pseudo-channel is why its unit is a suspect (13 R356, R357). -/
def addSuspectRow (s : State) (ucls unit row : Nat) : State :=
  let r := (BitVec.ofNat 8 ucls, BitVec.ofNat 16 unit, row)
  let s := if ucls ≠ 4 ∧ ucls ≠ 6 ∨ s.rel.rows.contains r = true ∨ (s.rel.replaced.any fun x => decide ((x.1, x.2.1, x.2.2.1) = r)) = true
    then s else s.onRel fun k => { k with rows := k.rows ++ [r] }
  addSuspect s ucls unit

/-! ### Stopping and marking the stream -/

/-- Stop the stream at once (03 R91): issue stops, issued operations complete; vector 3 is signalled (01 R25). -/
def stopStream (s : State) : State :=
  if !s.seq.running then s
  else
    let s := s.onSeq fun q => { q with running := false, wait := [], waitBeats := 0 }
    let s := s.onTrust fun t => { t with halted := false }
    signal (s.emit (.stream false 0)) 3

/-- The physical slice of a logical slice (01 R15, R16). -/
def physSlice (s : State) (l : Nat) : Nat := storeGet (l / 20 * 21 + l % 20) s.rel.sliceMap l

end Sys2Proof.Machine
end

