-- ==== Sys2Proof/Machine/Memory.lean ====
section
/-! DEFINITION. Memory: the address map, code words and their marks, poison and containment, translation (10 R241 to R250,
13 R341 to R349 and R479, 03 R92 to R97). -/

namespace Sys2Proof.Machine

/-! ### The address map (10 Table 10-1) -/

/-- What an address names. -/
inductive Region where
  | clay (die off : Nat)
  | marl (die off : Nat)
  | scratch (slice off : Nat)
  | localScratch (off : Nat)
  | program (off : Nat)
  | none
deriving DecidableEq, Repr

def scratchBase : Nat := 0xF00000000000
def localBase : Nat := 0xF00100000000
def programBase : Nat := 0xF00200000000

/-- The address map, without regard to what is populated or powered. -/
def regionOf (a : Nat) : Region :=
  if a < 0x20000000000 then .clay (a / 0x10000000000) (a % 0x10000000000)
  else if a < 0x40000000000 then .marl (a / 0x10000000000 - 2) (a % 0x10000000000)
  else if scratchBase ≤ a ∧ a < scratchBase + 160 * 0x1000000 then
    .scratch ((a - scratchBase) / 0x1000000) ((a - scratchBase) % 0x1000000)
  else if localBase ≤ a ∧ a < localBase + 0x1000000 then .localScratch (a - localBase)
  else if programBase ≤ a ∧ a < programBase + 0x800000 then .program (a - programBase)
  else .none

/-- The place of a clay offset (10 R248): stack, pseudo-channel, bank, row. -/
def clayPlace (die off : Nat) : Nat × Nat × Nat × Nat :=
  let b := off / 1024
  let q := b % 128
  let u := b / 128
  let ch := (q ^^^ (u % 128)) ^^^ ((u / 128) % 128)
  (4 * die + ch / 32, ch % 32, (u % 64) ^^^ ((u / 4096) % 64), u / 64)

/-- The place of a marl offset (10 R250): site, channel, bank, row. -/
def marlPlace (die off : Nat) : Nat × Nat × Nat × Nat :=
  let b := off / 1024
  let q := b % 16
  let u := b / 16
  let ch := (q ^^^ (u % 16)) ^^^ ((u / 16) % 16)
  (2 * die + ch / 8, ch % 8, (u % 16) ^^^ ((u / 256) % 16), u / 16)

/-- Whether an address has a target now (10 R241, R242). -/
def hasTarget (s : State) (a : Nat) : Bool :=
  match regionOf a with
  | .clay d off =>
    decide (off < objGet s 0x2201 (1 + d)) && decide (objGet s 0x2200 1 = 1) && domOn s (16 + (clayPlace d off).1)
  | .marl d off =>
    decide (off < objGet s 0x2204 (1 + d)) && decide (objGet s 0x2200 2 = 1) && domOn s 24
      && decide (objGet s 0x2202 (5 + (marlPlace d off).1) = 1)
  | .scratch _ _ => true
  | .localScratch _ => false
  | .program _ => true
  | .none => false

/-- The reserved scratch region (10 R244). -/
def inReserved (a : Nat) : Bool :=
  match regionOf a with
  | .scratch _ off => decide (0xFF0000 ≤ off)
  | _ => false

/-- The address of a slice's own scratch. -/
def scratchAddr (slice off : Nat) : Nat := scratchBase + slice * 0x1000000 + off

/-! ### The memory-side caches (10 R251 to R253; DESIGN CHOICE and DEDUCED, log entry 95)

The bytes and the marks of a line stand in memory whether a cache holds it or not: each cache is the one point through which its
die's clay and marl are reached (R252). What a cache adds is which lines it holds, which of them are dirty and which are the least
recent. -/

/-- Whether a line of 128 bytes lies in clay or marl, and so behind a cache. -/
def cachedLine (l : Nat) : Bool := decide (l < 2 ^ 35)

/-- How the cache of its die holds a line. -/
def lineGet (s : State) (l : Nat) : CacheLine := storeGet noLine s.cache l

/-- The set of a line: the die that owns it, and one of the 393,216 sets of that die's cache. -/
def lineSet (l : Nat) : Nat × Nat := (l / 2 ^ 33 % 2, Config.cacheSet l % 393216)

/-- The lines that stand in the set of a line. -/
def lineMates (c : Store CacheLine) (l : Nat) : Store CacheLine := c.filter fun e => decide (lineSet e.1 = lineSet l)

/-- The lines of a full set that may go: those filled as least recent if there are any, else all. -/
def lineVictims (c : Store CacheLine) (l : Nat) : Store CacheLine :=
  let olds := (lineMates c l).filter fun e => e.2.old
  if olds.isEmpty then lineMates c l else olds

/-- Count the bytes that the memory behind a line reads or writes (10 Table 10-9, 7220h:01 to :04). -/
def traffic (s : State) (l : Nat) (write : Bool) (n : Nat) : State :=
  objAdd s 0x7220 (1 + b2n write + 2 * b2n (decide (2 ^ 34 ≤ l))) n

/-- A line leaves its cache; a dirty one is written back, and counted. -/
def evictLine (s : State) (e : Nat × CacheLine) : State :=
  let s := if e.2.dirty then traffic (objAdd s 0x7220 7 1) e.1 true 128 else s
  { s with cache := storeErase s.cache e.1 }

/-- A set of sixteen lines gives one up; which of those that may go is a free value (the pseudo-LRU state is not printed). -/
def cacheRoom (s : State) (l : Nat) : State :=
  if s.cache.length < 16 ∨ (lineMates s.cache l).length < 16 then s
  else
    let v := freshFree s
    let goes := lineVictims s.cache l
    match goes[v.1.toNat % goes.length]? with
    | none => s
    | some e => evictLine v.2 e

/-- How a cache holds a line from now on. -/
def putLine (s : State) (l : Nat) (c : CacheLine) : State := { s with cache := storeSet noLine s.cache l c }

/-- What the memory behind a line moves at a miss of n bytes: what passes by, in 16-byte granules for a write, or a fill unless the whole
line is written (10 R251). -/
def missTraffic (s : State) (l : Nat) (write : Bool) (hint n : Nat) : State :=
  if hint = 1 then traffic s l write (if write then 16 * ceilDiv n 16 else n)
  else if write && decide (128 ≤ n) then s else traffic s l false 128

/-- One access to a line under a hint, of so many bytes of it: a hit, or a miss that allocates unless the hint is no-allocate. -/
def touchLine (write : Bool) (hint : Nat) (size : Nat → Nat) (s : State) (l : Nat) : State :=
  if !(cachedLine l) then s
  else
    let c := lineGet s l
    if c.held then putLine (objAdd s 0x7220 5 1) l ⟨true, c.dirty || write, false⟩
    else
      let s := missTraffic (objAdd s 0x7220 6 1) l write hint (size l)
      if hint = 1 then s else putLine (cacheRoom s l) l ⟨true, write, decide (hint = 2)⟩

/-- The lines of a span of n bytes, in order. -/
def linesOf (a n : Nat) : List Nat :=
  if n = 0 then [] else (List.range ((a + n - 1) / 128 - a / 128 + 1)).map fun i => a / 128 + i

/-- How many bytes of a span lie in a line. -/
def spanInLine (a n l : Nat) : Nat := min (a + n) (128 * l + 128) - max a (128 * l)

/-- An access to a span passes through the caches. -/
def useCache (s : State) (a n : Nat) (write : Bool) (hint : Nat) : State :=
  if cachedLine (a / 128) then (linesOf a n).foldl (touchLine write hint (spanInLine a n)) s else s

/-- A write of scattered bytes passes through the caches. -/
def writeThrough (s : State) (as : List Nat) (hint : Nat) : State :=
  ((as.map fun a => a / 128).eraseDups).foldl (touchLine true hint fun l => as.countP fun a => decide (a / 128 = l)) s

/-- The unit that holds an address (13 Table 13-4): class and number. The cache answers for a line that it holds. -/
def unitOfAddr (s : State) (a : Nat) : Nat × Nat :=
  match regionOf a with
  | .clay d off => if (lineGet s (a / 128)).held then (5, d) else (6, (clayPlace d off).1 * 32 + (clayPlace d off).2.1)
  | .marl d off => if (lineGet s (a / 128)).held then (5, d) else (7, (marlPlace d off).1 * 8 + (marlPlace d off).2.1)
  | .scratch sl off => (4, physSlice s sl * 32 + off / 64 % 32)
  | .program _ => (0xF, 0)
  | _ => (0, 0)

/-- The row of a scratch bank or pseudo-channel that an address lies in, with its bank (10 R246, R248; which granules of a bank of scratch make
a row is not printed, DESIGN CHOICE, log entry 132). -/
def rowOfAddr (a : Nat) : Nat :=
  match regionOf a with
  | .clay d off => let p := clayPlace d off; p.2.2.2 * 64 + p.2.2.1
  | .scratch _ off => off / 2048
  | _ => 0

/-! ### The code (13 R341, R342) -/

/-- Bit j of row i of the check matrix H: its columns 128 to 143 are the identity. -/
def hBit (i j : Nat) : Bool := if j < 128 then (Config.checkRow i (j / 8)).getLsbD (j % 8) else decide (j = 128 + i)

/-- The syndrome H·w of a code word. -/
def syndrome (w : BitVec 144) : BitVec 16 :=
  BitVec.ofNat 16 (((List.range 16).map fun i => ((List.range 144).countP fun j => hBit i j && w.getLsbD j) % 2 * 2 ^ i).sum)

/-- The check bits H·d of 128 data bits. -/
def checkBits (d : W128) : BitVec 16 := syndrome (d.setWidth 144)

/-- The symbol to which an error with this syndrome is confined, if any. -/
def symbolOf (y : BitVec 16) : Option (BitVec 5) :=
  ((List.range 18).find? fun k => (List.range 256).any fun e => decide (e ≠ 0) && decide (syndrome (BitVec.ofNat 144 (e * 2 ^ (8 * k))) = y)).map
    (BitVec.ofNat 5)

/-- How a reader decodes a word of a syndrome (13 Table 13-2). -/
def markOf (y : BitVec 16) : Mark :=
  if y = 0 then .good
  else if y = 0x5A5A then .poison
  else match symbolOf y with
    | some k => .corrected k y
    | none => .uncorrectable y

/-- The word that a mark and the data behind it stand for. A mark is what a reader makes of a word: its check bits are those of its data with
the syndrome added. A poisoned word is data of zero with check bits 5A5Ah. -/
def storedWord (d : W128) (m : Mark) : BitVec 144 :=
  match m with
  | .good => checkBits d ++ d
  | .poison => (0x5A5A : BitVec 16) ++ (0 : W128)
  | .corrected _ y => (checkBits d ^^^ y) ++ d
  | .uncorrectable y => (checkBits d ^^^ y) ++ d

/-! ### Bytes and marks -/

/-- A byte of memory; a byte nothing has written reads 0 (DESIGN CHOICE, log entry 4). -/
def memGet (s : State) (a : Nat) : Byte := storeGet 0 s.mem a

/-- The mark of a 16-byte word, by word number. -/
def markGet (s : State) (w : Nat) : Mark := storeGet .good s.marks w

/-- Set the mark of a word. -/
def setMark (s : State) (w : Nat) (m : Mark) : State := { s with marks := storeSet .good s.marks w m }

/-- Raw write of bytes, without regard to marks. -/
def pokeBytes (s : State) (bs : List (Nat × Byte)) : State :=
  { s with mem := bs.foldl (fun m b => storeSet 0 m b.1 b.2) s.mem }

/-- Raw read of n bytes. -/
def peekBytes (s : State) (a n : Nat) : List Byte := (List.range n).map fun i => memGet s (a + i)

/-- Write a word as zero with a valid code. -/
def zeroWord (s : State) (w : Nat) : State :=
  setMark (pokeBytes s ((List.range 16).map fun i => (16 * w + i, 0))) w .good

/-- Write a word as poison: data bits zero, the poison syndrome (13 R342). -/
def poisonWord (s : State) (w : Nat) : State :=
  setMark (pokeBytes s ((List.range 16).map fun i => (16 * w + i, 0))) w .poison

/-- A mark that decodes as poison. -/
def badMark (m : Mark) : Bool :=
  match m with
  | .good | .corrected _ _ => false
  | _ => true

/-! ### Losing domains, ending a job, reset containment -/

/-- Step 5 of 13 R347: every address on the poison list becomes a zero word and the list is emptied. -/
def clearPoisonList (s : State) : State :=
  (s.rel.poison.foldl (fun s a => zeroWord s (a / 16)) s).onRel fun r => { r with poison := [] }

/-- Whether an address lies in a slice's scratch. -/
def inScratch (a : Nat) : Bool := decide (scratchBase ≤ a) && decide (a < scratchBase + 160 * 0x1000000)

/-- Keep only the entries of memory outside scratch. -/
def clearScratch (s : State) : State :=
  { s with
    mem := storeFilter (fun a => !(inScratch a)) s.mem, marks := storeFilter (fun w => !(inScratch (16 * w))) s.marks }

/-- Steps 3 and 4 of 13 R347. -/
def clearJob (s : State) : State :=
  let s := clearScratch s
  let s := s.onTiles fun t => { t with
    frag := [], fragMark := [], bscale := [], bscaleMark := [], bank := [], bankMark := [], recs := [], recMeta := [], prods := [], moveBuf := [] }
  let s := s.onElem fun e => { e with l := [], lMark := [], gathBuf := [] }
  let s := { s with slots := [] }
  s.onFab fun f => { f with cues := [] }

/-- Steps 3 to 5 of 13 R347, once no operation that issued before the stop has work to come; the engines' transfers are not waited for (DESIGN
CHOICE, log entry 135). -/
def finishJob (s : State) : State :=
  if s.rel.ending && s.work.isEmpty then clearPoisonList (clearJob (s.onRel fun r => { r with ending := false })) else s

/-- A consumption of poison by an operation, as a record's OP names it (13 R347); `detail` is the fault subcode or the cause. Only in
poison mode. While the job ends, a further one is counted and does nothing else. -/
def consumePoison (s : State) (op detail : Nat) : State :=
  let s := objAdd s 0x7410 3 1
  if objGet s 0x4000 1 ≠ 0 ∨ s.rel.ending = true then s
  else if s.rel.jobOpen then
    let s := s.onRel fun r => { r with jobOpen := false, ending := true }
    let s := stopStream s
    let s := fileToll s { tollOf 4 2 detail with flags := 8, op := BitVec.ofNat 16 op }
    finishJob (sendTocsin s 4 0 4)
  else clearPoisonList (fileToll s { tollOf 4 2 detail with op := BitVec.ofNat 16 op })

/-- What CKSTAT shows of a checkpoint operation or drain that loses its domains: failed, abandoned (14 R380, Table 14-6). -/
def abandonedStat (s : State) : W64 := setField (setField s.ctl.ckstat 6 4 4) 15 8 0xD

/-- What a reset leaves of a port: the lanes that the ledger retires, and a lane swap that begins again (13 R360, R363). -/
def portAfterReset (p : Port) : Port :=
  { blankPort with laneMap := p.laneMap, retired := p.retired, half := p.half, swap := p.swap }

/-- The repair of a replaced clay row becomes a hard one when its stack's HB domain goes down (13 Table 13-7). -/
def hardened (x : BitVec 8 × BitVec 16 × Nat × Bool) : BitVec 8 × BitVec 16 × Nat × Bool := (x.1, x.2.1, x.2.2.1, x.2.2.2 || decide (x.1 = 6))

/-- The state of every domain but AON lost (15 R394, 13 R349): the ledger, the toll ring, the trust state, the
dictionary's settings and the counts of the model stay. A drain under way is abandoned (14 R380). Object 3000h:01 then
reads 3 (15 R397); the link is down, so the host's request is D0 and its session is gone (17 R437). A debug level above closed
returns to closed except in manufacturing (16 R431). -/
def loseAllDomains (s : State) : State :=
  let s := if s.ckpt.drain.isSome then objAdd s 0x7420 3 1 else s
  let s := objSet (objSet (objSet s 0x3000 1 3) 0x3000 2 0) 0x4111 3 0
  { s with
    seq := resetSeq,
    cnt := { resetCount with clk := s.cnt.clk, op := s.cnt.op, free := s.cnt.free, withheld := s.cnt.withheld },
    ctl := { resetCtl with ckstat := if s.ckpt.job.isSome || !s.ckpt.returns.isEmpty || s.ckpt.drain.isSome then abandonedStat s else 0 },
    sc := { x := [], f := [] }, work := [], uses := [], mem := [], marks := [], cache := [], tiles := resetTiles, slots := [],
    elem := resetElem, dma := resetDma,
    fab := { resetFabric with shroud := s.fab.shroud, ports := storeMap blankPort (fun _ p => portAfterReset p) s.fab.ports },
    coll := resetColl,
    ckpt := { s.ckpt with job := none, returns := [], drain := none, todo := [], sent := [] },
    power := { s.power with state := 3, domains := 1, target := none, wake := none, mute := 0, capMute := 0, droopMute := 0,
                            thermalMute := 0, dvfsNext := none, tripped := 0, recovering := false, hot := 0,
                            throttled := false, limitN := 0, limit := false, down := 0 },
    rel := { s.rel with replaced := s.rel.replaced.map hardened, poison := [], jobOpen := false, ending := false, fixes := [], running := none, undo := [], samples := [], sampleData := [],
                        products := 0, veOps := 0 },
    dict := { s.dict with sessions := s.dict.sessions.filter fun e => decide (e.1 ≠ 0) },
    trust := { s.trust with level := if s.trust.security = 0 then s.trust.level else 0, halted := false, loaded := false },
    host := { resetHost with perstHigh := s.host.perstHigh } }

/-- Reset containment (13 R349): record, tocsin, announced shutdown, every domain but AON reset. -/
def resetContainment (s : State) : State :=
  let s := fileToll s { tollOf 5 3 0 with flags := 8 }
  let s := announceShutdown (sendTocsin s 5 0 5)
  let s := if s.seq.running then s.emit (.stream false 0) else s
  loseAllDomains s

/-- Reset containment in the middle of a step leaves nothing of the step behind (13 R349). -/
def guardReset (before after : State) : State :=
  if decide (after.power.domains = 1) && decide (before.power.domains ≠ 1) then loseAllDomains after else after

/-- An uncorrectable word found by a reader (0), the scrubber (1) or a link (2): in poison mode the store rewrites it as
poison, its address joins the list, a record is filed and the unit becomes a suspect (13 R344, R356); in reset mode the
device is reset (R349). -/
def poisonCreated (s : State) (w : Nat) (synd : BitVec 16) (by' : Nat) : State :=
  let s := objAdd s 0x7410 2 1
  if objGet s 0x4000 1 = 1 then resetContainment s
  else
    let s := poisonWord s w
    let s := if s.rel.poison.length < 4096 then
        s.onRel fun r => { r with poison := r.poison ++ [16 * w] }
      else objAdd s 0x7410 14 1
    let u := unitOfAddr s (16 * w)
    let s := fileToll s { tollOf 3 2 by' with
      ucls := BitVec.ofNat 8 u.1, unit := BitVec.ofNat 16 u.2, addr := BitVec.ofNat 64 (16 * w), synd := synd, flags := 3 }
    addSuspectRow s u.1 u.2 (rowOfAddr (16 * w))

/-! ### Corrections (13 R343, R352) -/

/-- The beats of an address's corrections in the last 2^24 beats, newest first, at most sixteen of them. -/
def recentBeats (now : BitVec 48) (l : List (BitVec 48)) : List (BitVec 48) :=
  (now :: l.filter fun t => decide (now.toNat < t.toNat + 2 ^ 24)).take 16

/-- What a unit's reports become with one more correction at an address: the entry, and whether it is the sixteenth within 2^24 beats. -/
def bumpAddr (now : BitVec 48) (a : W64) (l : List (W64 × List (BitVec 48))) : List (W64 × List (BitVec 48)) × Bool :=
  match l with
  | [] => ([(a, [now])], false)
  | (b, ts) :: r =>
    if a = b then ((b, recentBeats now ts) :: r, decide (16 ≤ (recentBeats now ts).length))
    else ((b, ts) :: (bumpAddr now a r).1, (bumpAddr now a r).2)

/-- The summary of the corrections counted since a unit's last 0001h record (13 R352). -/
def summaryToll (s : State) (rep : UnitRep) : State :=
  fileToll s { tollOf 2 1 rep.distinct.length with
    ucls := rep.ucls, unit := rep.unit, count := BitVec.ofNat 32 rep.count, flags := 1 }

/-- Report a correction of a word of a unit (13 R352). `addr` is what the record names, `key` tells the words of one unit apart, and `row` is the
row that 16 corrections of one address make a suspect. -/
def reportCorrection (s : State) (ucls unit : Nat) (addr key : W64) (row flags : Nat) (sym : BitVec 5) (synd : BitVec 16) : State :=
  let s := objAdd s 0x7410 1 1
  let now := s.fab.beat.count
  let uc := BitVec.ofNat 8 ucls
  let un := BitVec.ofNat 16 unit
  match s.rel.reports.find? (fun r => decide (r.ucls = uc ∧ r.unit = un)) with
  | none =>
    let s := s.onRel fun r => { r with reports := r.reports ++ [⟨uc, un, now, 0, [], [(key, [now])]⟩] }
    fileToll s { tollOf 1 1 sym.toNat with
      ucls := uc, unit := un, addr := addr, synd := synd, flags := BitVec.ofNat 8 flags }
  | some rep =>
    let (as, hot) := bumpAddr now key rep.addrs
    let fresh := decide (rep.beat.toNat + 2 ^ 20 ≤ now.toNat)
    let rep' : UnitRep := if fresh then { rep with beat := now, count := 0, distinct := [], addrs := as }
                          else { rep with count := rep.count + 1, distinct := (key :: rep.distinct).eraseDups, addrs := as }
    let s := if fresh && decide (0 < rep.count) then summaryToll s rep else s
    let s := s.onRel fun r => { r with reports := r.reports.map fun x =>
      if x.ucls = uc ∧ x.unit = un then rep' else x }
    let s := if fresh then
        fileToll s { tollOf 1 1 sym.toNat with
          ucls := uc, unit := un, addr := addr, synd := synd, flags := BitVec.ofNat 8 flags }
      else s
    if hot then addSuspectRow s ucls unit row else s

/-- A reader decodes a word (13 R342): the state after, and whether it delivers poison. -/
def decodeWord (s : State) (w : Nat) (by' : Nat) : State × Bool :=
  match markGet s w with
  | .good => (s, false)
  | .corrected sym synd =>
    if s.rel.fixes.contains w then (s, false)
    else
      let u := unitOfAddr s (16 * w)
      (reportCorrection (s.onRel fun r => { r with fixes := r.fixes ++ [w] }) u.1 u.2 (BitVec.ofNat 64 (16 * w))
        (BitVec.ofNat 64 (16 * w)) (rowOfAddr (16 * w)) 3 sym synd,
        false)
  | .uncorrectable synd => (poisonCreated s w synd by', true)
  | .poison => (s, true)

/-- Decode the words of a span in ascending order; the first poisoned word, if any. -/
def decodeWords (s : State) (ws : List Nat) (by' : Nat) : State × Option Nat :=
  match ws with
  | [] => (s, none)
  | w :: r =>
    let (s, bad) := decodeWord s w by'
    let (s, o) := decodeWords s r by'
    (s, if bad then some w else o)

/-- A steward read that meets poison files a record of type 0003h for the first such word; it is no consumption (13 R348). -/
def stewardMeets (s : State) (ws : List Nat) : State :=
  match ws.find? fun w => decide (markGet s w = .poison) with
  | none => s
  | some w =>
    let u := unitOfAddr s (16 * w)
    fileToll s { tollOf 3 2 0 with ucls := BitVec.ofNat 8 u.1, unit := BitVec.ofNat 16 u.2, addr := BitVec.ofNat 64 (16 * w), flags := 3 }

/-- The words that a span of bytes touches. -/
def wordsOf (a n : Nat) : List Nat :=
  if n = 0 then [] else (List.range ((a + n - 1) / 16 - a / 16 + 1)).map fun i => a / 16 + i

/-- Read n bytes through the code: the state, the bytes, and whether any word was poison. -/
def readBytes (s : State) (a n : Nat) : State × List Byte × Bool :=
  let (s, o) := decodeWords (useCache s a n false 0) (wordsOf a n) 0
  (s, peekBytes s a n, o.isSome)

/-- A write to one word (13 R479): whole words are replaced, poison included; part of a word is merged, and a merge into a
poisoned or uncorrectable word is lost and counted. -/
def writeWord (s : State) (w : Nat) (upd : List (Nat × Byte)) : State :=
  let whole := (List.range 16).all fun i => upd.any fun u => decide (u.1 = 16 * w + i)
  if whole then
    let s := setMark (pokeBytes s upd) w .good
    s.onRel fun r => { r with poison := r.poison.filter (fun a => decide (a ≠ 16 * w)), fixes := r.fixes.erase w }
  else
    let (s, bad) := decodeWord s w 0
    if bad then objAdd s 0x7410 13 1
    else
      (setMark (pokeBytes s upd) w .good).onRel fun r => { r with fixes := r.fixes.erase w }

/-- Store bytes, word by word in ascending order of first appearance. -/
def storeBytes (s : State) (bs : List (Nat × Byte)) : State :=
  ((bs.map fun b => b.1 / 16).eraseDups).foldl
    (fun s w => writeWord s w (bs.filter fun b => decide (b.1 / 16 = w))) s

/-- Write bytes: through the caches, which allocate the lines they miss. -/
def writeBytes (s : State) (bs : List (Nat × Byte)) : State :=
  storeBytes (writeThrough s (bs.map fun b => b.1) 0) bs

/-- A write that carries poison into a word (13 R347, R479): a whole word is replaced, and leaves the poison list; part of a word is
merged, which a poisoned or uncorrectable word swallows. -/
def spoilWord (s : State) (w : Nat) (whole : Bool) : State :=
  let drop := fun (s : State) => s.onRel fun r => { r with fixes := r.fixes.erase w }
  if whole then (drop (poisonWord s w)).onRel fun r => { r with poison := r.poison.filter fun a => decide (a ≠ 16 * w) }
  else
    let r := decodeWord s w 0
    if r.2 then objAdd r.1 0x7410 13 1 else drop (poisonWord r.1 w)

/-- Write bytes with poison under a cache hint: a word any of whose bytes is marked poison becomes a poisoned word (13 R347, 08
R201). -/
def writeMarked (hint : Nat) (s : State) (bs : List (Nat × Byte × Bool)) : State :=
  let bad := ((bs.filter fun b => b.2.2).map fun b => b.1 / 16).eraseDups
  let s := storeBytes (writeThrough s (bs.map fun b => b.1) hint) ((bs.filter fun b => !(bad.contains (b.1 / 16))).map fun b => (b.1, b.2.1))
  bad.foldl (fun s w => spoilWord s w ((List.range 16).all fun i => bs.any fun b => decide (b.1 = 16 * w + i))) s

/-! ### Writes of one clk (10 R247, R252) -/

/-- Who writes, where the spec orders the writes of one clk: the stream through a slice's write port or the scalar memory port, a slice's
DMA engine, the collective engine, the host port, the steward. -/
inductive Writer where
  | stream (port : Bool)
  | slice (n : Nat)
  | collective
  | host
  | steward
deriving DecidableEq, Repr

/-- The place of a writer in the order of the writes of one clk to an address: the higher prevails. None where no order is given. -/
def writeRank (w : Writer) (a : Nat) : Option Nat :=
  match regionOf a with
  | .scratch _ _ =>
    match w with
    | .stream port => some (if port then 1001 else 1000)
    | .slice n => some (160 - n)
    | _ => none
  | .clay d _ | .marl d _ =>
    match w with
    | .collective => some 1
    | .slice n => some (if n / 80 = d then 2 + n else 200 + n) -- a slice of the other die comes over the die-to-die link
    | .host => some 401
    | .steward => some 402
    | .stream _ => none
  | _ => none

/-- Whether a write of the current clk prevails over one that a writer makes now. The stream's writes of a clk land in the order of their
issue, so the later prevails (02 R60), and over every DMA write. -/
def beaten (s : State) (w : Writer) (a : Nat) : Bool :=
  match w, writeRank w a with
  | .stream _, _ => false
  | _, none => false
  | _, some r => s.cnt.writes.any fun x => decide (x.1 ≤ a) && decide (a < x.1 + x.2.1) && decide (r < x.2.2)

/-- A span lengthened by an address of one rank, or a new one. -/
def addSpan (l : List (Nat × Nat × Nat)) (a r : Nat) : List (Nat × Nat × Nat) :=
  match l with
  | x :: t => if x.1 + x.2.1 = a ∧ x.2.2 = r then (x.1, x.2.1 + 1, r) :: t else (a, 1, r) :: l
  | [] => [(a, 1, r)]

/-- Note the addresses that a writer writes in the current clk. -/
def noteWrites (s : State) (w : Writer) (as : List Nat) : State :=
  let note := fun (l : List (Nat × Nat × Nat)) (a : Nat) => match writeRank w a with
    | some r => addSpan l a r
    | none => l
  s.onCnt fun c => { c with writes := as.foldl note c.writes }

/-- A write by a writer of the order: bytes over which an earlier write of the clk prevails are left. -/
def writeAs (w : Writer) (s : State) (bs : List (Nat × Byte)) : State :=
  noteWrites (writeBytes s (bs.filter fun b => !(beaten s w b.1))) w (bs.map fun b => b.1)

/-- The same with poison and a cache hint. -/
def writeMarkedAs (w : Writer) (hint : Nat) (s : State) (bs : List (Nat × Byte × Bool)) : State :=
  noteWrites (writeMarked hint s (bs.filter fun b => !(beaten s w b.1))) w (bs.map fun b => b.1)

/-! ### Translation (03 R92 to R97) -/

/-- Whether a valid table entry is malformed at a level (03 R96). -/
def malformed (level : Nat) (e : W64) : Bool :=
  decide (field e 63 48 ≠ 0) || decide (field e 11 4 ≠ 0)
    || (decide (level = 0) && bit e 1)
    || (decide (level = 1) && bit e 1 && decide (field e 29 12 ≠ 0))
    || (decide (level = 2) && decide (field e 20 12 ≠ 0))
    || (decide (level = 2) && !(bit e 1))

/-- The die that an address lies on (01 Table 1-1). -/
def dieOfAddr (a : Nat) : Nat :=
  match regionOf a with
  | .clay d _ | .marl d _ => d
  | .scratch sl _ => sl / 80
  | _ => 0

/-- The die of a translating unit: 0 the sequencer, 1 + s slice s. -/
def dieOfXlate (unit : Nat) : Nat := if unit = 0 then 0 else (unit - 1) / 80

/-- The subcode of the bus error in which an access from a die ends on the die-to-die link, or 0 (03 Table 3-4). -/
def linkSub (s : State) (die pa : Nat) : Nat :=
  if dieOfAddr pa = die then 0
  else match Config.linkOutcome s.cnt.clk pa % 3 with
    | 0 => 0
    | k => k + 1

/-- What an access from a die over the die-to-die link does to the counts: a word corrected in the receiver is counted (13 R343), and an
uncorrectable one makes poison there, or resets the device (13 R344, R349); it is in no store, so it is on no poison list and makes no
suspect. Which, a constant without a body decides (log entry 104). -/
def crossDie (s : State) (die pa : Nat) : State :=
  let o := Config.linkOutcome s.cnt.clk pa
  if dieOfAddr pa = die then s
  else if o % 3 = 0 then (if o / 3 % 2 = 1 then objAdd s 0x7410 1 1 else s)
  else if o % 3 = 1 then
    let s := objAdd s 0x7410 2 1
    if objGet s 0x4000 1 = 1 then resetContainment s
    else fileToll s { tollOf 3 2 2 with ucls := 9, synd := BitVec.ofNat 16 (o / 6), flags := 1 }
  else s

/-- Count a request that crosses the die-to-die link (10 Table 10-9). -/
def countCross (s : State) (die pa : Nat) : State := if dieOfAddr pa = die then s else objAdd s 0x7220 0xB 1

/-- The key of a cached table entry: the unit, the level and the address bits that index down to it (03 R93, R97). -/
def tlbKey (unit level : Nat) (va : W64) : Nat :=
  (unit * 4 + level) * 2 ^ 31 + (if level = 0 then field va 51 39 else if level = 1 then field va 51 30 else field va 51 21)

/-- The subcode of the permission check of a leaf that fails, or 0 (03 R95). -/
def leafFault (e : W64) (level : BitVec 2) (write : Bool) : Nat :=
  if level = 0 ∧ !(bit e 3) then 2 else if write ∧ !(bit e 2) then 3 else 0

/-- Read the table entry of a level: from the unit's cache, or at its address from clay or marl through the memory-side cache (03 R95,
R97; 10 R264). `fresh` ignores the cache and caches nothing; nor is an entry cached that ends the walk in a page fault, a leaf whose
permission check fails among them (03 R97; DEDUCED, log entry 105). -/
def walkEntry (s : State) (unit : Nat) (fresh : Bool) (lv : BitVec 2) (write : Bool) (level : Nat) (va : W64) (ea : Nat) : State × (W64 ⊕ Addr) :=
  let c := storeGet 0 s.ctl.tlb (tlbKey unit level va)
  if !fresh && decide (c ≠ 0) then (s, .inl c)
  else
    let inDram := match regionOf ea with
      | .clay _ _ | .marl _ _ => hasTarget s ea
      | _ => false
    if !inDram then (s, .inr (.fail 3 1 (BitVec.ofNat 64 ea)))
    else if linkSub s (dieOfXlate unit) ea ≠ 0 then
      (countCross (crossDie s (dieOfXlate unit) ea) (dieOfXlate unit) ea,
        .inr (.fail 3 (linkSub s (dieOfXlate unit) ea) (BitVec.ofNat 64 ea)))
    else
      let (s, bs, bad) := readBytes (countCross (crossDie s (dieOfXlate unit) ea) (dieOfXlate unit) ea) ea 8
      if bad then (s, .inr (.fail 7 4 (BitVec.ofNat 64 ea)))
      else
        let e : W64 := BitVec.ofNat 64 (ofLe bs)
        let ends := bit e 1 && decide (leafFault e lv write ≠ 0)
        let keep := !fresh && bit e 0 && !(malformed level e) && !ends
        (if keep then s.onCtl fun k => { k with tlb := storeSet 0 k.tlb (tlbKey unit level va) e } else s, .inl e)

/-- The permission checks of a leaf and the address it gives (03 R95). -/
def leafAddr (e : W64) (level : BitVec 2) (write : Bool) (va : W64) (pageBits : Nat) : Addr :=
  if leafFault e level write ≠ 0 then .fail 8 (leafFault e level write) va
  else .ok (field e 47 12 * 4096 / 2 ^ pageBits * 2 ^ pageBits + va.toNat % 2 ^ pageBits)

/-- The three-level walk (03 R93 to R96). -/
def walk (s : State) (unit : Nat) (fresh : Bool) (root : Nat) (level : BitVec 2) (write : Bool) (va : W64) : State × Addr :=
  match walkEntry s unit fresh level write 0 va (root + 8 * field va 51 39) with
  | (s, .inr f) => (s, f)
  | (s, .inl e0) =>
    if !(bit e0 0) then (s, .fail 8 1 va)
    else if malformed 0 e0 then (s, .fail 8 5 va)
    else
      match walkEntry s unit fresh level write 1 va (field e0 47 12 * 4096 + 8 * field va 38 30) with
      | (s, .inr f) => (s, f)
      | (s, .inl e1) =>
        if !(bit e1 0) then (s, .fail 8 1 va)
        else if malformed 1 e1 then (s, .fail 8 5 va)
        else if bit e1 1 then (s, leafAddr e1 level write va 30)
        else
          match walkEntry s unit fresh level write 2 va (field e1 47 12 * 4096 + 8 * field va 29 21) with
          | (s, .inr f) => (s, f)
          | (s, .inl e2) =>
            if !(bit e2 0) then (s, .fail 8 1 va)
            else if malformed 2 e2 then (s, .fail 8 5 va)
            else (s, leafAddr e2 level write va 21)

/-- The last invalidation under way that covers an address, if any (03 R97). -/
def tinvOver (s : State) (va : W64) : Option (Nat × Bool × Nat × W64) :=
  s.ctl.tinvs.reverse.find? fun t => t.2.1 || decide (t.2.2.1 = field va 51 21)

/-- Translate a data address named by the stream or a descriptor (03 R92): at M untranslated; at U and S walked from the
root in use. While an invalidation that covers it is not complete, which translation is used is a free value. -/
def translate (s : State) (unit : Nat) (level : BitVec 2) (va : W64) (write : Bool) : State × Addr :=
  if level = 3 then
    if va.toNat < 2 ^ 48 then (s, .ok va.toNat) else (s, .fail 3 1 va)
  else if field va 63 52 ≠ 0 then (s, .fail 8 4 va)
  else
    match tinvOver s va with
    | some t =>
      if Config.staleTranslation s.cnt.free then
        walk (s.onCnt fun c => { c with free := c.free + 1 }) unit true (field t.2.2.2 47 16 * 65536) level write va
      else walk s unit false (field s.ctl.ptbInUse 47 16 * 65536) level write va
    | none => walk s unit false (field s.ctl.ptbInUse 47 16 * 65536) level write va

/-- Drop the cached entries that an invalidation names: all, or those of the walks of one 2 MiB region, in every unit (03 R97). -/
def dropCached (tlb : Store W64) (all : Bool) (reg : Nat) : Store W64 :=
  if all then []
  else
    let va : W64 := BitVec.ofNat 64 (reg * 2 ^ 21)
    storeFilter (fun key =>
      let unit := key / 2 ^ 33
      !(decide (key = tlbKey unit 0 va) || decide (key = tlbKey unit 1 va) || decide (key = tlbKey unit 2 va))) tlb

/-- The end of the invalidations that are due: the cached entries go, and the new root is in use (03 R97). Entries reached from a root
that is no longer in use go with it (DEDUCED, log entry 105). -/
def endTinv (s : State) : State :=
  let due := s.ctl.tinvs.filter fun t => decide (t.1 ≤ s.cnt.clk)
  due.foldl (fun s t => s.onCtl fun k => { k with
    tlb := dropCached k.tlb (t.2.1 || decide (k.ptbInUse ≠ t.2.2.2)) t.2.2.1, ptbInUse := t.2.2.2, tinvs := k.tinvs.erase t }) s

end Sys2Proof.Machine
end

