-- ==== Sys2Proof/Machine/Operands.lean ====
section
/-! DEFINITION. Operand forms: immediates (02 R38, R39), and the operation-side conditions that registers and fields raise
at issue (02 R35, R37). -/

namespace Sys2Proof.Machine

/-- How many bits an immediate has (02 R38, Table 2-8). -/
def immWidth (w : ImmWidth) : Nat :=
  match w with
  | .w14 => 14
  | .w28 => 28
  | .w42 => 42
  | .w12 => 12
  | .w24 => 24
  | .w36 => 36

/-- The immediate zero-extended. -/
def immZ (i : Imm) : Nat := i.bits.toNat % 2 ^ immWidth i.width

/-- The immediate as a signed number. -/
def immS (i : Imm) : Int := signedOf (immWidth i.width) i.bits.toNat

/-- An SC immediate: sign-extended from its top bit when Q[0] is 1, else zero-extended (02 R38). -/
def scImm (q : BitVec 4) (i : Imm) : W64 :=
  if bit q 0 then BitVec.ofNat 64 (patternOf 64 (immS i)) else BitVec.ofNat 64 (immZ i)

/-- A VE broadcast immediate under IMI (02 R39): FP32 takes the top bits and fills with zeros. A compact immediate of 12, 24
or 36 bits is first extended as R38 and R39 state from its own top bit; for FP32 it supplies the top bits likewise. -/
def veImm (imi : BitVec 2) (i : Imm) : W32 :=
  let w := immWidth i.width
  if imi = 0 then
    (if w ≤ 32 then BitVec.ofNat 32 (immZ i * 2 ^ (32 - w)) else BitVec.ofNat 32 (immZ i))
  else if imi = 1 then BitVec.ofNat 32 (patternOf 32 (immS i))
  else BitVec.ofNat 32 (immZ i)

/-- An issue-time condition: a fault's code and subcode. -/
abbrev Cond := Option (Nat × Nat)

/-- The first condition that holds. -/
def firstCond (l : List (Bool × Nat × Nat)) : Cond := (l.find? fun c => c.1).map fun c => c.2

/-! ### Element sizes (04 R100) -/

/-- The element width in bits. -/
def esBits (es : BitVec 3) : Nat := 8 * 2 ^ es.toNat

/-- A short vector as one number: D form is Fn, Q form is Fn and F(n+1) (04 R100). -/
def getV (s : State) (q : Bool) (r : Nat) : Nat :=
  if q then (getF s r).toNat + (getF s (r + 1)).toNat * 2 ^ 64 else (getF s r).toNat

/-- How many elements a form has. -/
def vCount (q : Bool) (e : Nat) : Nat := (if q then 128 else 64) / e

/-- Element i of a vector. -/
def vElem (v e i : Nat) : Nat := v / 2 ^ (i * e) % 2 ^ e

/-- A vector from its elements, element 0 lowest. -/
def vPack (e : Nat) (l : List Nat) : Nat :=
  match l with
  | [] => 0
  | x :: r => x % 2 ^ e + 2 ^ e * vPack e r

/-- Replace elements of a vector. -/
def vReplace (v e n : Nat) (els : List (Nat × Nat)) : Nat :=
  vPack e ((List.range n).map fun i =>
    match els.find? (fun x => decide (x.1 = i)) with
    | some x => x.2
    | none => vElem v e i)

/-- Whether the named vector registers exist: in Q form they are even (02 R37). -/
def vRegsOk (q : Bool) (rs : List (BitVec 5)) : Bool := !q || rs.all fun r => decide (r.toNat % 2 = 0)

end Sys2Proof.Machine
end

