-- ==== Sys2Proof/Machine/Flags.lean ====
section
/-! DEFINITION. The arithmetic of the scalar and short-vector units (04 R102 to R104, R109 to R112). The device keeps no
status flags: a comparison writes its result to a register. -/

namespace Sys2Proof.Machine

/-- The signed value of a 64-bit register. -/
def sgn (x : W64) : Int := x.toInt

/-- Quotient and remainder rounded toward zero; a divisor of zero gives all ones and the dividend (04 R103). -/
def divSigned (a b : W64) : W64 := if b = 0 then BitVec.allOnes 64 else BitVec.ofInt 64 ((sgn a).tdiv (sgn b))
def remSigned (a b : W64) : W64 := if b = 0 then a else BitVec.ofInt 64 ((sgn a).tmod (sgn b))
def divUnsigned (a b : W64) : W64 := if b = 0 then BitVec.allOnes 64 else BitVec.ofNat 64 (a.toNat / b.toNat)
def remUnsigned (a b : W64) : W64 := if b = 0 then a else BitVec.ofNat 64 (a.toNat % b.toNat)

/-- The high halves of the products. -/
def mulHigh (a b : W64) : W64 := BitVec.ofInt 64 (sgn a * sgn b / (2 ^ 64 : Int))
def mulHighU (a b : W64) : W64 := BitVec.ofNat 64 (a.toNat * b.toNat / 2 ^ 64)

/-- A relation as 1 or 0. -/
def one (b : Bool) : W64 := if b then 1 else 0

/-! ### Scalar floating point (04 R104) -/

/-- The precision FN[0] selects. -/
def fpFmt (fn : BitVec 9) : Fmt := if bit fn 0 then fp32 else fp64

/-- An operand in its precision. -/
def fpVal (f : Fmt) (x : W64) : FVal := fDecode f x.toNat

/-- A result written to the register: an FP32 result has its upper half zero. -/
def fpOut (p : Nat) : W64 := BitVec.ofNat 64 p

def fpAdd (f : Fmt) (a b : W64) : W64 := fpOut (fEncode f (fvAdd (fpVal f a) (fpVal f b)))
def fpSub (f : Fmt) (a b : W64) : W64 := fpOut (fEncode f (fvAdd (fpVal f a) (fvNeg (fpVal f b))))
def fpMul (f : Fmt) (a b : W64) : W64 := fpOut (fEncode f (fvMul (fpVal f a) (fpVal f b)))
def fpFma (f : Fmt) (a b c : W64) : W64 :=
  fpOut (fEncode f (fvAdd (fvMul (fpVal f a) (fpVal f b)) (fpVal f c)))
def fpDiv (f : Fmt) (a b : W64) : W64 := fpOut (fDiv f (fpVal f a) (fpVal f b))
def fpSqrt (f : Fmt) (a : W64) : W64 := fpOut (fSqrt f (fpVal f a))
def fpMinMax (wantMax : Bool) (f : Fmt) (a b : W64) : W64 :=
  fpOut (fEncode f (fvMinMax wantMax (fpVal f a) (fpVal f b)))
def fpEq (f : Fmt) (a b : W64) : W64 := one (fvCompare (fpVal f a) (fpVal f b) == some .eq)
def fpLt (f : Fmt) (a b : W64) : W64 := one (fvCompare (fpVal f a) (fpVal f b) == some .lt)
def fpLe (f : Fmt) (a b : W64) : W64 :=
  one (fvCompare (fpVal f a) (fpVal f b) == some .lt || fvCompare (fpVal f a) (fpVal f b) == some .eq)

/-- Whether FCVT's result goes to an X register (FN[3..1] = 011b or 101b). -/
def cvtToX (fn : BitVec 9) : Bool := decide (field fn 3 1 = 3) || decide (field fn 3 1 = 5)

/-- FCVT's result (04 R104); `x` is X A and `a` is F A. -/
def fpCvt (fn : BitVec 9) (x a : W64) : W64 :=
  let f := fpFmt fn
  match field fn 3 1 with
  | 0 => fpOut (fEncode fp32 (fDecode fp64 a.toNat))
  | 1 => fpOut (fEncode fp64 (fDecode fp32 a.toNat))
  | 2 => fpOut (fEncode f (fvOfInt (sgn x)))
  | 3 => BitVec.ofInt 64 (fvToInt (-(2 ^ 63)) (2 ^ 63 - 1) (fpVal f a))
  | 4 => fpOut (fEncode f (fvOfInt (x.toNat : Int)))
  | _ => BitVec.ofInt 64 (fvToInt 0 (2 ^ 64 - 1) (fpVal f a))

/-! ### Short vectors -/

/-- An exact result kept in e bits: wrapped, or clamped signed or unsigned (04 R109). -/
def narrow (e : Nat) (sat uns : Bool) (z : Int) : Nat :=
  if !sat then patternOf e z
  else if uns then (max 0 (min ((2 ^ e : Nat) - 1 : Int) z)).toNat
  else patternOf e (max (-((2 ^ (e - 1) : Nat) : Int)) (min ((2 ^ (e - 1) : Nat) - 1 : Int) z))

/-- An element as a number, signed or unsigned. -/
def elemInt (e : Nat) (uns : Bool) (x : Nat) : Int := if uns then (x : Int) else signedOf e x

/-- All ones or zero. -/
def maskOf (e : Nat) (b : Bool) : Nat := if b then 2 ^ e - 1 else 0

/-- An arithmetic shift right. -/
def sraNat (e x n : Nat) : Nat := patternOf e (signedOf e x / ((2 ^ n : Nat) : Int))

/-- The format of MAJ 01h (04 R110). -/
def vFmt (es : BitVec 3) (fn : BitVec 4) : Fmt :=
  if es = 1 then (if bit fn 0 then bf16 else fp16) else if es = 2 then fp32 else fp64

/-- Signedness of VWMUL and VDOT operands (04 R111): whether VA and VB are unsigned. -/
def dotUns (fn : BitVec 4) : Bool × Bool := (decide (field fn 3 2 = 1), decide (field fn 3 2 ≠ 0))

/-- VWMUL (04 R111). -/
def vwmulElems (e n : Nat) (fn : BitVec 4) (a b : Nat) : List Nat :=
  let q := field fn 1 0
  (List.range (n / 4)).map fun j =>
    patternOf (4 * e) (elemInt e (dotUns fn).1 (vElem a e (q * n / 4 + j)) * elemInt e (dotUns fn).2 (vElem b e (q * n / 4 + j)))

/-- VDOT (04 R112). -/
def vdotElems (e n : Nat) (fn : BitVec 4) (a b c : Nat) : List Nat :=
  (List.range (n / 4)).map fun j =>
    patternOf (4 * e) ((vElem c (4 * e) j : Int) + ((List.range 4).map fun k =>
      elemInt e (dotUns fn).1 (vElem a e (4 * j + k)) * elemInt e (dotUns fn).2 (vElem b e (4 * j + k))).sum)

end Sys2Proof.Machine
end

