-- ==== Sys2Proof/Machine/ScalarUnit.lean ====
section
/-! DEFINITION. What each scalar and short-vector operation does at its issue, and how its memory accesses are detected,
read and landed (04). Every result lands at issue + L (02 Table 2-7). -/

namespace Sys2Proof.Machine

/-! ### Results -/

/-- An X result that lands L clk after issue. -/
def putX (l : Nat) (d : BitVec 5) (v : W64) (s : State) : State := landIn s l s.cnt.op [] (.setX d.toNat v)

/-- An F result that lands L clk after issue. -/
def putF (l : Nat) (d : BitVec 5) (v : W64) (s : State) : State := landIn s l s.cnt.op [] (.setF d.toNat v)

/-- A result of a unit whose reuse distance is its latency: the divider or the FP divider. -/
def putLong (u : RUnit) (l : Nat) (act : Micro) (s : State) : State :=
  let s := claim s u [0] s.cnt.op s.cnt.clk l
  landIn s l s.cnt.op [resKey u 0] act

/-! ### Register-immediate (04 Table 4-2, MAJ 01h, 04h, 06h) -/

def doAddi (d a : BitVec 5) (q : BitVec 4) (imm : Imm) (s : State) : State := putX 1 d (getX s a.toNat + scImm q imm) s
def doAndi (d a : BitVec 5) (q : BitVec 4) (imm : Imm) (s : State) : State := putX 1 d (getX s a.toNat &&& scImm q imm) s
def doOri (d a : BitVec 5) (q : BitVec 4) (imm : Imm) (s : State) : State := putX 1 d (getX s a.toNat ||| scImm q imm) s
def doXori (d a : BitVec 5) (q : BitVec 4) (imm : Imm) (s : State) : State := putX 1 d (getX s a.toNat ^^^ scImm q imm) s
def doSlli (d a : BitVec 5) (q : BitVec 4) (imm : Imm) (s : State) : State :=
  putX 1 d (getX s a.toNat <<< field (scImm q imm) 5 0) s
def doSrli (d a : BitVec 5) (q : BitVec 4) (imm : Imm) (s : State) : State :=
  putX 1 d (getX s a.toNat >>> field (scImm q imm) 5 0) s
def doSrai (d a : BitVec 5) (q : BitVec 4) (imm : Imm) (s : State) : State :=
  putX 1 d ((getX s a.toNat).sshiftRight (field (scImm q imm) 5 0)) s
def doSlti (d a : BitVec 5) (q : BitVec 4) (imm : Imm) (s : State) : State :=
  putX 1 d (one ((getX s a.toNat).slt (scImm q imm))) s
def doConx (d : BitVec 5) (q : BitVec 4) (imm : Imm) (s : State) : State := putX 1 d (scImm q imm) s

/-- CONF places the 42-bit immediate in F D[63..22]; a compact one is first extended to 42 bits (04 Table 4-2). -/
def confValue (q : BitVec 4) (imm : Imm) : W64 := BitVec.ofNat 64 ((scImm q imm).toNat % 2 ^ 42 * 2 ^ 22)
def doConf (d : BitVec 5) (q : BitVec 4) (imm : Imm) (s : State) : State := putF 1 d (confValue q imm) s

/-! ### Register-register (04 Table 4-2, MAJ 08h to 0Ah) -/

def doAdd (d a b : BitVec 5) (s : State) : State := putX 1 d (getX s a.toNat + getX s b.toNat) s
def doSub (d a b : BitVec 5) (s : State) : State := putX 1 d (getX s a.toNat - getX s b.toNat) s
def doAnd (d a b : BitVec 5) (s : State) : State := putX 1 d (getX s a.toNat &&& getX s b.toNat) s
def doOr (d a b : BitVec 5) (s : State) : State := putX 1 d (getX s a.toNat ||| getX s b.toNat) s
def doXor (d a b : BitVec 5) (s : State) : State := putX 1 d (getX s a.toNat ^^^ getX s b.toNat) s
def doSll (d a b : BitVec 5) (s : State) : State := putX 1 d (getX s a.toNat <<< ((getX s b.toNat).toNat % 64)) s
def doSrl (d a b : BitVec 5) (s : State) : State := putX 1 d (getX s a.toNat >>> ((getX s b.toNat).toNat % 64)) s
def doSra (d a b : BitVec 5) (s : State) : State :=
  putX 1 d ((getX s a.toNat).sshiftRight ((getX s b.toNat).toNat % 64)) s
def doSlt (d a b : BitVec 5) (s : State) : State := putX 1 d (one ((getX s a.toNat).slt (getX s b.toNat))) s
def doSltu (d a b : BitVec 5) (s : State) : State := putX 1 d (one ((getX s a.toNat).ult (getX s b.toNat))) s
def doMul (d a b : BitVec 5) (s : State) : State := putX 3 d (getX s a.toNat * getX s b.toNat) s
def doMulh (d a b : BitVec 5) (s : State) : State := putX 3 d (mulHigh (getX s a.toNat) (getX s b.toNat)) s
def doMulhu (d a b : BitVec 5) (s : State) : State := putX 3 d (mulHighU (getX s a.toNat) (getX s b.toNat)) s
def doDiv (d a b : BitVec 5) (s : State) : State :=
  putLong .divider 20 (.setX d.toNat (divSigned (getX s a.toNat) (getX s b.toNat))) s
def doDivu (d a b : BitVec 5) (s : State) : State :=
  putLong .divider 20 (.setX d.toNat (divUnsigned (getX s a.toNat) (getX s b.toNat))) s
def doRem (d a b : BitVec 5) (s : State) : State :=
  putLong .divider 20 (.setX d.toNat (remSigned (getX s a.toNat) (getX s b.toNat))) s
def doRemu (d a b : BitVec 5) (s : State) : State :=
  putLong .divider 20 (.setX d.toNat (remUnsigned (getX s a.toNat) (getX s b.toNat))) s
def doMovxf (d a : BitVec 5) (s : State) : State := putF 1 d (getX s a.toNat) s
def doMovfx (d a : BitVec 5) (s : State) : State := putX 1 d (getF s a.toNat) s
def doFadd (d a b : BitVec 5) (fn : BitVec 9) (s : State) : State :=
  putF 4 d (fpAdd (fpFmt fn) (getF s a.toNat) (getF s b.toNat)) s
def doFsub (d a b : BitVec 5) (fn : BitVec 9) (s : State) : State :=
  putF 4 d (fpSub (fpFmt fn) (getF s a.toNat) (getF s b.toNat)) s
def doFmul (d a b : BitVec 5) (fn : BitVec 9) (s : State) : State :=
  putF 4 d (fpMul (fpFmt fn) (getF s a.toNat) (getF s b.toNat)) s
def doFma (d a b : BitVec 5) (fn : BitVec 9) (s : State) : State :=
  putF 4 d (fpFma (fpFmt fn) (getF s a.toNat) (getF s b.toNat) (getF s d.toNat)) s
def doFdiv (d a b : BitVec 5) (fn : BitVec 9) (s : State) : State :=
  putLong .fpDivider 16 (.setF d.toNat (fpDiv (fpFmt fn) (getF s a.toNat) (getF s b.toNat))) s
def doFsqrt (d a : BitVec 5) (fn : BitVec 9) (s : State) : State :=
  putLong .fpDivider 16 (.setF d.toNat (fpSqrt (fpFmt fn) (getF s a.toNat))) s
def doFmin (d a b : BitVec 5) (fn : BitVec 9) (s : State) : State :=
  putF 4 d (fpMinMax false (fpFmt fn) (getF s a.toNat) (getF s b.toNat)) s
def doFmax (d a b : BitVec 5) (fn : BitVec 9) (s : State) : State :=
  putF 4 d (fpMinMax true (fpFmt fn) (getF s a.toNat) (getF s b.toNat)) s
def doFeq (d a b : BitVec 5) (fn : BitVec 9) (s : State) : State :=
  putX 4 d (fpEq (fpFmt fn) (getF s a.toNat) (getF s b.toNat)) s
def doFlt (d a b : BitVec 5) (fn : BitVec 9) (s : State) : State :=
  putX 4 d (fpLt (fpFmt fn) (getF s a.toNat) (getF s b.toNat)) s
def doFle (d a b : BitVec 5) (fn : BitVec 9) (s : State) : State :=
  putX 4 d (fpLe (fpFmt fn) (getF s a.toNat) (getF s b.toNat)) s
def doFcvt (d a : BitVec 5) (fn : BitVec 9) (s : State) : State :=
  if cvtToX fn then putX 4 d (fpCvt fn (getX s a.toNat) (getF s a.toNat)) s
  else putF 4 d (fpCvt fn (getX s a.toNat) (getF s a.toNat)) s

/-- FCVT's reserved conversions (04 R104). -/
def condFcvt (fn : BitVec 9) : Cond := firstCond [(decide (field fn 3 1 ≥ 6), 0xB, 1)]

/-! ### Short-vector arithmetic (04 Table 4-3) -/

/-- Write a whole vector at issue + L: Q form lands both halves in one clk (04 R101). -/
def putV (l : Nat) (q : Bool) (d : BitVec 5) (e : Nat) (els : List Nat) (s : State) : State :=
  landIn s l s.cnt.op []
    (.setVec d.toNat 64
      ((0, vPack e els % 2 ^ 64) :: (if q then [(1, vPack e els / 2 ^ 64 % 2 ^ 64)] else [])))

/-- An operation on corresponding elements of VA and VB. -/
def doV2 (o : SvOps) (f : Nat → Nat → Nat) (s : State) : State :=
  let e := esBits o.es
  putV 3 o.qf o.vd e ((List.range (vCount o.qf e)).map fun i =>
    f (vElem (getV s o.qf o.va.toNat) e i) (vElem (getV s o.qf o.vb.toNat) e i)) s

/-- An operation on corresponding elements of VA, VB and VC. -/
def doV3 (o : SvOps) (f : Nat → Nat → Nat → Nat) (s : State) : State :=
  let e := esBits o.es
  putV 3 o.qf o.vd e ((List.range (vCount o.qf e)).map fun i =>
    f (vElem (getV s o.qf o.va.toNat) e i) (vElem (getV s o.qf o.vb.toNat) e i) (vElem (getV s o.qf o.vc.toNat) e i)) s

/-- FN[1]: elements are unsigned (04 R109). -/
def vUns (o : SvOps) : Bool := bit o.fn 1

def doVadd (o : SvOps) : State → State :=
  let e := esBits o.es
  doV2 o fun a b => narrow e (bit o.fn 0) (vUns o) (elemInt e (vUns o) a + elemInt e (vUns o) b)
def doVsub (o : SvOps) : State → State :=
  let e := esBits o.es
  doV2 o fun a b => narrow e (bit o.fn 0) (vUns o) (elemInt e (vUns o) a - elemInt e (vUns o) b)
def doVand (o : SvOps) : State → State := doV2 o fun a b => a &&& b
def doVor (o : SvOps) : State → State := doV2 o fun a b => a ||| b
def doVxor (o : SvOps) : State → State := doV2 o fun a b => a ^^^ b
def doVshl (o : SvOps) : State → State := let e := esBits o.es; doV2 o fun a b => a * 2 ^ (b % e) % 2 ^ e
def doVshr (o : SvOps) : State → State :=
  let e := esBits o.es
  doV2 o fun a b => if vUns o then a / 2 ^ (b % e) else sraNat e a (b % e)
def doVmin (o : SvOps) : State → State :=
  let e := esBits o.es
  doV2 o fun a b => if elemInt e (vUns o) a ≤ elemInt e (vUns o) b then a else b
def doVmax (o : SvOps) : State → State :=
  let e := esBits o.es
  doV2 o fun a b => if elemInt e (vUns o) a ≤ elemInt e (vUns o) b then b else a
def doVceq (o : SvOps) : State → State := doV2 o fun a b => maskOf (esBits o.es) (decide (a = b))
def doVcgt (o : SvOps) : State → State :=
  let e := esBits o.es
  doV2 o fun a b => maskOf e (decide (elemInt e (vUns o) b < elemInt e (vUns o) a))
def doVsel (o : SvOps) : State → State :=
  doV3 o fun a b c => (a &&& c) ||| (b &&& (c ^^^ (2 ^ esBits o.es - 1)))

/-- The value of an FP element and the pattern of a result in its format. -/
def vf (o : SvOps) (x : Nat) : FVal := fDecode (vFmt o.es o.fn) x
def vfOut (o : SvOps) (v : FVal) : Nat := fEncode (vFmt o.es o.fn) v

def doVfadd (o : SvOps) : State → State := doV2 o fun a b => vfOut o (fvAdd (vf o a) (vf o b))
def doVfsub (o : SvOps) : State → State := doV2 o fun a b => vfOut o (fvAdd (vf o a) (fvNeg (vf o b)))
def doVfmul (o : SvOps) : State → State := doV2 o fun a b => vfOut o (fvMul (vf o a) (vf o b))
def doVfma (o : SvOps) : State → State := doV3 o fun a b c => vfOut o (fvAdd (fvMul (vf o a) (vf o b)) (vf o c))
def doVfmin (o : SvOps) : State → State := doV2 o fun a b => vfOut o (fvMinMax false (vf o a) (vf o b))
def doVfmax (o : SvOps) : State → State := doV2 o fun a b => vfOut o (fvMinMax true (vf o a) (vf o b))
def doVfceq (o : SvOps) : State → State :=
  doV2 o fun a b => maskOf (esBits o.es) (fvCompare (vf o a) (vf o b) == some .eq)
def doVfclt (o : SvOps) : State → State :=
  doV2 o fun a b => maskOf (esBits o.es) (fvCompare (vf o a) (vf o b) == some .lt)
def doVwmul (o : SvOps) (s : State) : State :=
  let e := esBits o.es
  putV 4 o.qf o.vd (4 * e)
    (vwmulElems e (vCount o.qf e) o.fn (getV s o.qf o.va.toNat) (getV s o.qf o.vb.toNat)) s
def doVdot (o : SvOps) (s : State) : State :=
  let e := esBits o.es
  putV 4 o.qf o.vd (4 * e)
    (vdotElems e (vCount o.qf e) o.fn (getV s o.qf o.va.toNat) (getV s o.qf o.vb.toNat) (getV s o.qf o.vc.toNat)) s
def doVdup (o : SvOps) (s : State) : State :=
  let e := esBits o.es
  putV 3 o.qf o.vd e (List.replicate (vCount o.qf e) ((getX s o.va.toNat).toNat % 2 ^ e)) s

/-- Conditions of short-vector operations: an odd Q register (01h, 06h), an element size that is not listed (0Bh, 01h),
the reserved signedness (04 R108, R111; 02 R37). Only the fields that the operation reads or writes are judged (DEDUCED, log entry
101). -/
def condSv (qf : Bool) (es : BitVec 3) (rs : List (BitVec 5)) (lo hi : Nat) (badFn : Bool) : Cond :=
  firstCond [(!(vRegsOk qf rs), 1, 6), (decide (es.toNat < lo) || decide (hi < es.toNat) || badFn, 0xB, 1)]

def condV2 (o : SvOps) : Cond := condSv o.qf o.es [o.vd, o.va, o.vb] 0 3 false
def condV3 (o : SvOps) : Cond := condSv o.qf o.es [o.vd, o.va, o.vb, o.vc] 0 3 false
def condVf2 (o : SvOps) : Cond := condSv o.qf o.es [o.vd, o.va, o.vb] 1 3 false
def condVf3 (o : SvOps) : Cond := condSv o.qf o.es [o.vd, o.va, o.vb, o.vc] 1 3 false
def condVwmul (o : SvOps) : Cond := condSv o.qf o.es [o.vd, o.va, o.vb] 0 1 (decide (field o.fn 3 2 = 3))
def condVdot (o : SvOps) : Cond := condSv o.qf o.es [o.vd, o.va, o.vb, o.vc] 0 1 (decide (field o.fn 3 2 = 3))
def condVdup (o : SvOps) : Cond := condSv o.qf o.es [o.vd] 0 3 false
def condVmem (o : SvMem) : Cond := condSv o.qf o.es [o.vd] 0 3 false

/-! ### Scalar and short-vector memory access (04 R105 to R107, R113) -/

/-- What an access's opcode and operand syllable say: store or load, element count and size in bytes, the address step
of one element, whether one element fills the vector (VLDR), the data register. -/
structure AccShape where
  store : Bool
  vec : Bool
  fp : Bool
  n : Nat
  size : Nat
  step : Int
  dup : Bool
  d : Nat
  signExt : Bool
deriving DecidableEq, Repr

/-- The shape of an access, or none if the opcode names no access operation of the slot (03 R84). -/
def accShape (a : Access) : Option AccShape :=
  let maj := field a.opcode 13 8
  let min := field a.opcode 7 0
  let d := field a.p1 13 9
  if a.slot = 0 then
    let size := 2 ^ field a.p1 2 1
    let mk := fun (st fp : Bool) => some ⟨st, false, fp, 1, size, 0, false, d, bit a.p1 3⟩
    if maj = 2 ∧ min < 2 then mk false (decide (min = 1))
    else if maj = 3 ∧ min < 2 then mk true (decide (min = 1))
    else if maj = 5 ∧ min < 4 then mk (decide (2 ≤ min)) (decide (min % 2 = 1))
    else none
  else if a.slot = 1 ∧ maj = 0x10 ∧ min < 5 then
    let e := 8 * 2 ^ field a.p1 2 0
    let q := bit a.p1 3
    let n := vCount q e
    let stride := signedOf 14 a.imm1.toNat
    some ⟨decide (min = 1) || decide (min = 3), true, true, if min = 4 then 1 else n, e / 8,
      if min = 2 ∨ min = 3 then stride else ((e / 8 : Nat) : Int), decide (min = 4), d, false⟩
  else none

/-- The address of element i. -/
def elemAddr (a : Access) (sh : AccShape) (i : Nat) : W64 := a.ea + BitVec.ofInt 64 (sh.step * i)

/-- The replay words of an access (03 R79), for the first element it has still to run (DEDUCED, log entry 88). -/
def replayWords (a : Access) (first : Nat) : W64 × W64 × W64 × W64 :=
  let sv := decide (a.slot = 1)
  (BitVec.ofNat 64 (a.ea.toNat % (if a.level = 3 then 2 ^ 48 else 2 ^ 52)),
   BitVec.ofNat 64 (a.opcode.toNat * 2 ^ 50 + a.p1.toNat * 2 ^ 36 + a.imm1.toNat * 2 ^ 22 + first * 2 ^ 12
     + (if sv then b2n (bit a.p1 3) * 2 ^ 11 + field a.p1 2 0 * 2 ^ 8 else 0) + field a.p1 13 9),
   BitVec.ofNat 64 (a.data.toNat % 2 ^ 64), BitVec.ofNat 64 (a.data.toNat / 2 ^ 64))

/-- The access that a replay record describes (03 R84). Size, QF, ES and register are those of the copy of P1; RPL1's own copies of
them are not read (DEDUCED, log entry 102). -/
def accessOfReplay (rs : BitVec 3) (w0 w1 w2 w3 : W64) (level : BitVec 2) (bundle : IAddr) (op base : Nat) : Access :=
  { slot := rs, opcode := BitVec.ofNat 14 (field w1 63 50), p1 := BitVec.ofNat 14 (field w1 49 36),
    imm1 := BitVec.ofNat 14 (field w1 35 22), ea := BitVec.ofNat 64 (field w0 51 0),
    data := BitVec.ofNat 128 (w2.toNat + w3.toNat * 2 ^ 64), first := field w1 15 12, level := level, bundle := bundle,
    op := op, base := base }

/-- The deferred fault of an access at an element. -/
def accFault (a : Access) (i code sub : Nat) (faddr : W64) : Deferred :=
  { code := BitVec.ofNat 8 code, sub := BitVec.ofNat 8 sub, faddr := faddr, slot := a.slot, slice := 0, level := a.level,
    bundle := a.bundle, op := a.op, replay := some (replayWords a i), clk := 0 }

/-- Hold a deferred fault until a boundary takes it (03 R76). -/
def pushDeferred (s : State) (d : Deferred) : State := s.onSeq fun q => { q with deferred := q.deferred ++ [{ d with clk := s.cnt.clk }] }

/-- Where one element lies, checked in the order of 03 R76: alignment, translation, bus error (04 R106, 10 R243, R244). -/
def locate (s : State) (a : Access) (sh : AccShape) (i : Nat) : State × Addr :=
  let va := elemAddr a sh i
  if va.toNat % sh.size ≠ 0 then (s, .fail 2 3 va)
  else
    match translate s 0 a.level va sh.store with
    | (s, .fail c u f) => (s, .fail c u f)
    | (s, .ok pa) =>
      match regionOf pa with
      | .scratch _ off =>
        if 0xFF0000 ≤ off ∧ a.level ≠ 3 then (s, .fail 3 1 (BitVec.ofNat 64 pa))
        else if linkSub s 0 pa ≠ 0 then (crossDie s 0 pa, .fail 3 (linkSub s 0 pa) (BitVec.ofNat 64 pa))
        else (crossDie s 0 pa, .ok pa)
      | _ => (s, .fail 3 1 (BitVec.ofNat 64 pa))

/-- The addresses of elements i and above up to the first that fails; a failure is held as a deferred fault. -/
def locateAll (s : State) (a : Access) (sh : AccShape) (is : List Nat) : State × List Nat :=
  match is with
  | [] => (s, [])
  | i :: r =>
    match locate s a sh i with
    | (s, .fail c u f) => (pushDeferred s (accFault a i c u f), [])
    | (s, .ok pa) =>
      let (s, l) := locateAll s a sh r
      (s, pa :: l)

/-- Byte b of the store data's element i. -/
def storeByte (a : Access) (sh : AccShape) (i b : Nat) : Byte :=
  BitVec.ofNat 8 (a.data.toNat / 2 ^ (8 * (sh.size * i + b)))

/-- The detection of an access, 3 clk after its base (03 R76): loads go on to their read clk, stores to their landing. -/
def accessDetect (s : State) (a : Access) : State :=
  match accShape a with
  | none => s
  | some sh =>
    let (s, pas) := locateAll s a sh ((List.range sh.n).drop a.first)
    if sh.store then
      let bytes := (pas.zipIdx).flatMap fun p =>
        (List.range sh.size).map fun b => (p.1 + b, storeByte a sh (a.first + p.2) b)
      schedule s (a.base + 10) 0 a.op [] (.store bytes a.level)
    else schedule s (a.base + 8) 1 a.op [] (.read a pas)

/-- Whether one of the port's own earlier stores still in flight replaces a whole code word (04 R107, 13 R479). -/
def portWhole (s : State) (op w : Nat) : Bool :=
  s.work.any fun k => match k.act with
    | .store bytes _ => decide (k.op < op) && (List.range 16).all fun i => bytes.any fun b => decide (b.1 = 16 * w + i)
    | _ => false

/-- The bytes that the port's own earlier stores still in flight give an address (04 R107). -/
def portByte (s : State) (op addr : Nat) : Byte :=
  s.work.foldl (fun v w =>
    match w.act with
    | .store bytes _ =>
      if w.op < op then
        match bytes.reverse.find? (fun b => decide (b.1 = addr)) with
        | some b => b.2
        | none => v
      else v
    | _ => v) (memGet s addr)

/-- Whether a level holds the replay record that an access has left for a fault at an element. -/
def holdsRecord (a : Access) (k : Nat) (r : LevelRegs) : Bool :=
  bit r.saved 19 && decide (field r.saved 18 16 = 1) && decide ((r.rpl0, r.rpl1, r.rpl2, r.rpl3) = replayWords a k)

/-- Poison at element i of an access that has already failed at a later element k: element i is now the lowest that faults (04 R113). A
fault that no boundary has taken becomes that of element i; of one that has been taken the record's progress falls to i, so that the
replay runs, and faults, from there (03 R76; DEDUCED, log entry 103). -/
def lowerFault (s : State) (a : Access) (i k : Nat) (d : Deferred) : State :=
  if s.seq.deferred.any fun x => decide (x.op = a.op) then
    s.onSeq fun q => { q with deferred := q.deferred.map fun x => if x.op = a.op then { d with clk := s.cnt.clk } else x }
  else
    let lower := fun r : LevelRegs => if holdsRecord a k r then { r with rpl1 := (replayWords a i).2.1 } else r
    s.onCtl fun c => { c with sx := lower c.sx, mx := lower c.mx }

/-- Read the located elements in order, up to the first that draws on poison (04 R113, 13 R342). `told` is the element at which the
access has failed before, if it has. -/
def readElems (s : State) (a : Access) (sh : AccShape) (told : Option Nat) (i : Nat) (pas : List Nat) : State × List Nat :=
  match pas with
  | [] => (s, [])
  | pa :: r =>
    match decodeWords s ((wordsOf pa sh.size).filter fun w => !(portWhole s a.op w)) 0 with
    | (s, some _) =>
      let d := accFault a i 7 2 (BitVec.ofNat 64 pa)
      (match told with
        | some k => lowerFault s a i k d
        | none => pushDeferred s d, [])
    | (s, none) =>
      let v := ofLe ((List.range sh.size).map fun b => portByte s a.op (pa + b))
      let (s, l) := readElems s a sh told (i + 1) r
      (s, v :: l)

/-- The read of a load in clk base + 8, in which poison is detected; its result lands two clk later (04 R107, 03 R76) (DEDUCED, log entry
103). -/
def accessRead (s : State) (a : Access) (pas : List Nat) : State :=
  match accShape a with
  | none => s
  | some sh =>
    let (s, vals) := readElems s a sh (if a.first + pas.length < sh.n then some (a.first + pas.length) else none) a.first pas
    match vals with
    | [] => s
    | v :: _ =>
      let act : Micro :=
        if !sh.vec then
          let x : W64 := if sh.signExt && !sh.fp then BitVec.ofInt 64 (signedOf (8 * sh.size) v) else BitVec.ofNat 64 v
          if sh.fp then .setF sh.d x else .setX sh.d x
        else
          let e := 8 * sh.size
          let q := bit a.p1 3
          if sh.dup then .setVec sh.d e ((List.range (vCount q e)).map fun i => (i, v))
          else .setVec sh.d e (vals.zipIdx.map fun p => (a.first + p.2, p.1))
      schedule s (a.base + 10) 0 a.op [] act

/-- Landing of vector elements of `bits` bits from register d on: element i lies in F(d + i·bits/64) (04 R100). -/
def landVec (s : State) (d bits : Nat) (els : List (Nat × Nat)) : State :=
  els.foldl (fun s x =>
    let r := d + x.1 * bits / 64
    setF s r (BitVec.ofNat 64 (vReplace (getF s r).toNat bits (64 / bits) [(x.1 % (64 / bits), x.2)]))) s

/-- Issue an access: its detection comes 3 clk later. -/
def issueAccess (a : Access) (s : State) : State := schedule s (a.base + 3) 1 a.op [] (.access a)

/-- The first immediate syllable of an assembled immediate. -/
def firstSyllable (imm : Imm) : BitVec 14 :=
  BitVec.ofNat 14 (imm.bits.toNat % 2 ^ (if imm.width = .w12 ∨ imm.width = .w24 ∨ imm.width = .w36 then 12 else 14))

/-- A scalar load or store as it is issued: minor opcode within MAJ 02h, 03h or 05h, operands, bundle address. -/
def scAccess (isStore fp : Bool) (d a : BitVec 5) (q : BitVec 4) (imm : Imm) (s : State) : Access :=
  let long := decide (imm.width ≠ .w14) && decide (imm.width ≠ .w12)
  let maj := if long then 5 else if isStore then 3 else 2
  let min := (if long && isStore then 2 else 0) + b2n fp
  { slot := 0, opcode := BitVec.ofNat 14 (maj * 256 + min), p1 := BitVec.ofNat 14 (d.toNat * 512 + a.toNat * 16 + q.toNat),
    imm1 := firstSyllable imm, ea := getX s a.toNat + scImm q imm,
    data := if isStore then (if fp then (getF s d.toNat).setWidth 128 else (getX s d.toNat).setWidth 128) else 0,
    first := 0, level := s.seq.pl, bundle := s.seq.pc, op := s.cnt.op, base := s.cnt.clk }

def doLdx (d a : BitVec 5) (q : BitVec 4) (imm : Imm) (s : State) : State := issueAccess (scAccess false false d a q imm s) s
def doLdf (d a : BitVec 5) (q : BitVec 4) (imm : Imm) (s : State) : State := issueAccess (scAccess false true d a q imm s) s
def doStx (d a : BitVec 5) (q : BitVec 4) (imm : Imm) (s : State) : State := issueAccess (scAccess true false d a q imm s) s
def doStf (d a : BitVec 5) (q : BitVec 4) (imm : Imm) (s : State) : State := issueAccess (scAccess true true d a q imm s) s

/-- LDF and STF take 4 and 8 bytes only (04 R105). -/
def condFpSize (q : BitVec 4) : Cond := firstCond [(decide (field q 2 1 < 2), 0xB, 1)]

/-- A short-vector access as it is issued. -/
def svAccess (min : Nat) (o : SvMem) (s : State) : Access :=
  let off : W64 := BitVec.ofInt 64 (signedOf 14 o.imm.toNat)
  { slot := 1, opcode := BitVec.ofNat 14 (0x1000 + min),
    p1 := BitVec.ofNat 14 (o.vd.toNat * 512 + o.xa.toNat * 16 + b2n o.qf * 8 + o.es.toNat), imm1 := o.imm,
    ea := if min = 2 ∨ min = 3 then getX s o.xa.toNat else getX s o.xa.toNat + off,
    data := if min = 1 ∨ min = 3 then BitVec.ofNat 128 (getV s o.qf o.vd.toNat) else 0,
    first := 0, level := s.seq.pl, bundle := s.seq.pc, op := s.cnt.op, base := s.cnt.clk }

def doVld (o : SvMem) (s : State) : State := issueAccess (svAccess 0 o s) s
def doVst (o : SvMem) (s : State) : State := issueAccess (svAccess 1 o s) s
def doVlds (o : SvMem) (s : State) : State := issueAccess (svAccess 2 o s) s
def doVsts (o : SvMem) (s : State) : State := issueAccess (svAccess 3 o s) s
def doVldr (o : SvMem) (s : State) : State := issueAccess (svAccess 4 o s) s

end Sys2Proof.Machine
end

