-- ==== Sys2Proof/Machine/RegFile.lean ====
section
/-! DEFINITION. Register files guarded by the code: tile fragments and block scales (bytes), accumulator banks and L
registers (FP32 elements), with a mark for each code word (05 R116, R135; 08 R185; 13 R479). -/

namespace Sys2Proof.Machine

/-- n bits of a byte store from a bit position. -/
def bitsGet (m : Store Byte) (pos w : Nat) : Nat :=
  ofLe ((List.range ((pos % 8 + w + 7) / 8)).map fun i => storeGet 0 m (pos / 8 + i)) / 2 ^ (pos % 8) % 2 ^ w

/-- Write n bits at a bit position, byte by byte. -/
def bitsSet (m : Store Byte) (pos w v : Nat) : Store Byte :=
  let n := (pos % 8 + w + 7) / 8
  let old := ofLe ((List.range n).map fun i => storeGet 0 m (pos / 8 + i))
  let low := old % 2 ^ (pos % 8)
  let high := old / 2 ^ (pos % 8 + w)
  storeSetMany 0 m (pos / 8) (leBytes n (low + v % 2 ^ w * 2 ^ (pos % 8) + high * 2 ^ (pos % 8 + w)))

/-- The code words (of 128 bits) that a bit span touches. -/
def codeWords (pos w : Nat) : List Nat :=
  (List.range ((pos + w - 1) / 128 - pos / 128 + 1)).map fun i => pos / 128 + i

/-- Whether any word of a bit span reads as poison. -/
def bitsBad (marks : Store Mark) (pos w : Nat) : Bool :=
  (codeWords pos w).any fun k => badMark (storeGet .good marks k)

/-- Elements written into a byte store with marks: a whole word is replaced, part of a word is merged, a merge into poison
is lost, and a word that any poisoned element reaches becomes poison (13 R479). The count is of lost merges. -/
def putEls (m : Store Byte) (marks : Store Mark) (els : List El) : Store Byte × Store Mark × Nat :=
  let ws := (els.flatMap fun e => codeWords e.pos e.w).eraseDups
  ws.foldl (fun st w =>
    let mine := els.filter fun e => (codeWords e.pos e.w).contains w
    let whole := decide (128 ≤ (mine.map fun e => min (e.pos + e.w) (128 * w + 128) - max e.pos (128 * w)).sum)
    let isBad := badMark (storeGet .good st.2.1 w)
    if isBad && !whole then (st.1, st.2.1, st.2.2 + 1)
    else if mine.any (fun e => e.bad) then
      (storeSetMany 0 st.1 (16 * w) (List.replicate 16 0), storeSet .good st.2.1 w .poison, st.2.2)
    else (mine.foldl (fun m e => bitsSet m e.pos e.w e.v) st.1, storeSet .good st.2.1 w .good, st.2.2)) (m, marks, 0)

/-- The same for a store of FP32 elements, four to a code word. -/
def putElems (m : Store W32) (marks : Store Mark) (vals : List (Nat × W32 × Bool)) : Store W32 × Store Mark × Nat :=
  let ws := (vals.map fun v => v.1 / 4).eraseDups
  ws.foldl (fun st w =>
    let mine := vals.filter fun v => decide (v.1 / 4 = w)
    let whole := (List.range 4).all fun i => mine.any fun v => decide (v.1 = 4 * w + i)
    let isBad := badMark (storeGet .good st.2.1 w)
    if isBad && !whole then (st.1, st.2.1, st.2.2 + 1)
    else if mine.any (fun v => v.2.2) then
      (storeSetMany 0 st.1 (4 * w) (List.replicate 4 0), storeSet .good st.2.1 w .poison, st.2.2)
    else (mine.foldl (fun m v => storeSet 0 m v.1 v.2.1) st.1, storeSet .good st.2.1 w .good, st.2.2)) (m, marks, 0)

/-- Count partial writes that poison swallowed (13 R479). -/
def countLost (s : State) (n : Nat) : State := if n = 0 then s else objAdd s 0x7410 13 n

/-! ### Decoding the words of a register file (13 R342 to R344, R349) -/

/-- An uncorrectable word of a register file, table or slot, found by its reader: a record of its unit, which becomes a suspect; in reset
mode the device is reset. Such a word has no device physical address, and so no place on the poison list. -/
def regPoison (s : State) (ucls unit : Nat) (synd : BitVec 16) : State :=
  let s := objAdd s 0x7410 2 1
  if objGet s 0x4000 1 = 1 then resetContainment s
  else
    addSuspect (fileToll s { tollOf 3 2 0 with
      ucls := BitVec.ofNat 8 ucls, unit := BitVec.ofNat 16 unit, synd := synd, flags := 1 }) ucls unit

/-- Word w of a register file as a reader meets it; `file` numbers the file, so that words of one unit are told apart (13 R352): a correction is counted, reported and written back in the next free clk of the
file's write port; an uncorrectable word is reported and reads as poison from then on. -/
def meetWord (mark : Mark) (put : Bool → State → State) (ucls unit file w : Nat) (s : State) : State :=
  match mark with
  | .good | .poison => s
  | .corrected sym synd => reportCorrection (put false s) ucls unit 0 (BitVec.ofNat 64 (file * 2 ^ 32 + w)) 0 1 sym synd
  | .uncorrectable synd => regPoison (put true s) ucls unit synd

/-- The mark that a decoded word keeps. -/
def metMark (bad : Bool) : Mark := if bad then .poison else .good

/-- A word of the fragments is read. -/
def meetFrag (s : State) (w : Nat) : State :=
  meetWord (storeGet .good s.tiles.fragMark w) (fun b s => s.onTiles fun t => { t with
    frag := if b then storeSetMany 0 t.frag (16 * w) (List.replicate 16 0) else t.frag,
    fragMark := storeSet .good t.fragMark w (metMark b) }) 1 (physSlice s (w / 16384)) 1 w s

/-- A word of the block scales is read. -/
def meetScale (s : State) (w : Nat) : State :=
  meetWord (storeGet .good s.tiles.bscaleMark w) (fun b s => s.onTiles fun t => { t with
    bscale := if b then storeSetMany 0 t.bscale (16 * w) (List.replicate 16 0) else t.bscale,
    bscaleMark := storeSet .good t.bscaleMark w (metMark b) }) 1 (physSlice s (w / 1024)) 2 w s

/-- A word of the banks is read. -/
def meetBank (s : State) (w : Nat) : State :=
  meetWord (storeGet .good s.tiles.bankMark w) (fun b s => s.onTiles fun t => { t with
    bank := if b then storeSetMany 0 t.bank (4 * w) (List.replicate 4 0) else t.bank,
    bankMark := storeSet .good t.bankMark w (metMark b) }) 1 (physSlice s (w / 32768)) 3 w s

/-- A word of the L registers is read. -/
def meetLane (s : State) (w : Nat) : State :=
  meetWord (storeGet .good s.elem.lMark w) (fun b s => s.onElem fun e => { e with
    l := if b then storeSetMany 0 e.l (4 * w) (List.replicate 4 0) else e.l,
    lMark := storeSet .good e.lMark w (metMark b) }) 1 (physSlice s (w / 1024)) 4 w s

/-- A word of the function tables is read. -/
def meetTable (s : State) (w : Nat) : State :=
  let entry := w / 52
  meetWord (storeGet .good s.elem.tableMark w) (fun b s => s.onElem fun e => { e with
    table := if b then storeSetMany 0 e.table (16 * w) (List.replicate 16 0) else e.table,
    tableMark := storeSet .good e.tableMark w (metMark b) }) 0x11 (physSlice s (entry / 64) * 64 + entry % 64) 5 w s

/-- The words of a file that are read, where any of its words is marked. -/
def meetAll (marks : Store Mark) (meet : State → Nat → State) (s : State) (ws : List Nat) : State :=
  if marks.isEmpty then s else ws.eraseDups.foldl meet s

/-- The words that a write of elements covers in part only. -/
def partWords (els : List El) : List Nat :=
  ((els.flatMap fun e => codeWords e.pos e.w).eraseDups).filter fun w =>
    let mine := els.filter fun e => (codeWords e.pos e.w).contains w
    decide ((mine.map fun e => min (e.pos + e.w) (128 * w + 128) - max e.pos (128 * w)).sum < 128)

/-- The same for FP32 elements. -/
def partQuads (vals : List (Nat × W32 × Bool)) : List Nat :=
  ((vals.map fun v => v.1 / 4).eraseDups).filter fun w =>
    (List.range 4).any fun i => vals.all fun v => decide (v.1 ≠ 4 * w + i)

/-- Write elements into the fragments; a word written in part is decoded first (13 R479). -/
def putFrag (s : State) (els : List El) : State :=
  let s := meetAll s.tiles.fragMark meetFrag s (partWords els)
  let r := putEls s.tiles.frag s.tiles.fragMark els
  countLost (s.onTiles fun t => { t with frag := r.1, fragMark := r.2.1 }) r.2.2

/-- Write block scales. -/
def putScales (s : State) (els : List El) : State :=
  let s := meetAll s.tiles.bscaleMark meetScale s (partWords els)
  let r := putEls s.tiles.bscale s.tiles.bscaleMark els
  countLost (s.onTiles fun t => { t with bscale := r.1, bscaleMark := r.2.1 }) r.2.2

/-- Write the shadow weight registers, by cell position (DEDUCED, log entry 34). -/
def putShadow (s : State) (els : List El) : State :=
  s.onTiles fun t => { t with
    shadowVals := els.foldl (fun m e => storeSet 0 m e.pos e.v) t.shadowVals,
    shadowBad := els.foldl (fun m e => storeSet false m e.pos e.bad) t.shadowBad }

/-- The index of a bank element (05 R135). -/
def bankIdx (slice a i : Nat) : Nat := (slice * 8 + a) * 16384 + i

def bankGet (s : State) (idx : Nat) : W32 := storeGet 0 s.tiles.bank idx
def bankBad (s : State) (idx : Nat) : Bool := badMark (storeGet .good s.tiles.bankMark (idx / 4))

/-- Write bank elements; accumulating writes add as the caller has computed, and a word written in part is decoded first (13 R479). -/
def putBank (s : State) (vals : List (Nat × W32 × Bool)) : State :=
  let s := meetAll s.tiles.bankMark meetBank s (partQuads vals)
  let r := putElems s.tiles.bank s.tiles.bankMark vals
  countLost (s.onTiles fun t => { t with bank := r.1, bankMark := r.2.1 }) r.2.2

/-- The index of a lane of an L register (08 R185). -/
def laneIdx (slice r lane : Nat) : Nat := (slice * 16 + r) * 256 + lane

def laneGet (s : State) (slice r lane : Nat) : W32 := storeGet 0 s.elem.l (laneIdx slice r lane)
def laneBad (s : State) (slice r lane : Nat) : Bool := badMark (storeGet .good s.elem.lMark (laneIdx slice r lane / 4))

/-- Write lanes of L registers. -/
def putLanes (s : State) (vals : List (Nat × W32 × Bool)) : State :=
  let s := meetAll s.elem.lMark meetLane s (partQuads vals)
  let r := putElems s.elem.l s.elem.lMark vals
  countLost (s.onElem fun e => { e with l := r.1, lMark := r.2.1 }) r.2.2

/-- Raise the one deferred fault of a slice-level operation: the earliest detected; of those of one clk the lowest
slice's (03 R481). -/
def pushOnce (s : State) (d : Deferred) : State :=
  if s.tiles.raised.contains d.op then
    s.onSeq fun q => { q with deferred := q.deferred.map fun x =>
      if x.op = d.op ∧ x.clk = s.cnt.clk ∧ d.slice < x.slice then { d with clk := x.clk } else x }
  else (pushDeferred s d).onTiles fun t => { t with raised := d.op :: t.raised }

/-- Where an offset of the local-scratch window lies in a slice's own scratch, after one translation (05 R123, 10 R243,
R244). -/
def localAddr (s : State) (level : BitVec 2) (va : W64) (write : Bool) (slice : Nat) : State × Addr :=
  match translate s 0 level va write with
  | (s, .fail c u f) => (s, .fail c u f)
  | (s, .ok pa) =>
    match regionOf pa with
    | .localScratch off =>
      if 0xFF0000 ≤ off ∧ level ≠ 3 then (s, .fail 3 1 (BitVec.ofNat 64 pa)) else (s, .ok (scratchAddr slice off))
    | _ => (s, .fail 3 1 (BitVec.ofNat 64 pa))

/-- The translation of a page that an operation has made, if it has made it; a fault is reported at the address at hand. -/
def madeXlat (s : State) (op : Nat) (va : W64) : Option Addr :=
  (s.tiles.xlat.find? fun x => decide (x.1 = op) && decide (x.2.1 = va.toNat / 2 ^ 21)).map fun x =>
    match x.2.2 with
    | .ok base => .ok (base + va.toNat % 2 ^ 21)
    | .fail c u f => .fail c u (if c = 8 then va else f)

/-- Where an operation's offset lies in a slice's own scratch: each page of its address is translated once for all of its slices and rows
(05 R123, 10 R243, R244). -/
def opAddr (s : State) (op : Nat) (level : BitVec 2) (va : W64) (write : Bool) (slice : Nat) : State × Addr :=
  let r := match madeXlat s op va with
    | some a => (s, a)
    | none =>
      let r := translate s 0 level va write
      let note : Addr := match r.2 with
        | .ok pa => .ok (pa - va.toNat % 2 ^ 21)
        | f => f
      (r.1.onTiles fun t => { t with xlat := (op, va.toNat / 2 ^ 21, note) :: t.xlat }, r.2)
  match r with
  | (s, .fail c u f) => (s, .fail c u f)
  | (s, .ok pa) =>
    match regionOf pa with
    | .localScratch off =>
      if 0xFF0000 ≤ off ∧ level ≠ 3 then (s, .fail 3 1 (BitVec.ofNat 64 pa)) else (s, .ok (scratchAddr slice off))
    | _ => (s, .fail 3 1 (BitVec.ofNat 64 pa))

/-- An operation with no read left to make forgets its translations. -/
def dropXlat (s : State) (op : Nat) : State :=
  if s.work.any fun w => decide (w.op = op) && decide (w.phase = 1) then s
  else s.onTiles fun t => { t with xlat := t.xlat.filter fun x => decide (x.1 ≠ op) }

/-- The precedence of a fault's code among several conditions of one access, row or element (03 R76). -/
def faultRank (code : Nat) : Nat := if code = 2 then 0 else if code = 8 then 1 else if code = 3 then 2 else 3

/-- Of a fault and what the rest of the span met, the fault that goes first. -/
def spanFault (f : Nat × Nat × W64) (rest : List (Nat × Nat) ⊕ (Nat × Nat × W64)) : List (Nat × Nat) ⊕ (Nat × Nat × W64) :=
  match rest with
  | .inl _ => .inr f
  | .inr g => .inr (if faultRank g.1 < faultRank f.1 then g else f)

/-- The parts of a span of bytes of the local-scratch window, cut at 2 MiB boundaries and each translated once: window
offset and length (05 R123, 08 R197). Of several faults the one that 03 R76 puts first is reported. `n` is fuel. -/
def localSpan (s : State) (level : BitVec 2) (va : W64) (len : Nat) (write : Bool) (n : Nat) :
    State × (List (Nat × Nat) ⊕ (Nat × Nat × W64)) :=
  match n with
  | 0 => (s, .inl [])
  | k + 1 =>
    if len = 0 then (s, .inl [])
    else
      let take := min len (2 ^ 21 - va.toNat % 2 ^ 21)
      let rest := fun s => localSpan s level (va + BitVec.ofNat 64 take) (len - take) write k
      match localAddr s level va write 0 with
      | (s, .fail c u f) => let r := rest s; (r.1, spanFault (c, u, f) r.2)
      | (s, .ok pa) =>
        let off := pa - scratchBase
        if (0xFF0000 < off + take ∧ level ≠ 3) ∨ 0x1000000 < off + take then
          let r := rest s
          (r.1, spanFault (3, 1, BitVec.ofNat 64 (localBase + off)) r.2)
        else
          match rest s with
          | (s, .inr f) => (s, .inr f)
          | (s, .inl l) => (s, .inl ((off, take) :: l))

/-- Read the parts of a span in a slice's scratch: the bytes, and which of them lie in a poisoned word. -/
def readSpan (s : State) (slice : Nat) (parts : List (Nat × Nat)) : State × List Byte × List Bool :=
  match parts with
  | [] => (s, [], [])
  | (off, n) :: r =>
    let a := scratchAddr slice off
    let (s, _) := decodeWords s (wordsOf a n) 0
    let bs := peekBytes s a n
    let bad := (List.range n).map fun i => badMark (markGet s ((a + i) / 16))
    let (s, bs', bad') := readSpan s slice r
    (s, bs ++ bs', bad ++ bad')

/-- All 256 lanes of an L register of a slice, each with its poison. -/
def lanesOf (s : State) (slice r : Nat) : List (W32 × Bool) :=
  (List.range 256).map fun i => (laneGet s slice r i, laneBad s slice r i)

end Sys2Proof.Machine
end

