-- ==== Sys2Proof/Machine/TileUnit.lean ====
section
/-! DEFINITION. Tile registers: configuration, geometry, conditions at issue, and the movement of rows between scratch,
fragments and shadow weights, with suspension and resume (05). -/

namespace Sys2Proof.Machine

/-! ### Configuration words (05 Table 5-1) -/

def cfgEn (c : W64) : Bool := bit c 63
def cfgRows (c : W64) : Nat := field c 62 51
def cfgCols (c : W64) : Nat := field c 50 39
def cfgFmt (c : W64) : Nat := field c 38 35
def cfgBd (c : W64) : Bool := bit c 34
def cfgRepl (c : W64) : Bool := decide (field c 33 32 = 1)
def cfgGr (c : W64) : Nat := if cfgRepl c then 1 else field c 31 24 + 1
/-- Grid columns of a tile over n slices (05 R116). -/
def cfgGc (c : W64) (n : Nat) : Nat := if cfgRepl c then 1 else n / cfgGr c
def cfgBr (c : W64) : Nat := ceilDiv (cfgRows c) (cfgGr c)
def cfgBc (c : W64) (n : Nat) : Nat := ceilDiv (cfgCols c) (cfgGc c n)
/-- The row pitch in bytes of rows of `len` elements of width w (05 R118). -/
def pitch (len w : Nat) : Nat := 64 * ceilDiv (len * w) 512
def isBlockFmt (c : Nat) : Bool := decide (10 ≤ c)

/-- The tile as it is configured for operations issued now. -/
def tileCfg (s : State) (t : Nat) : TileCfg := storeGet ⟨0, 0, 0⟩ s.tiles.cfg t

/-- The number of set bits of a group mask. -/
def maskCount (m : BitVec 160) : Nat := (members m).length

/-- Whether a tile has a valid record in any slice (05 Table 5-2, 08h). -/
def tileHasRecord (s : State) (t : Nat) : Bool :=
  s.tiles.recs.any fun r => bit r.2.w0 63 && decide (field r.2.w0 59 57 = t)

/-- Conditions of TCFG (05 Table 5-2). -/
def condTcfg (o : TeMove) (s : State) : Cond :=
  let c := getX s o.xa.toNat
  let n := maskCount (groupMask s o.gn.toNat)
  let en := cfgEn c
  let fmt := cfgFmt c
  let bc := cfgBc c n
  firstCond
    [(en && (decide (field c 23 0 ≠ 0) || bit c 33 || (cfgBd c && !(isBlockFmt fmt))
        || (cfgRepl c && decide (field c 31 24 ≠ 0))), 6, 1),
     (en && (decide (2048 < cfgRows c) || decide (2048 < cfgCols c)), 6, 2),
     (en && decide (fmt = 9), 6, 3),
     (decide (n = 0), 6, 4),
     (en && !(cfgRepl c) && decide (n % cfgGr c ≠ 0), 6, 5),
     (en && decide (32768 < cfgBr c * pitch bc (codeWidth fmt)), 6, 6),
     (en && isBlockFmt fmt && decide ((if cfgBd c then cfgBr c else bc) % 32 ≠ 0), 6, 7),
     (tileHasRecord s o.t.toNat, 6, 8)]

/-- Clear the binding of a tile in some slices (06 R144). -/
def clearBind (m : Store Nat) (t : Nat) (slices : List Nat) : Store Nat :=
  slices.foldl (fun m sl => if storeGet 0 m sl = t + 1 then storeSet 0 m sl 0 else m) m

/-- TCFG (05 R120 to R122): the word and the membership are fixed at issue and land 8 clk later; the word is the one last accepted;
bindings to the tile go. -/
def doTcfg (o : TeMove) (s : State) : State :=
  let mask := groupMask s o.gn.toNat
  let t := o.t.toNat
  let c := getX s o.xa.toNat
  let s := s.onTiles fun k => { k with
    active := clearBind k.active t (members mask), shadow := clearBind k.shadow t (members mask),
    accepted := storeSet 0 k.accepted t (setField c 2 0 o.gn.toNat) }
  landIn s 8 s.cnt.op [] (.tcfg t (if cfgEn c then c else 0) o.gn mask)

/-- The landing of a configuration. -/
def landTcfg (s : State) (t : Nat) (word : W64) (gn : BitVec 3) (mask : BitVec 160) : State :=
  s.onTiles fun k => { k with
    cfg := storeSet ⟨0, 0, 0⟩ k.cfg t (if cfgEn word then ⟨word, gn, mask⟩ else ⟨0, 0, 0⟩) }

/-! ### Conversions of the tile path (05 Table 5-5) -/

/-- Whether a movement with CV = 1 from one format to another is in Table 5-5. -/
def convPair (src dst : Nat) : Bool :=
  match codeClass src, codeClass dst with
  | .wide, .wide => true
  | .narrow, .wide => true
  | .mx, .wide => decide (src ≠ 15)
  | .wide, .mx => decide (dst ≠ 15)
  | _, _ => false

/-- A scale slot. -/
def blankSlot : Slot :=
  { st := 0, cls := 0, tf := 0, mg := 0, sl := 0, fl := 0, nf := false, vc := 0, hd := 0, e := 0, lae := 0, lv := false,
    bk := 0, ring := List.replicate 16 0, acc := 0, used := false, ns := 0, nz := 0, marks := [] }

/-! ### Slot words (07 Table 7-3) -/

/-- The word of a slot. -/
def slotWord (v : Slot) : W64 :=
  BitVec.ofNat 64 (v.st.toNat * 2 ^ 62 + v.cls.toNat * 2 ^ 60 + v.tf.toNat * 2 ^ 56 + v.mg.toNat * 2 ^ 53 + v.sl.toNat * 2 ^ 50
    + v.fl.toNat * 2 ^ 47 + b2n v.nf * 2 ^ 46 + v.vc.toNat * 2 ^ 41 + v.hd.toNat * 2 ^ 37 + v.e.toNat * 2 ^ 28
    + v.lae.toNat * 2 ^ 19 + b2n v.lv * 2 ^ 18 + v.bk.toNat * 2 ^ 15)

/-- A slot with the fields that a word gives, its ring and current step kept. -/
def slotOfWord (v : Slot) (w : W64) : Slot :=
  { v with
    st := BitVec.ofNat 2 (field w 63 62), cls := BitVec.ofNat 2 (field w 61 60), tf := BitVec.ofNat 4 (field w 59 56),
    mg := BitVec.ofNat 3 (field w 55 53), sl := BitVec.ofNat 3 (field w 52 50), fl := BitVec.ofNat 3 (field w 49 47),
    nf := bit w 46, vc := BitVec.ofNat 5 (field w 45 41), hd := BitVec.ofNat 4 (field w 40 37),
    e := BitVec.ofNat 9 (field w 36 28), lae := BitVec.ofNat 9 (field w 27 19), lv := bit w 18,
    bk := BitVec.ofNat 3 (field w 17 15) }

/-! ### The slot image (07 Table 7-7) -/

/-- The 80-byte record of a slot. -/
def slotRecord (v : Slot) : List Byte :=
  leBytes 8 (slotWord v).toNat ++ v.ring.flatMap (fun x => leBytes 4 x.toNat) ++ leBytes 4 v.acc.toNat
    ++ leBytes 4 (b2n v.used)

/-- The slot that a record spells. -/
def slotOfRecord (bs : List Byte) : Slot :=
  let v := slotOfWord blankSlot (BitVec.ofNat 64 (ofLe (bs.take 8)))
  { v with
    ring := (List.range 16).map fun i => BitVec.ofNat 32 (ofLe ((bs.drop (8 + 4 * i)).take 4)),
    acc := BitVec.ofNat 32 (ofLe ((bs.drop 72).take 4)), used := decide ((bs.getD 76 0).toNat % 2 = 1) }

/-- A 16-byte word of a record that decodes as poison reads as zero (13 R342; DEDUCED, log entry 116: the packing of a record into
words is that of its image). -/
def wordsSeen (marks : List Mark) (bs : List Byte) : List Byte :=
  (bs.zipIdx).map fun b => if badMark (marks.getD (b.2 / 16) .good) then 0 else b.1

/-- A slot as its readers see it. -/
def slotSeen (v : Slot) : Slot :=
  if v.marks.isEmpty then v
  else { slotOfRecord (wordsSeen v.marks (slotRecord v)) with ns := v.ns, nz := v.nz, marks := v.marks }

def slotGet (s : State) (k : Nat) : Slot := slotSeen (storeGet blankSlot s.slots k)
def slotSet (s : State) (k : Nat) (v : Slot) : State := { s with slots := storeSet blankSlot s.slots k v }

/-- The marks that a record keeps once its words are decoded. -/
def metMarks (marks : List Mark) : List Mark :=
  if marks.all (fun m => !(badMark m)) then [] else marks.map fun m => metMark (badMark m)

/-- The words of a record are decoded: each correction and each uncorrectable word is reported, once (13 R342 to R344). -/
def meetMarks (s : State) (marks : List Mark) (ucls unit : Nat) : State :=
  (marks.zipIdx).foldl (fun s m => meetWord m.1 (fun _ s => s) ucls unit 6 m.2 s) s

/-- A slot's words are read (13 Table 13-1; UCLS 12h; DEDUCED, log entry 116). -/
def meetSlot (s : State) (k : Nat) : State :=
  let v := slotGet s k
  if v.marks.isEmpty then s else meetMarks (slotSet s k { v with marks := metMarks v.marks }) v.marks 0x12 k

/-- The marks of the n code words of a record after a write of `cov w` bytes of each word w (13 R479): a word written whole is good, one
written in part is decoded first, and one that is poison or uncorrectable swallows what is written, which is counted. -/
def mergeMarks (s : State) (ucls unit n : Nat) (marks : List Mark) (cov : Nat → Nat) : State × List Mark :=
  let r := (List.range n).foldl (fun (st : State × List Mark) w =>
    let m := marks.getD w .good
    if cov w = 0 then (st.1, st.2 ++ [m])
    else if 16 ≤ cov w then (st.1, st.2 ++ [.good])
    else (countLost (meetWord m (fun _ s => s) ucls unit 6 w st.1) (b2n (badMark m)), st.2 ++ [metMark (badMark m)])) (s, [])
  (r.1, if r.2.all (fun m => decide (m = .good)) then [] else r.2)

/-- The bytes of word w that a write of n bytes from an offset covers. -/
def coverOf (ofs n w : Nat) : Nat := min (ofs + n) (16 * w + 16) - max ofs (16 * w)

/-- Write a slot, of whose record the write covers `cov w` bytes of word w (13 R479). -/
def slotMerge (s : State) (k : Nat) (cov : Nat → Nat) (v : Slot) : State :=
  if v.marks.isEmpty then slotSet s k v
  else
    let r := mergeMarks s 0x12 k 5 v.marks cov
    slotSet r.1 k (slotSeen { v with marks := r.2 })

/-- A write of every slot by one rule. -/
def slotsUpdate (s : State) (cov : Slot → Nat → Nat) (f : Slot → Slot) : State :=
  let marked := s.slots.filter fun e => !e.2.marks.isEmpty
  marked.foldl (fun s e => slotMerge s e.1 (cov (slotGet s e.1)) (f (slotGet s e.1)))
    { s with slots := storeMap blankSlot (fun _ v => if v.marks.isEmpty then f v else v) s.slots }

/-- A steward read that meets a word of a register file, table or record that is already poison files a record of type 0003h; it is no
consumption (13 R348). -/
def stewardWord (s : State) (mark : Mark) (ucls unit : Nat) : State :=
  if mark = .poison then fileToll s { tollOf 3 2 0 with ucls := BitVec.ofNat 8 ucls, unit := BitVec.ofNat 16 unit, flags := 1 } else s

/-- The steward reads the slots: a record of type 0003h for the first word that is already poison. -/
def stewardSlots (s : State) : State :=
  match s.slots.find? fun e => e.2.marks.contains .poison with
  | some e => stewardWord s .poison 0x12 e.1
  | none => s

/-- Every slot is read. -/
def meetSlots (s : State) : State := s.slots.foldl (fun s e => meetSlot s e.1) s

/-- The exponent a slot last applied; an invalid one counts as 0 (07 R172). -/
def slotLae (v : Slot) : Int := if v.lv then signedOf 9 v.lae.toNat else 0

/-- The packing factor by stationary format (06 Table 6-1; 1 for FP32). -/
def packOf (fmt : Nat) : Nat := if fmt ≤ 2 then 1 else if fmt = 7 ∨ fmt = 14 then 4 else 2

/-- The tile conditions of an operation: none where its group mask is empty, since it then issues and does nothing (02 R41). -/
def unlessEmpty (s : State) (gn : BitVec 3) (c : Cond) : Cond := if groupMask s gn.toNat = 0 then none else c

/-- Conditions of TLD (0), TST (1) and SWL (2), in the order of 05 R129. -/
def condMove (kind : Nat) (o : TeMove) (s : State) : Cond :=
  let tc := tileCfg s o.t.toNat
  let c := tc.word
  let n := maskCount tc.mask
  let tf := cfgFmt c
  let mf := o.fmt.toNat
  let src := if kind = 1 then tf else mf
  let dst := if kind = 1 then mf else tf
  let slot := slotGet s o.slot.toNat
  let needs := o.cv && decide (codeClass src = .narrow) && decide (codeClass dst = .wide)
  unlessEmpty s o.gn (firstCond
    [(!(cfgEn c), 6, 9),
     (decide (groupMask s o.gn.toNat ≠ tc.mask), 6, 10),
     (decide (kind ≠ 2) && needs && decide (slot.st ≠ 2), 6, 11),
     ((if o.cv then !(convPair src dst) else decide (mf ≠ tf)) || (decide (kind = 2) && decide (tf = 0)), 0xB, 1),
     (decide (kind = 2) && (decide (128 < cfgBr c) || decide (128 * packOf tf < cfgBc c n)), 5, 6),
     (isBlockFmt mf && isBlockFmt tf && decide (cfgBd c ≠ o.tr), 5, 7)])

/-! ### Geometry of one movement -/

def mvBr (m : Move) : Nat := cfgBr m.cfg
def mvBc (m : Move) : Nat := cfgBc m.cfg m.n
def mvTf (m : Move) : Nat := cfgFmt m.cfg
/-- Row length, row count and pitch of the memory-side block (05 R123). -/
def mvMemLen (m : Move) : Nat := if m.tr then mvBr m else mvBc m
def mvMemRows (m : Move) : Nat := if m.tr then mvBc m else mvBr m
def mvMemPitch (m : Move) : Nat := pitch (mvMemLen m) (codeWidth m.fmt.toNat)
def mvMemBlocks (m : Move) : Nat := ceilDiv (mvMemLen m) 32
def mvScaleBase (m : Move) : Nat := mvMemRows m * mvMemPitch m
def mvMemSize (m : Move) : Nat :=
  mvScaleBase m + (if isBlockFmt m.fmt.toNat then 64 * ceilDiv (mvMemRows m * mvMemBlocks m) 64 else 0)
/-- B of 05 R124. -/
def mvB (m : Move) : Nat := max (mvBr m * pitch (mvBc m) (codeWidth (mvTf m))) (mvMemSize m)

def mvUnitOf (kind : Nat) : RUnit := if kind = 0 then .scratchRead else if kind = 1 then .scratchWrite else .shadow
def mvRate (kind : Nat) : Nat := if kind = 1 then 1024 else 2048

/-- The read clk of row r, counted from the movement's base and its first row (05 Table 5-4, R133). -/
def mvReadClk (m : Move) (r : Nat) : Nat :=
  m.base + (if m.kind = 2 then 5 else 7) + ceilDiv ((r - m.first + 1) * mvB m) (mvBr m * mvRate m.kind)

/-- D of 02 Table 2-7 for the rows from `first` on. -/
def mvDist (m : Move) : Nat :=
  if mvBr m = 0 then 0 else ceilDiv ((mvBr m - m.first) * mvB m) (mvBr m * mvRate m.kind)

/-- Whether rows move in groups of 32 (05 R124). -/
def mvGroups (m : Move) : Bool :=
  (isBlockFmt (mvTf m) && cfgBd m.cfg) || (isBlockFmt m.fmt.toNat && m.tr)

/-- The clk in which row r lands: one clk after its read, rows of a group with the group's last (05 R124). -/
def mvLandClk (m : Move) (r : Nat) : Nat :=
  mvReadClk m (if mvGroups m then min (r / 32 * 32 + 31) (mvBr m - 1) else r) + 1

/-- The clk in which row r uses the movement's resource: its scratch read for TLD, its landing for TST and SWL (03 R81). -/
def mvUse (m : Move) (r : Nat) : Nat := if m.kind = 0 then mvReadClk m r else mvLandClk m r

/-- The clk in which the movement first uses its resource (03 R81). -/
def mvFirstUse (m : Move) : Nat := mvUse m m.first

/-- The clk in which the movement begins on its resource: the first clk of its first row there, which a row wider than the port's rate
needs before the clk that Table 5-4 gives it (02 R63; 05 Table 5-4). -/
def mvBegin (m : Move) : Nat := m.base + (if m.kind = 2 then 6 else 8) + (if m.kind = 0 then 0 else 1)

/-- How long before its use of the resource a row is read. -/
def mvLag (kind : Nat) : Nat := if kind = 0 then 0 else 1

/-- Whether block-local (r, c) is a position of the tile, not padding (05 R117). -/
def mvValid (m : Move) (r c : Nat) : Bool :=
  let gc := cfgGc m.cfg m.n
  let gi := if cfgRepl m.cfg then 0 else m.gk / gc
  let gj := if cfgRepl m.cfg then 0 else m.gk % gc
  decide (gi * mvBr m + r < cfgRows m.cfg) && decide (gj * mvBc m + c < cfgCols m.cfg)

/-- Bit positions in the fragment of a slice and tile (05 R118). -/
def fragPos (slice t cols fmt r c : Nat) : Nat :=
  ((slice * 8 + t) * 32768 + r * pitch cols (codeWidth fmt)) * 8 + c * codeWidth fmt
def scalePos (slice t cols : Nat) (bd : Bool) (r c : Nat) : Nat :=
  ((slice * 8 + t) * 2048 + (if bd then r / 32 * cols + c else r * (cols / 32) + c / 32)) * 8

/-- The cell position of a stationary element and of its scale in an array's weight registers. -/
def cellPos (slice r c : Nat) : Nat := slice * 131072 + r * 512 + c
def cellScale (slice : Nat) (bd : Bool) (r c : Nat) : Nat :=
  slice * 131072 + 65536 + (if bd then r / 32 * 512 + c else r * 16 + c / 32)

/-- Byte offsets of an element and of its scale byte in the memory-side block. -/
def memOff (m : Move) (r c : Nat) : Nat × Nat :=
  let mr := if m.tr then c else r
  let mc := if m.tr then r else c
  (mr * mvMemPitch m * 8 + mc * codeWidth m.fmt.toNat, mvScaleBase m + mr * mvMemBlocks m + mc / 32)

/-! ### Suspension and records (05 R131, R132) -/

/-- The key of a record. -/
def recKey (slice kind idx : Nat) : Nat := (slice * 3 + kind) * 8 + idx

def recGet (s : State) (k : Nat) : TileRec := storeGet ⟨0, 0, 0⟩ s.tiles.recs k
def recSet (s : State) (k : Nat) (r : TileRec) : State :=
  s.onTiles fun t => { t with recs := storeSet ⟨0, 0, 0⟩ t.recs k r }

/-- The issue number and the member count that a record was captured with. -/
def metaGet (s : State) (k : Nat) : Nat × Nat := storeGet (0, 0) s.tiles.recMeta k
def metaSet (s : State) (k : Nat) (v : Nat × Nat) : State :=
  s.onTiles fun t => { t with recMeta := storeSet (0, 0) t.recMeta k v }

/-- The valid positions of a queue. -/
def validIdx (s : State) (slice kind : Nat) : List Nat := (List.range 8).filter fun i => bit (recGet s (recKey slice kind i)).w0 63

/-- The movements of a queue that are restarted know their records' places: after the places have changed they know the new ones. -/
def movePlaces (slice kind : Nat) (f : Nat → Nat) (w : Work) : Work :=
  let put := fun m : Move => if m.slice = slice ∧ m.kind = kind then { m with place := m.place.map f } else m
  match w.act with
  | .rowRead m r => { w with act := .rowRead (put m) r }
  | .rowLand m a b l => { w with act := .rowLand (put m) a b l }
  | _ => w

/-- Put the records of a queue, listed in order, at its lowest positions, one place left free after the first n. -/
def packQueue (s : State) (slice kind : Nat) (idxs : List Nat) (n : Nat) : State :=
  let newIdx := fun i => let p := idxs.idxOf i; if p < n then p else p + 1
  let held := idxs.map fun i => (newIdx i, recGet s (recKey slice kind i), metaGet s (recKey slice kind i))
  let s := (List.range 8).foldl (fun s i => metaSet (recSet s (recKey slice kind i) ⟨0, 0, 0⟩) (recKey slice kind i) (0, 0)) s
  let s := held.foldl (fun s h => metaSet (recSet s (recKey slice kind h.1) h.2.1) (recKey slice kind h.1) h.2.2) s
  { s with work := s.work.map (movePlaces slice kind newIdx) }

/-- A place for the record of an operation in its queue, which keeps issue order (05 R132): the position after the last valid record; where a
later-issued one is recorded already, or position 7 is taken, the records move to make the place (DESIGN CHOICE, log entry 123). None if
all eight are valid. -/
def makePlace (s : State) (slice kind op : Nat) : State × Option Nat :=
  let idxs := validIdx s slice kind
  let before := idxs.filter fun i => decide ((metaGet s (recKey slice kind i)).1 ≤ op)
  let next := match before.getLast? with
    | some i => i + 1
    | none => 0
  if idxs.length = 8 then (s, none)
  else if before.length = idxs.length ∧ next < 8 then (s, some next)
  else (packQueue s slice kind idxs before.length, some before.length)

/-- The record of a movement that is to go on at a row (05 Table 5-9). -/
def recOf (m : Move) (row : Nat) : TileRec :=
  ⟨BitVec.ofNat 64 (2 ^ 63 + m.t * 2 ^ 57 + m.fmt.toNat * 2 ^ 53 + b2n m.tr * 2 ^ 52 + b2n m.cv * 2 ^ 51
      + m.slot.toNat * 2 ^ 37 + row * 2 ^ 26 + m.gk * 2 ^ 18), BitVec.ofNat 64 (m.addr.toNat % 2 ^ 52), m.cfg⟩

/-- The row at which a movement divides: the first of its group where rows move in groups (05 R131). -/
def divideRow (m : Move) (row : Nat) : Nat := if mvGroups m then row / 32 * 32 else row

/-- The reads of a movement's rows from one on are given up, and the rows still to read know the record's place. -/
def cutReads (m : Move) (row : Nat) (place : Option Nat) (w : List Work) : List Work :=
  w.filterMap fun x =>
    match x.act with
    | .rowRead m' r =>
      if m'.op = m.op ∧ m'.slice = m.slice then
        (if row ≤ r then none else some { x with act := .rowRead { m' with place := place } r })
      else some x
    | _ => some x

/-- Stop one movement in its slice at a row and record it; a resumed movement keeps its place. Rows below the dividing one that are
still to be read go on (03 R81, 05 R131). -/
def suspendOne (s : State) (m : Move) (row : Nat) : State :=
  let row := divideRow m row
  let made := match m.place with
    | some i => (s, some i)
    | none => makePlace s m.slice m.kind m.op
  let s := made.1
  let place := made.2
  let s := { s with work := cutReads m row place s.work }
  let s := s.onTiles fun t => { t with
    moveBuf := t.moveBuf.filter fun b => !(decide (b.1 = m.op) && decide (b.2.1 = m.slice) && decide (row ≤ b.2.2.1)) }
  match place with
  | some i => metaSet (recSet s (recKey m.slice m.kind i) (recOf m row)) (recKey m.slice m.kind i) (m.op, m.n)
  | none => s

/-- A movement put in its place by issue number. -/
def insertMove (x : Move × Nat) (l : List (Move × Nat)) : List (Move × Nat) :=
  match l with
  | [] => [x]
  | y :: r => if x.1.op < y.1.op then x :: y :: r else y :: insertMove x r

/-- The movements of a slice and kind in flight, with their next row, in issue order. -/
def inFlight (s : State) (slice kind : Nat) : List (Move × Nat) :=
  s.work.foldl (fun l w =>
    match w.act with
    | .rowRead m r =>
      if m.slice = slice ∧ m.kind = kind ∧ !(l.any fun x => decide (x.1.op = m.op)) then insertMove (m, r) l else l
    | _ => l) []

/-- Whether a movement was issued later than another of its queue: of restarted ones the places of their records say so. -/
def movedLater (m x : Move) : Bool :=
  match m.place, x.place with
  | some i, some j => decide (i < j)
  | _, _ => decide (m.op < x.op)

/-- A movement divided at a row: it and every later-issued movement on the resource in the slice are suspended (05 R131). -/
def divideMove (s : State) (m : Move) (row : Nat) : State :=
  let later := (inFlight s m.slice m.kind).filter fun x => movedLater m x.1
  later.foldl (fun s x => suspendOne s x.1 x.2) (suspendOne s m row)

/-! ### Spares that follow suspect rows and columns (06 R160) -/

/-- A weight load of an operation begins in a slice: the spares assigned to rows and columns of its array follow it (06 R160). -/
def beginLoad (s : State) (slice op : Nat) : State :=
  if s.rel.spares.isEmpty then s
  else
    let phys := physSlice s slice
    let fs := s.rel.spares.filter fun f => decide (f.unit.toNat / 256 = phys) && !(s.rel.trailed.contains (f, none))
    s.onRel fun r => { r with trailed := r.trailed.filter (fun x => !(fs.contains x.1)) ++ fs.map fun f => (f, some op) }

/-- A weight load of an operation is complete in a slice: the spares that followed it from its beginning have followed it through. -/
def endLoad (s : State) (slice op : Nat) : State :=
  if s.rel.trailed.isEmpty then s
  else
    let ended := fun x : Follow × Option Nat => decide (x.2 = some op) && decide (x.1.unit.toNat / 256 = physSlice s slice)
    s.onRel fun r => { r with trailed := r.trailed.map fun x => if ended x then (x.1, none) else x }

/-- A divided weight load goes on under another issue number. -/
def resumeLoad (s : State) (slice old op : Nat) : State :=
  if s.rel.trailed.isEmpty then s
  else
    let mine := fun x : Follow × Option Nat => decide (x.2 = some old) && decide (x.1.unit.toNat / 256 = physSlice s slice)
    s.onRel fun r => { r with trailed := r.trailed.map fun x => if mine x then (x.1, some op) else x }

/-! ### Issuing a movement -/

/-- The reads of a movement's rows and its end, scheduled. -/
def scheduleMove (s : State) (m : Move) : State :=
  if mvBr m ≤ m.first ∨ mvBc m = 0 then s
  else ((List.range (mvBr m)).drop m.first).foldl (fun s r =>
    schedule s (mvReadClk m r) 1 m.op [resKey (mvUnitOf m.kind) m.slice] (.rowRead m r)) s

/-- The issue number at the entry of the handler that runs, while SAVED.PPL of its level names the level it interrupted (03 R81). -/
def handlerSince (s : State) : Option Nat :=
  match s.seq.entries with
  | [] => none
  | (op, level, _) :: _ =>
    let saved := if s.seq.pl = 3 then s.ctl.mx.saved else s.ctl.sx.saved
    if field saved 1 0 = level.toNat then some op else none

/-- Whether a movement takes over an earlier one in its slice, and how: one that issues within an earlier one's distance D takes the
resource over; a movement of the interrupted stream is suspended at the first row whose use of it falls at or after the new one's first
use (03 R81), any other is abandoned from the clk the new one begins (02 R63). The answer says whether one was abandoned. -/
def takeMoves (s : State) (m : Move) : State × Bool :=
  (inFlight s m.slice m.kind).foldl (fun acc x =>
    let s := acc.1
    let old := x.1
    if old.base + mvDist old ≤ m.base then acc
    else if (match handlerSince s with | some e => decide (old.op < e) | none => false) then
      match ((List.range (mvBr old)).drop x.2).find? (fun r => decide (mvFirstUse m ≤ mvUse old r)) with
      | none => acc
      | some r => (suspendOne s old r, acc.2)
    else (dropWork s old.op (resKey (mvUnitOf m.kind) m.slice) (mvBegin m - mvLag m.kind), true)) (s, false)

/-- One slice's part of a movement put on its resource. -/
def startMove (s : State) (m : Move) : State × Bool :=
  let (s, t) := takeMoves s m
  -- an MVM still within its distance loses the scratch read port to a TLD or SWL (06 R156)
  let key := resKey .scratchRead m.slice
  let u := storeGet ⟨0, 0, 0⟩ s.uses key
  let hit := decide (m.kind ≠ 1) && decide (m.base < u.free) && decide (u.op ≠ m.op)
    && !(s.work.any fun w => decide (w.op = u.op) && (match w.act with | .rowRead _ _ => true | _ => false))
  let s := if hit then dropWork s u.op key m.base else s
  let s := if m.kind ≠ 1 then { s with uses := storeSet ⟨0, 0, 0⟩ s.uses key ⟨m.op, m.base, m.base + mvDist m⟩ } else s
  (scheduleMove s m, t || hit)

/-- TLD, TST or SWL at its issue (05 R121 to R124, 06 R144). -/
def doMove (kind : Nat) (o : TeMove) (s : State) : State :=
  let tc := tileCfg s o.t.toNat
  let ms := if groupMask s o.gn.toNat = 0 then [] else members tc.mask
  let t := o.t.toNat
  let s := s.onTiles fun k =>
    { k with
      active := if kind = 0 then clearBind k.active t ms else k.active,
      shadow := if kind = 2 then ms.foldl (fun b sl => storeSet 0 b sl (t + 1)) k.shadow else k.shadow }
  let s := if kind = 2 then ms.foldl (fun s sl => beginLoad s sl s.cnt.op) s else s
  let s := if o.cv then meetSlot s o.slot.toNat else s
  let deq := slotLae (slotGet s o.slot.toNat)
  let r := (ms.zipIdx).foldl (fun acc p =>
    let m : Move := { kind := kind, t := t, slice := p.1, gk := p.2, cfg := tc.word, n := ms.length, fmt := o.fmt,
                      tr := o.tr, cv := o.cv, slot := o.slot, addr := getX acc.1 o.xa.toNat, level := acc.1.seq.pl,
                      bundle := acc.1.seq.pc, deq := deq, first := 0, base := acc.1.cnt.clk, op := acc.1.cnt.op,
                      place := none }
    let (s', hit) := startMove acc.1 m
    (s', acc.2 || hit)) (s, false)
  if r.2 then objAdd r.1 0x7230 1 1 else r.1

/-! ### A row -/

/-- The places of an element and of its scale byte, where there is one, or the condition that R76 puts first. -/
def twoAddrs (s : State) (m : Move) (off : Nat × Nat) (write : Bool) : State × (Nat × Nat ⊕ (Nat × Nat × W64)) :=
  let a := opAddr s m.op m.level (m.addr + BitVec.ofNat 64 (off.1 / 8)) write m.slice
  let b := if isBlockFmt m.fmt.toNat then opAddr a.1 m.op m.level (m.addr + BitVec.ofNat 64 off.2) write m.slice else (a.1, .ok 0)
  match a.2, b.2 with
  | .ok pa, .ok pb => (b.1, .inl (pa, pb))
  | .ok _, .fail x u f => (b.1, .inr (x, u, f))
  | .fail x u f, .ok _ => (b.1, .inr (x, u, f))
  | .fail x u f, .fail y v g => (b.1, .inr (if faultRank y < faultRank x then (y, v, g) else (x, u, f)))

/-- One element of a row read from memory: its code, its scale, where it lies, or the fault it meets. -/
def readMemElem (s : State) (m : Move) (r c : Nat) : State × (Raw ⊕ (Nat × Nat × W64)) :=
  let w := codeWidth m.fmt.toNat
  let block := isBlockFmt m.fmt.toNat
  let off := memOff m r c
  match twoAddrs s m off false with
  | (s, .inr f) => (s, .inr f)
  | (s, .inl (pa, pb)) =>
    let d := readBytes s pa ((off.1 % 8 + w + 7) / 8)
    let b := if block then readBytes d.1 pb 1 else (d.1, [], false)
    if m.cv && (d.2.2 || b.2.2) then (b.1, .inr (7, 2, BitVec.ofNat 64 (if d.2.2 then pa else pb)))
    else (b.1, .inl ⟨r, c, ofLe d.2.1 / 2 ^ (off.1 % 8) % 2 ^ w, ofLe b.2.1, d.2.2, b.2.2, 0, 0⟩)

/-- One element of a row read from the fragment, with the addresses it is to be stored to. -/
def readFragElem (s : State) (m : Move) (r c : Nat) : State × (Raw ⊕ (Nat × Nat × W64)) :=
  let off := memOff m r c
  match twoAddrs s m off true with
  | (s, .inr f) => (s, .inr f)
  | (s, .inl (pa, pb)) =>
    let block := isBlockFmt (mvTf m)
    let fp := fragPos m.slice m.t (mvBc m) (mvTf m) r c
    let sp := scalePos m.slice m.t (mvBc m) (cfgBd m.cfg) r c
    let s := meetAll s.tiles.fragMark meetFrag s (codeWords fp (codeWidth (mvTf m)))
    let s := if block then meetAll s.tiles.bscaleMark meetScale s (codeWords sp 8) else s
    let bad := bitsBad s.tiles.fragMark fp (codeWidth (mvTf m))
    let sbad := block && bitsBad s.tiles.bscaleMark sp 8
    if m.cv && (bad || sbad) then (s, .inr (7, 3, 0))
    else
      (s, .inl ⟨r, c, bitsGet s.tiles.frag fp (codeWidth (mvTf m)), if block then bitsGet s.tiles.bscale sp 8 else 0, bad, sbad,
        pa * 8 + off.1 % 8, if isBlockFmt m.fmt.toNat then pb * 8 else 0⟩)

/-- The elements of a row, in columns; padding is not read and counts as zero on a load (05 R117, R123). -/
def readRow (s : State) (m : Move) (r : Nat) (cs : List Nat) : State × List Raw × Option (Nat × Nat × W64) :=
  match cs with
  | [] => (s, [], none)
  | c :: rest =>
    if !(mvValid m r c) then
      let (s, l, f) := readRow s m r rest
      (s, if m.kind = 1 then l else ⟨r, c, 0, 0, false, false, 0, 0⟩ :: l, f)
    else
      match (if m.kind = 1 then readFragElem s m r c else readMemElem s m r c) with
      | (s, .inr f) =>
        let (s, l, g) := readRow s m r rest
        (s, l, match g with
          | some h => if faultRank h.1 < faultRank f.1 then some h else some f
          | none => some f)
      | (s, .inl x) =>
        let (s, l, g) := readRow s m r rest
        (s, x :: l, g)

/-- The pattern an element takes at its destination where no block is formed. -/
def convOne (m : Move) (x : Raw) : Nat :=
  let src := if m.kind = 1 then mvTf m else m.fmt.toNat
  let dst := if m.kind = 1 then m.fmt.toNat else mvTf m
  if !m.cv || decide (src = dst) then x.v
  else
    match codeClass src with
    | .narrow => (convElem dst (fvScale (elemValue src x.v) (-m.deq))).1
    | .mx => (convElem dst (mxValue src x.v x.scale)).1
    | _ => (convElem dst (elemValue src x.v)).1

/-- The key of the destination block of an element: along the tile's block direction, or along the memory row. -/
def blockKey (m : Move) (x : Raw) : Nat × Nat :=
  let along := if m.kind = 1 then m.tr else cfgBd m.cfg
  if along then (x.r / 32, x.c) else (x.r, x.c / 32)

/-- Where an element lands. -/
def dstPos (m : Move) (x : Raw) : Nat :=
  if m.kind = 1 then x.dst
  else if m.kind = 0 then fragPos m.slice m.t (mvBc m) (mvTf m) x.r x.c
  else cellPos m.slice x.r x.c

def dstScalePos (m : Move) (x : Raw) : Nat :=
  if m.kind = 1 then x.dstScale
  else if m.kind = 0 then scalePos m.slice m.t (mvBc m) (cfgBd m.cfg) x.r x.c
  else cellScale m.slice (cfgBd m.cfg) x.r x.c

/-- The elements and scale bytes that a set of rows delivers, and the blocks made non-finite and elements saturated
(07 R166). -/
def deliver (m : Move) (xs : List Raw) : List El × List El × Nat × Nat :=
  let src := if m.kind = 1 then mvTf m else m.fmt.toNat
  let dst := if m.kind = 1 then m.fmt.toNat else mvTf m
  let w := codeWidth dst
  if !(isBlockFmt dst) then (xs.map fun x => ⟨dstPos m x, w, convOne m x, x.bad⟩, [], 0, 0)
  else
    let keys := (xs.map (blockKey m)).eraseDups
    keys.foldl (fun acc k =>
      let blk := xs.filter fun x => decide (blockKey m x = k)
      if m.cv then
        let f := mxBlock dst (blk.map fun x => elemValue src x.v)
        (acc.1 ++ (blk.zip f.2.1).map (fun p => (⟨dstPos m p.1, w, p.2, p.1.bad⟩ : El)),
         acc.2.1 ++ (blk.take 1).map (fun x => (⟨dstScalePos m x, 8, f.1, false⟩ : El)),
         acc.2.2.1 + b2n f.2.2.1, acc.2.2.2 + f.2.2.2)
      else
        (acc.1 ++ blk.map (fun x => (⟨dstPos m x, w, x.v, x.bad⟩ : El)),
         acc.2.1 ++ (blk.take 1).map (fun x => (⟨dstScalePos m x, 8, x.scale, blk.any fun y => y.sbad⟩ : El)),
         acc.2.2.1, acc.2.2.2)) ([], [], 0, 0)

/-- The deferred fault of a row (03 R76, R80; 05 R130). -/
def moveFault (m : Move) (f : Nat × Nat × W64) : Deferred :=
  { code := BitVec.ofNat 8 f.1, sub := BitVec.ofNat 8 f.2.1, faddr := f.2.2, slot := 2, slice := m.slice,
    level := m.level, bundle := m.bundle, op := m.op, replay := none, clk := 0 }

/-- The rows that a movement reads in a clk after one that fails: what they meet in that clk counts too, and of all the slice's conditions
the one that 03 R76 puts first is raised (R481). -/
def readPeers (s : State) (m : Move) (r : Nat) (f : Nat × Nat × W64) : State × (Nat × Nat × W64) :=
  let rows := s.work.filterMap fun w =>
    match w.act with
    | .rowRead m' r' => if m'.op = m.op ∧ m'.slice = m.slice ∧ w.due = s.cnt.clk ∧ r < r' then some r' else none
    | _ => none
  rows.foldl (fun acc r' =>
    let t := readRow acc.1 m r' (List.range (mvBc m))
    (t.1, match t.2.2 with
      | some g => if faultRank g.1 < faultRank acc.2.1 then g else acc.2
      | none => acc.2)) (s, f)

/-- A row's read clk: the row is read and lands in the next clk, rows of a group with the group's last; a fault divides
the movement (05 R124, R127, R131). -/
def rowRead (s : State) (m : Move) (r : Nat) : State :=
  let mis := decide (r = 0) && decide (m.addr.toNat % 64 ≠ 0)
  let (s, xs, f) := if mis then (s, [], some (2, 3, m.addr)) else readRow s m r (List.range (mvBc m))
  match f with
  | some f =>
    let p := readPeers s m r f
    pushOnce (divideMove p.1 m r) (moveFault m p.2)
  | none =>
    let last := decide (r + 1 = mvBr m)
    if mvGroups m && !(decide (r % 32 = 31) || last) then
      s.onTiles fun t => { t with moveBuf := t.moveBuf ++ [(m.op, m.slice, r, xs)] }
    else
      let mine := fun b : Nat × Nat × Nat × List Raw => decide (b.1 = m.op) && decide (b.2.1 = m.slice)
      let all := (s.tiles.moveBuf.filter mine).flatMap (fun b => b.2.2.2) ++ xs
      let s := s.onTiles fun t => { t with moveBuf := t.moveBuf.filter fun b => !(mine b) }
      let d := deliver m all
      let s := if d.2.2.1 = 0 then s else objAdd s 0x7250 7 d.2.2.1
      let s := if d.2.2.2 = 0 then s else objAdd s 0x7250 8 d.2.2.2
      schedule s (s.cnt.clk + 1) 0 m.op [resKey (mvUnitOf m.kind) m.slice] (.rowLand m d.1 d.2.1 last)

/-- Elements stored to memory: whole bytes are written, part of a byte is merged into the byte in place. -/
def storeEls (s : State) (els : List El) : State :=
  let bytes := (els.flatMap fun e => (List.range ((e.pos % 8 + e.w + 7) / 8)).map fun i => e.pos / 8 + i).eraseDups
  writeMarkedAs (.stream true) 0 s (bytes.map fun b =>
    let mine := els.filter fun e => decide (e.pos / 8 ≤ b) && decide (b < (e.pos + e.w + 7) / 8)
    let v := mine.foldl (fun v e =>
      let m := bitsSet [(b, v)] e.pos e.w e.v
      storeGet 0 m b) (memGet s b)
    (b, v, mine.any fun e => e.bad))

/-- Whether a cell or scale position of an array belongs to the block of br rows and bc columns. -/
def blockCovers (br bc : Nat) (bd : Bool) (k : Nat) : Bool :=
  let x := k % 131072
  let y := x - 65536
  if x < 65536 then decide (x / 512 < br) && decide (x % 512 < bc)
  else if bd then decide (y / 512 < ceilDiv br 32) && decide (y % 512 < bc)
  else decide (y / 16 < br) && decide (y % 16 < ceilDiv bc 32)

/-- The array row of a cell, and the first one that a scale serves. -/
def rowOfCell (bd : Bool) (k : Nat) : Nat :=
  let x := k % 131072
  if x < 65536 then x / 512 else if bd then (x - 65536) / 512 * 32 else (x - 65536) / 16

/-- Rows of weights land in the shadow registers: the positions of those rows that the block does not cover hold zero, and with the last row
all positions below it (06 R139). -/
def landShadow (s : State) (m : Move) (els scales : List El) (last : Bool) : State :=
  let s := putShadow s (els ++ scales)
  let rows := els.map fun e => rowOfCell false e.pos
  let lo := rows.foldl min (mvBr m)
  let hi := if last then 131072 else rows.foldl max 0
  let bd := cfgBd m.cfg
  let keep := fun k : Nat => decide (k / 131072 ≠ m.slice) || blockCovers (mvBr m) (mvBc m) bd k
    || decide (rowOfCell bd k < lo) || decide (hi < rowOfCell bd k)
  s.onTiles fun t => { t with shadowVals := storeFilter keep t.shadowVals, shadowBad := storeFilter keep t.shadowBad }

/-- The landing of a row or of a group of rows; the last row of a resumed movement invalidates its record (05 R133). -/
def rowLand (s : State) (m : Move) (els scales : List El) (last : Bool) : State :=
  let s := if m.kind = 0 then putScales (putFrag s els) scales
           else if m.kind = 1 then storeEls s (els ++ scales)
           else if last then endLoad (landShadow s m els scales last) m.slice m.op
           else landShadow s m els scales last
  if last then
    match m.place with
    | some i => recSet (dropXlat s m.op) (recKey m.slice m.kind i) ⟨0, 0, 0⟩
    | none => dropXlat s m.op
  else s

/-! ### Resume (05 R133) -/

/-- The movement a valid record describes, restarted as if issued in a clk. -/
def resumeMove (s : State) (slice kind idx : Nat) (r : TileRec) (level : BitVec 2) (bundle : IAddr) (op base : Nat) : Move :=
  let t := field r.w0 59 57
  { kind := kind, t := t, slice := slice, gk := field r.w0 25 18, cfg := r.w2, n := (metaGet s (recKey slice kind idx)).2,
    fmt := BitVec.ofNat 4 (field r.w0 56 53), tr := bit r.w0 52, cv := bit r.w0 51, slot := BitVec.ofNat 14 (field r.w0 50 37),
    addr := r.w1, level := level, bundle := bundle, deq := slotLae (slotGet s (field r.w0 50 37)), first := field r.w0 36 26,
    base := base, op := op, place := some idx }

/-- What the records of one operation have in common: the resource, and the record but for NROW and GK (03 R481, 05 Table 5-9). -/
def recOpKey (kind : Nat) (r : TileRec) : Nat × W64 × W64 × W64 := (kind, setField r.w0 36 18 0, r.w1, r.w2)

/-- The operations that a return has restarted so far: what their records have in common, how many such records came before in the
queue of a slice, and the issue number that they share. -/
abbrev Restarts := List ((Nat × W64 × W64 × W64) × Nat × Nat)

/-- The records of one queue, lowest first, each restarting when the one before it has passed its distance (05 R133). The records of one
operation take one issue number of its own; a record with no row left is done. -/
def resumeQueue (s : State) (slice kind : Nat) (idxs : List Nat) (level : BitVec 2) (bundle : IAddr) (base : Nat)
    (seen : List (Nat × W64 × W64 × W64)) (ops : Restarts) : State × Restarts :=
  match idxs with
  | [] => (s, ops)
  | i :: rest =>
    let r := recGet s (recKey slice kind i)
    if !(bit r.w0 63) then resumeQueue s slice kind rest level bundle base seen ops
    else
      let key := recOpKey kind r
      let nth := seen.countP fun k => decide (k = key)
      let known := ops.find? fun o => decide (o.1 = key) && decide (o.2.1 = nth)
      let op := match known with
        | some o => o.2.2
        | none => s.cnt.op
      let ops := if known.isSome then ops else (key, nth, op) :: ops
      let s := if known.isSome then s else (nextOp s).onSeq fun q => { q with awaiting := q.awaiting ++ [op] }
      let m := resumeMove s slice kind i r level bundle op base
      let s := resumeLoad s slice (metaGet s (recKey slice kind i)).1 op
      let s := if mvBr m ≤ m.first ∨ mvBc m = 0 then recSet s (recKey slice kind i) ⟨0, 0, 0⟩ else scheduleMove s m
      resumeQueue s slice kind rest level bundle (base + mvDist m) (key :: seen) ops

/-- Every queue that holds a valid record. -/
def resumeAll (s : State) (level : BitVec 2) (bundle : IAddr) (base : Nat) : State :=
  let qs := ((s.tiles.recs.filter fun r => bit r.2.w0 63).map fun r => r.1 / 8).eraseDups
  (qs.foldl (fun acc q => resumeQueue acc.1 (q / 3) (q % 3) (List.range 8) level bundle base [] acc.2) (s, ([] : Restarts))).1

/-- Whether any record is valid (SAVED.TS, 05 R132). -/
def anyRecord (s : State) : Bool := s.tiles.recs.any fun r => bit r.2.w0 63

end Sys2Proof.Machine
end

