-- ==== Sys2Proof/Machine/ElemMath.lean ====
section
/-! DEFINITION. The arithmetic of the element-wise engine as pure functions: lane operations, packing conversions,
reductions, function tables and the rattle (08 R190 to R196, R202, R203, R208 to R210). -/

namespace Sys2Proof.Machine

/-! ### Lane operations (08 Table 8-1, R191, R192) -/

/-- All ones or zero. -/
def lanes32 (b : Bool) : W32 := if b then BitVec.allOnes 32 else 0

/-- An exact integer result wrapped, or clamped to the signed or unsigned range. -/
def satLane (sat uns : Bool) (z : Int) : W32 := BitVec.ofNat 32 (narrow 32 sat uns z)

/-- FSCALE: the count is clamped to −300…300 (08 Table 8-1). -/
def fscaleLane (a b : W32) : W32 := toF32 (fvScale (f32 a) (max (-300) (min 300 b.toInt)))

/-- One lane of an operation that works lane by lane. Operations that do not read A lane by lane give A. -/
def laneOp (fn : VeFn) (sat : Bool) (a b d : W32) : W32 :=
  match fn with
  | .fadd => f32Add a b
  | .fsub => f32Sub a b
  | .fmul => f32Mul a b
  | .fma => f32Fma a b d
  | .frcp => f32Div f32One a
  | .fsqrt => BitVec.ofNat 32 (fSqrt fp32 (f32 a))
  | .frsqrt => BitVec.ofNat 32 (fRsqrt fp32 (f32 a))
  | .fscale => fscaleLane a b
  | .fmin => toF32 (fvMinMax false (f32 a) (f32 b))
  | .fmax => toF32 (fvMinMax true (f32 a) (f32 b))
  | .fabs => a &&& 0x7FFFFFFF
  | .fneg => a ^^^ 0x80000000
  | .add => satLane sat false (a.toInt + b.toInt)
  | .sub => satLane sat false (a.toInt - b.toInt)
  | .mul => satLane sat false (a.toInt * b.toInt)
  | .addu => satLane sat true ((a.toNat : Int) + b.toNat)
  | .subu => satLane sat true ((a.toNat : Int) - b.toNat)
  | .mulu => satLane sat true ((a.toNat : Int) * b.toNat)
  | .min => if a.toInt ≤ b.toInt then a else b
  | .max => if a.toInt ≤ b.toInt then b else a
  | .minu => if a.toNat ≤ b.toNat then a else b
  | .maxu => if a.toNat ≤ b.toNat then b else a
  | .and => a &&& b
  | .or => a ||| b
  | .xor => a ^^^ b
  | .andn => a &&& ~~~b
  | .shl => a <<< (b.toNat % 32)
  | .shr => a >>> (b.toNat % 32)
  | .sra => a.sshiftRight (b.toNat % 32)
  | .ceq => lanes32 (decide (a = b))
  | .clt => lanes32 (a.slt b)
  | .cltu => lanes32 (a.ult b)
  | .fceq => lanes32 (fvCompare (f32 a) (f32 b) == some .eq)
  | .fclt => lanes32 (fvCompare (f32 a) (f32 b) == some .lt)
  | .fcle => lanes32 (fvCompare (f32 a) (f32 b) == some .lt || fvCompare (f32 a) (f32 b) == some .eq)
  | .sel => (a &&& d) ||| (b &&& ~~~d)
  | _ => a

/-! ### Reductions (08 R196) -/

/-- Neighbours combined. -/
def pairUp {α : Type} (f : α → α → α) (l : List α) : List α :=
  match l with
  | x :: y :: r => f x y :: pairUp f r
  | l => l

/-- n levels of the tree. -/
def treeLevels {α : Type} (f : α → α → α) (n : Nat) (l : List α) : List α :=
  match n with
  | 0 => l
  | k + 1 => treeLevels f k (pairUp f l)

/-- How a reduction combines two results. RAMAX works on magnitudes. -/
def redOp (fn : VeFn) (a b : W32) : W32 :=
  match fn with
  | .rsum => f32Add a b
  | .rmin => toF32 (fvMinMax false (f32 a) (f32 b))
  | .risum => a + b
  | _ => toF32 (fvMinMax true (f32 a) (f32 b))

/-- The result of a reduction of 256 lanes. -/
def reduceLanes (fn : VeFn) (l : List W32) : W32 :=
  ((treeLevels (redOp fn) 8 (if fn = .ramax then l.map fun x => x &&& 0x7FFFFFFF else l)).head?).getD 0

/-! ### Packing conversions (08 R193, R194) -/

/-- The number that a list of lanes holds, lane 0 lowest. -/
def lanesNat (l : List W32) : Nat := vPack 32 (l.map fun x => x.toNat)

/-- The 256 lanes of a number. -/
def natLanes (v : Nat) : List W32 := (List.range 256).map fun i => BitVec.ofNat 32 (v / 2 ^ (32 * i))

/-- Lists cut into groups of 32. -/
def groups32 {α : Type} (l : List α) : List (List α) := (List.range 8).map fun g => (l.drop (32 * g)).take 32

/-- What one CVTN counts: saturations, flushes, non-finite inputs, MX blocks made non-finite, MX elements saturated. -/
structure CvtCount where
  sat : Nat
  flush : Nat
  nonFinite : Nat
  mxBad : Nat
  mxSat : Nat
deriving DecidableEq, Repr

/-- Whether a conversion of a value to an element of a format counts as a flush (07 R168). -/
def flushes (fmt : Nat) (v : FVal) (code : Nat) : Bool :=
  match v with
  | .fin _ n _ => !(codeIsInt fmt) && decide (n ≠ 0) && decide (code % 2 ^ (codeWidth fmt - 1) = 0)
  | _ => false

/-- CVTN's 256 lanes converted: element codes, scale bytes, and the counts (08 R194). -/
def cvtnCodes (fmt : Nat) (vs : List FVal) : List Nat × List Nat × CvtCount :=
  if isBlockFmt fmt then
    let blocks := (groups32 vs).map fun g => (g, mxBlock fmt g)
    let codes := blocks.flatMap fun b => b.2.2.1
    let sats := (blocks.map fun b => b.2.2.2.2).sum
    let bad := (blocks.filter fun b => b.2.2.2.1).length
    let fl := (blocks.map fun b => if b.2.2.2.1 then 0
      else ((b.1.zip b.2.2.1).filter fun p => flushes fmt p.1 p.2).length).sum
    (codes, blocks.map (fun b => b.2.1), ⟨sats, fl, (vs.filter fvNonFinite).length, bad, sats⟩)
  else
    let r := vs.map (convElem fmt)
    (r.map (·.1), [],
     ⟨(r.filter fun x => x.2 = .saturated).length, (r.filter fun x => x.2 = .flushed).length,
      (r.filter fun x => x.2 = .nonFinite).length, 0, 0⟩)

/-- CVTN: the packed lanes of LD and the counts. -/
def cvtnLanes (fmt : Nat) (e : Int) (l : List W32) : List W32 × CvtCount :=
  let r := cvtnCodes fmt (l.map fun a => fvScale (f32 a) e)
  (natLanes (vPack (codeWidth fmt) r.1 + vPack 8 r.2.1 * 2 ^ (256 * codeWidth fmt)), r.2.2)

/-- CVTW: lane i is the value of packed element i, times 2^(−E), as FP32. -/
def cvtwLanes (fmt : Nat) (e : Int) (l : List W32) : List W32 :=
  let w := codeWidth fmt
  let v := lanesNat l
  (List.range 256).map fun i =>
    let x := v / 2 ^ (i * w) % 2 ^ w
    let val := if isBlockFmt fmt then mxValue fmt x (v / 2 ^ (256 * w + 8 * (i / 32)) % 256) else elemValue fmt x
    toF32 (fvScale val (-e))

/-- The lanes that hold the bits of packed element i. -/
def coverLanes (i w : Nat) : List Nat :=
  (List.range ((i * w + w - 1) / 32 - i * w / 32 + 1)).map fun k => i * w / 32 + k

/-- Where poison of the source lanes goes under CVTN, and under CVTW (08 R201). -/
def cvtnBad (fmt : Nat) (bad : List Bool) : List Bool :=
  let w := codeWidth fmt
  (List.range 256).map fun j =>
    (List.range 256).any fun i =>
      (if isBlockFmt fmt then (List.range 32).any fun k => (bad.getD (i / 32 * 32 + k) false) else bad.getD i false)
        && ((coverLanes i w).contains j || (isBlockFmt fmt && decide ((32 * w + i / 32) / 4 = j)))
def cvtwBad (fmt : Nat) (bad : List Bool) : List Bool :=
  let w := codeWidth fmt
  (List.range 256).map fun i =>
    (coverLanes i w).any (fun j => bad.getD j false)
      || (isBlockFmt fmt && bad.getD ((32 * w + i / 32) / 4) false)

/-! ### Function tables (08 R202, R203) -/

/-- Word k (of 32 bits) of an entry image. -/
def imgWord (img : List Byte) (k : Nat) : W32 := BitVec.ofNat 32 (ofLe ((img.drop (4 * k)).take 4))
def imgByte (img : List Byte) (k : Nat) : Nat := (img.getD k 0).toNat

/-- Whether a written image makes a valid entry (08 R205): S 0 to 5, DEG 1 to 5, PAIR an entry or FFh, reserved bits
clear, V set. -/
def imageValid (img : List Byte) : Bool :=
  decide (imgByte img 12 ≤ 5) && decide (1 ≤ imgByte img 13) && decide (imgByte img 13 ≤ 5)
    && (decide (imgByte img 14 < 64) || decide (imgByte img 14 = 255)) && decide (imgByte img 15 < 4)
    && decide (imgByte img 15 % 2 = 1) && ((img.drop 32).take 32).all fun b => decide (b = 0)

/-- A tail a + b·x. -/
def tailEval (a b x : W32) : W32 := if fvCompare (f32 b) (f32 0) = some .eq then a else f32Fma b x a

/-- The segment index of t, or none where the pseudocode names no segment (t below zero). -/
def segIndex (t : W32) (s : Nat) : Option Nat :=
  match f32 t with
  | .fin neg n e =>
    if neg && decide (n ≠ 0) then none
    else some (min (if 0 ≤ e then n * 2 ^ e.toNat else n / 2 ^ (-e).toNat) (2 ^ s - 1))
  | .inf neg => if neg then none else some (2 ^ s - 1)
  | .nan => some 0

/-- The polynomial of a segment at u, from degree d down. -/
def polyEval (c : Nat → W32) (u : W32) (d : Nat) (y : W32) : W32 :=
  match d with
  | 0 => y
  | k + 1 => polyEval c u k (f32Fma y u (c k))

/-- feval of a valid entry (08 R203); none where the pseudocode gives no value (DESIGN CHOICE, log entry 37). -/
def fevalWords (img : Nat → W32) (x : W32) : Option W32 :=
  if f32 x = .nan then some f32Nan
  else if fvCompare (f32 x) (f32 (img 0)) = some .lt then some (tailEval (img 4) (img 5) x)
  else if (fvCompare (f32 x) (f32 (img 1)) = some .gt) ∨ (fvCompare (f32 x) (f32 (img 1)) = some .eq) then
    some (tailEval (img 6) (img 7) x)
  else
    let s := (img 3).toNat % 256
    let deg := (img 3).toNat / 256 % 256
    let t := f32Mul (f32Sub x (img 0)) (img 2)
    match segIndex t s with
    | none => none
    | some j =>
      let u := f32Sub t (toF32 (fvOfInt j))
      let c := fun k => img (16 + 6 * j + k)
      some (polyEval c u deg (c deg))

/-- The code words of an entry that the evaluation of x reads: the first for its bounds, the second in a tail, and those that hold the
coefficients of its segment; none for a NaN (08 R201, R203). -/
def evalWords (img : Nat → W32) (x : W32) : List Nat :=
  if f32 x = .nan then []
  else if fvCompare (f32 x) (f32 (img 0)) = some .lt ∨ fvCompare (f32 x) (f32 (img 1)) = some .gt
      ∨ fvCompare (f32 x) (f32 (img 1)) = some .eq then [0, 1]
  else
    match segIndex (f32Mul (f32Sub x (img 0)) (img 2)) ((img 3).toNat % 256) with
    | none => [0]
    | some j => 0 :: (List.range ((img 3).toNat / 256 % 256 + 1)).map fun k => (16 + 6 * j + k) / 4

/-- Whether poison in some words of an entry reaches the evaluation of x; in the first word it reaches every number. -/
def evalMeets (bad : List Nat) (img : Nat → W32) (x : W32) : Bool :=
  !bad.isEmpty && ((bad.contains 0 && decide (f32 x ≠ .nan)) || (evalWords img x).any bad.contains)

/-! ### The rattle (08 R208 to R210) -/

def rotl32 (x : W32) (n : Nat) : W32 := x.rotateLeft n

/-- The four words of the rattle in a round. -/
structure Rat where
  a : W32
  b : W32
  c : W32
  d : W32
deriving DecidableEq, Repr

/-- The four key words. -/
def keyWord (key : W128) (k : Nat) : W32 := BitVec.ofNat 32 (key.toNat / 2 ^ (32 * (k % 4)))

/-- One round r. -/
def ratRound (key : W128) (s : Rat) (r : Nat) : Rat :=
  let a := s.a + s.b
  let d := rotl32 (s.d ^^^ a) 16
  let c := s.c + d
  let b := rotl32 (s.b ^^^ c) 12
  let a := a + b
  let d := rotl32 (d ^^^ a) 8
  let c := c + d
  let b := rotl32 (b ^^^ c) 7
  ⟨a + keyWord key (r + 1) + BitVec.ofNat 32 r, b, c, d⟩

/-- rattle(a, b, c, d) under a key. -/
def rattle (key : W128) (a b c d : W32) : W32 :=
  let s := (List.range 8).foldl (ratRound key)
    ⟨a ^^^ keyWord key 0, b ^^^ keyWord key 1, c ^^^ keyWord key 2, d ^^^ keyWord key 3⟩
  s.a ^^^ s.c

/-- The kept scale 4,096/T (08 R210). -/
def keepScale (t : Nat) : W32 := if t = 0 then 0 else BitVec.ofNat 32 (fDiv fp32 (fvOfInt 4096) (fvOfInt t))

/-- Whether a lane with an index is kept. -/
def ratKeep (key : W128) (sub : W32) (step : BitVec 48) (imm : Nat) (idx : W32) : Bool :=
  let layer := imm % 65536
  let t := imm / 65536 % 4096
  let c : W32 := BitVec.ofNat 32 (layer + step.toNat / 2 ^ 32 * 65536)
  decide ((rattle key idx sub c (step.setWidth 32)).toNat / 2 ^ 20 < t)

/-- One lane of RDROP (`mask` false) or RMASK. -/
def ratLane (mask : Bool) (key : W128) (sub : W32) (step : BitVec 48) (imm : Nat) (a idx : W32) : W32 :=
  let v := if ratKeep key sub step imm idx then keepScale (imm / 65536 % 4096) else 0
  if mask then v else f32Mul a v

/-! ### Sums in an order that is not published -/

/-- Add values two at a time, each addition rounded to FP32, in the order and grouping that a code picks: with n values
left, the code names the two to add next (06 R139, R142, R156; DESIGN CHOICE, log entry 10). -/
def sumTree (code : Nat) (n : Nat) (l : List FVal) : FVal :=
  match n with
  | 0 => (l.head?).getD (.fin false 0 0)
  | k + 1 =>
    if l.length ≤ 1 then (l.head?).getD (.fin false 0 0)
    else
      let i := code % l.length
      let l1 := l.eraseIdx i
      let j := code / l.length % l1.length
      let x := (l[i]?).getD (.fin false 0 0)
      let y := (l1[j]?).getD (.fin false 0 0)
      sumTree (code / l.length / l1.length) k (f32 (toF32 (fvAdd x y)) :: l1.eraseIdx j)

/-- The FP32 sum of a list in such an order. -/
def freeSum (code : Nat) (l : List FVal) : W32 := toF32 (sumTree code l.length l)

end Sys2Proof.Machine
end

