-- ==== Sys2Proof/Machine/ArrayUnit.lean ====
section
/-! DEFINITION. Matrix arrays and the matrix-vector path: conditions, fold, sources, the sums and their landing, the
drain-fused derivative, MVM (06, 09 R220 to R222). -/

namespace Sys2Proof.Machine

/-! ### Pairs and the fold (06 R140 to R152) -/

/-- What a pair of formats makes of a product. -/
inductive PairKind where
  | fp | int8 | mx | mxint | fp32
deriving DecidableEq, Repr

/-- The pairs of 06 Table 6-2, with the packing factor. -/
def pairOf (a b : Nat) : Option (PairKind × Nat) :=
  let narrow := fun c => decide (3 ≤ c) && decide (c ≤ 6)
  let mx86 := fun c => decide (10 ≤ c) && decide (c ≤ 13)
  if a = b ∧ (a = 1 ∨ a = 2) then some (.fp, 1)
  else if a = 0 ∧ b = 0 then some (.fp32, 1)
  else if narrow a && narrow b then some (.fp, 2)
  else if a = 7 ∧ b = 7 then some (.fp, 4)
  else if a = 8 ∧ b = 8 then some (.int8, 2)
  else if mx86 a && mx86 b then some (.mx, 2)
  else if a = 14 ∧ b = 14 then some (.mx, 4)
  else if a = 15 ∧ b = 15 then some (.mxint, 2)
  else none

/-- The pairs that the matrix-vector path does not take (06 R154). -/
def offPath (k : PairKind) : Bool := k == .fp32 || k == .int8 || k == .mxint

/-- The charge b of 06 Table 6-9, in 32nds of a byte. -/
def charge32 (fmt : Nat) : Nat := if fmt = 1 ∨ fmt = 2 then 64 else if isBlockFmt fmt then 33 else 32

/-- A product's fold: kind and packing, chain length, rows and clk per pass, bank stride, reduction length, chunk, group,
result columns, routing, latency and distance. -/
structure Fold where
  kind : PairKind
  c : Nat
  whole : Bool
  p : Nat
  mr : Nat
  m : Nat
  w : Nat
  red : Nat
  chunk : Nat
  g : Nat
  cols : Nat
  routed : Bool
  lat : Nat
  dist : Nat
deriving DecidableEq, Repr

/-- Members of a tile's owning membership. -/
def tcN (t : TileCfg) : Nat := maskCount t.mask
def tcBr (t : TileCfg) : Nat := cfgBr t.word
def tcBc (t : TileCfg) : Nat := cfgBc t.word (tcN t)
def tcGr (t : TileCfg) : Nat := cfgGr t.word
def tcGc (t : TileCfg) : Nat := cfgGc t.word (tcN t)

/-- Whether the fold accepts the layouts (06 Table 6-6). -/
def layoutOk (a b : TileCfg) (trans : Bool) : Bool :=
  if cfgRepl b.word then !(cfgRepl a.word) && decide (tcGr a = tcN b) && decide (tcGc a = 1)
  else cfgRepl a.word
    || (if trans then decide (tcGr a = tcGr b) && decide (tcGc a = tcGc b)
        else decide (tcGr a = tcGc b) && decide (tcGc a = tcGr b))

/-- The reduction group G (06 R152, R153). -/
def groupOf (k : PairKind) (gs : BitVec 2) : Nat :=
  if k == .mx || k == .mxint then (if gs.toNat < 2 then 32 else if gs = 2 then 64 else 128) else 0

/-- The fold of a product of two tiles (06 R147 to R154); `thr` is the routing threshold. -/
def foldOf (kind : PairKind) (c : Nat) (a b : TileCfg) (trans : Bool) (gs : BitVec 2) (mvf : Bool) (thr : Nat) : Fold :=
  let whole := cfgRepl b.word
  let p := if whole then 1 else if trans then tcGc b else tcGr b
  let rows := cfgRows a.word
  let mr := if p = 1 then (if whole then tcBr a else rows) else max (ceilDiv rows p) 8
  let m := if kind = .fp32 then ceilDiv (3 * mr) 2 else mr
  let red := cfgCols a.word
  let cols := if trans then cfgRows b.word else cfgCols b.word
  let routed := !(offPath kind) && (mvf || decide (rows = 1) || decide (cols = 1) || decide (rows < thr))
  let dist := if routed then ceilDiv (mr * tcBr b * tcBc b * charge32 (cfgFmt b.word)) (2048 * 32) else p * m
  { kind := kind, c := c, whole := whole, p := p, mr := mr, m := m, w := if trans then 128 else 128 * c, red := red,
    chunk := if whole then red else if trans then tcBc b else tcBr b, g := groupOf kind gs, cols := cols, routed := routed,
    lat := (if routed then 24 else 268) + dist, dist := dist }

/-- Conditions of TMM and TMMD, in the order of 05 R129; on an empty group the operation does nothing (02 R41). -/
def condProd (drain : Bool) (o : TeProd) (s : State) : Cond :=
  let a := tileCfg s o.ta.toNat
  let b := tileCfg s o.tb.toNat
  let mask := groupMask s o.gn.toNat
  let trans := bit o.orr 0
  let fa := cfgFmt a.word
  let fb := cfgFmt b.word
  let pre := firstCond
    [(bit o.orr 1, 1, 5),
     (decide (mask ≠ 0) && (!(cfgEn a.word) || !(cfgEn b.word)), 6, 9),
     (decide (mask ≠ 0) && (decide (mask ≠ a.mask) || decide (mask ≠ b.mask)), 6, 10)]
  match pre with
  | some f => some f
  | none =>
    if mask = 0 then none else
    match pairOf fa fb with
    | none => some (0xB, 1)
    | some (kind, c) =>
      let f := foldOf kind c a b trans o.gs o.mvf (objGet s 0x2010 1)
      let blk := decide (f.g ≠ 0)
      firstCond
        [((kind == .fp32 && trans) || (offPath kind && o.mvf) || (drain && kind == .int8), 0xB, 1),
         (decide (o.gs ≠ 0) && !blk, 0xB, 2),
         (decide (f.red ≠ (if trans then cfgCols b.word else cfgRows b.word)), 5, 1),
         (!(layoutOk a b trans) || decide (128 < tcBr b) || decide ((if kind == .fp32 then 64 else 128 * c) < tcBc b)
            || (blk && decide ((if trans then tcBc b else tcBr b) % f.g ≠ 0)), 5, 3),
         (blk && decide (f.red % f.g ≠ 0), 5, 4),
         (blk && (cfgBd a.word || decide (cfgBd b.word = trans)), 5, 5),
         (decide (16384 < f.mr * f.w), 5, 2)]

/-! ### Where things lie -/

/-- The fold of a product in flight. -/
def prodFold (p : Prod) : Fold :=
  match pairOf (cfgFmt p.cfgA.word) (cfgFmt p.cfgB.word) with
  | some (k, c) =>
    let f := foldOf k c p.cfgA p.cfgB p.trans 0 false 0
    { f with g := p.g, routed := p.routed }
  | none => foldOf .fp 1 p.cfgA p.cfgB p.trans 0 false 0

/-- The slice of a group position. -/
def prodSlice (p : Prod) (k : Nat) : Nat := (members p.cfgB.mask).getD k 0

/-- Chain position and first result column of the k-th slice (06 Table 6-7). -/
def shareBeta (p : Prod) (f : Fold) (k : Nat) : Nat := if f.whole then k else if p.trans then k % tcGc p.cfgB else k / tcGc p.cfgB
def shareCol (p : Prod) (f : Fold) (k : Nat) : Nat :=
  if f.whole then 0 else if p.trans then k / tcGc p.cfgB * tcBr p.cfgB else k % tcGc p.cfgB * tcBc p.cfgB

/-- How many result columns the k-th slice writes. -/
def shareWidth (p : Prod) (f : Fold) (k : Nat) : Nat :=
  min (if p.trans then tcBr p.cfgB else tcBc p.cfgB) (f.cols - shareCol p f k)

/-- The group position of chain position `pos` in the chain of the k-th slice (06 Table 6-6). -/
def chainSlice (p : Prod) (f : Fold) (k pos : Nat) : Nat :=
  if f.whole then k
  else if p.trans then k / tcGc p.cfgB * tcGc p.cfgB + pos else pos * tcGc p.cfgB + k % tcGc p.cfgB

/-- The chain position of the k-th slice. -/
def chainPos (p : Prod) (f : Fold) (k : Nat) : Nat := if f.whole then 0 else shareBeta p f k

/-- How many elements of the reduction a chain position holds. -/
def chunkLen (f : Fold) (pos : Nat) : Nat := min f.chunk (f.red - pos * f.chunk)

/-- Where the k-th slice's array gets row i of pass q: source slice, local row, first column; none for padding (06 R149,
R150). -/
def rowSource (p : Prod) (f : Fold) (k q i : Nat) : Option (Nat × Nat × Nat) :=
  let pos := chainPos p f k
  let beta := if f.whole then k else (pos + q + 1) % f.p
  let r := beta * f.mr + i
  if cfgRows p.cfgA.word ≤ r then none
  else if f.whole then some (prodSlice p k, i, 0)
  else if cfgRepl p.cfgA.word then some (prodSlice p k, r, pos * f.chunk)
  else
    let across := if p.trans then tcGc p.cfgB else tcGr p.cfgB
    some (prodSlice p (r / tcBr p.cfgA * across + pos), r % tcBr p.cfgA, 0)

/-- The read clk and the landing clk of a row (06 R150, R151, R142, R154). -/
def rowReadClk (p : Prod) (f : Fold) (q i : Nat) : Nat :=
  if f.routed then p.issued + 7 else p.issued + 6 + q * f.m + (if f.kind = .fp32 then 3 * (i / 2) else i)
def rowLandClk (p : Prod) (f : Fold) (i : Nat) : Nat :=
  if f.routed then p.issued + f.lat
  else if f.kind = .fp32 then
    p.issued + 269 + (f.p - 1) * f.m + 3 * (i / 2) + (if f.mr % 2 = 1 ∧ i + 1 = f.mr then 1 else 2)
  else p.issued + 269 + (f.p - 1) * f.m + i

/-! ### Products in flight -/

def prodGet (s : State) (op : Nat) : Option Prod := s.tiles.prods.find? fun p => decide (p.op = op)
def prodPut (s : State) (p : Prod) : State :=
  s.onTiles fun t => { t with prods := t.prods.map fun x => if x.op = p.op then p else x }

/-- The poison fault of a product or of MVM (06 R157, R158; 03 R481). -/
def poisonFault (slot : BitVec 3) (sub slice : Nat) (fa : W64) (level : BitVec 2) (bundle : IAddr) (op : Nat) : Deferred :=
  { code := 7, sub := BitVec.ofNat 8 sub, faddr := fa, slot := slot, slice := slice, level := level, bundle := bundle,
    op := op, replay := none, clk := 0 }

/-- The fault at the lowest of the slices that met poison, each with its FADDR. -/
def raisePoisonAt (s : State) (slot : BitVec 3) (sub : Nat) (slices : List (Nat × W64)) (level : BitVec 2) (bundle : IAddr)
    (op : Nat) : State :=
  match slices with
  | [] => s
  | x :: r =>
    let low := r.foldl (fun a b => if b.1 < a.1 then b else a) x
    pushOnce s (poisonFault slot sub low.1 low.2 level bundle op)

/-- The same for poison in a register file, which has no physical address. -/
def raisePoison (s : State) (slot : BitVec 3) (sub : Nat) (slices : List Nat) (level : BitVec 2) (bundle : IAddr) (op : Nat) :
    State :=
  raisePoisonAt s slot sub (slices.map fun x => (x, 0)) level bundle op

/-- The cells of one slice moved from one store to another, replacing what the slice held there. -/
def copyCells {α : Type} [DecidableEq α] (d : α) (slice : Nat) (src dst : Store α) : Store α :=
  let mine := fun k : Nat => decide (k / 131072 = slice)
  (storeFilter mine src).foldl (fun m e => storeSet d m e.1 e.2) (storeFilter (fun k => !(mine k)) dst)

/-- Whether a group of G reads the scale byte of reduction index j: that of its first 32-element block only (06 R153). -/
def scaleRead (g j : Nat) : Bool := decide (g ≤ 32) || decide (j / 32 % (g / 32) = 0)

/-- Whether a cell or scale position belongs to a tile's block, and, for a scale, is read with groups of G; positions that the block
does not cover hold zero (06 R139). -/
def cellCovered (tc : TileCfg) (g k : Nat) : Bool :=
  let x := k % 131072
  let y := x - 65536
  let br := tcBr tc
  let bc := tcBc tc
  if x < 65536 then decide (x / 512 < br) && decide (x % 512 < bc)
  else if cfgBd tc.word then decide (y / 512 < ceilDiv br 32) && decide (y % 512 < bc) && scaleRead g (y / 512 * 32)
  else decide (y / 16 < br) && decide (y % 16 < ceilDiv bc 32) && scaleRead g (y % 16 * 32)

/-- The words of a tile's fragment block that a product reads, and those of its scales. -/
def blockWords (slice t : Nat) (tc : TileCfg) (g : Nat) : List Nat × List Nat :=
  let fmt := cfgFmt tc.word
  let bc := tcBc tc
  let bd := cfgBd tc.word
  let cells := (List.range (tcBr tc)).flatMap fun r => (List.range bc).map fun c => (r, c)
  (cells.flatMap fun rc => codeWords (fragPos slice t bc fmt rc.1 rc.2) (codeWidth fmt),
   if isBlockFmt fmt then
     (cells.filter fun rc => scaleRead g (if bd then rc.1 else rc.2)).flatMap fun rc => codeWords (scalePos slice t bc bd rc.1 rc.2) 8
   else [])

/-- The block of a tile in a slice's fragment, by cell: values and poison. -/
def fragBlock (s : State) (slice t : Nat) (tc : TileCfg) : Store Nat × Store Bool :=
  let fmt := cfgFmt tc.word
  let bc := tcBc tc
  let bd := cfgBd tc.word
  ((List.range (tcBr tc)).flatMap fun r => (List.range bc).map fun c => (r, c)).foldl (fun acc rc =>
    let pos := fragPos slice t bc fmt rc.1 rc.2
    let v := bitsGet s.tiles.frag pos (codeWidth fmt)
    let bad := bitsBad s.tiles.fragMark pos (codeWidth fmt)
    let k := cellPos slice rc.1 rc.2
    let vals := storeSet 0 acc.1 k v
    let bads := storeSet false acc.2 k bad
    if isBlockFmt fmt then
      let sp := scalePos slice t bc bd rc.1 rc.2
      let ks := cellScale slice bd rc.1 rc.2
      (storeSet 0 vals ks (bitsGet s.tiles.bscale sp 8), storeSet false bads ks (bitsBad s.tiles.bscaleMark sp 8))
    else (vals, bads)) ([], [])

/-- The two BF16 parts of an FP32 element (06 R142). -/
def splitHi (x : Nat) : Nat := fEncode bf16 (fDecode fp32 x)
def splitLo (x : Nat) : Nat := fEncode bf16 (fvAdd (fDecode fp32 x) (fvNeg (fDecode bf16 (splitHi x))))

/-- Whether an entry holds its vendor image (08 R204). -/
def vendorHeld (s : State) (slice e : Nat) : Bool :=
  s.elem.vendor && decide (e < 16) && !(storeGet false s.elem.vendorOver (slice * 64 + e))

/-- LO, HI and S of a vendor entry (08 Table 8-4a), as FP32 patterns and a number. -/
def vendorSpan (e : Nat) : Nat × Nat × Nat :=
  match e / 2 with
  | 0 | 4 | 5 => (0xC1800000, 0x41800000, 5)
  | 1 | 2 | 3 => (0xC1000000, 0x41000000, 5)
  | 6 => (0, 0x3F800000, 3)
  | _ => (0x3F800000, 0x40000000, 4)

/-- The left tail LA, LB and the right tail RA, RB of a vendor entry: its function's limits (08 R204); none where the function has no such
limit. SiLU's LA and LB are those that R204 gives (DEDUCED, log entry 13). -/
def vendorTails (e : Nat) : Option (List Nat) × Option (List Nat) :=
  match e with
  | 0 => (some [0, 0], some [0x3F800000, 0])
  | 1 | 3 => (some [0, 0], some [0, 0])
  | 2 => (some [0xBF800000, 0], some [0x3F800000, 0])
  | 4 | 6 | 10 => (some [0, 0], some [0, 0x3F800000])
  | 8 => (some [0, 0x3F800000], some [0, 0x3F800000])
  | 5 | 7 | 9 | 11 => (some [0, 0], some [0x3F800000, 0])
  | 12 | 13 => (some [0, 0], none)
  | 15 => (none, some [0, 0])
  | _ => (none, none)

/-- Bytes of a vendor entry that the text does not print. -/
def vendorFree (e ofs n : Nat) : List Byte := (List.range n).map fun i => (Config.vendorEntry e).getD (ofs + i) 0

/-- The image of a vendor entry (08 R202, R204): INVW is 2^S / (HI − LO), PAIR points forward to the derivative; the coefficients are
free values (DESIGN CHOICE, log entry 13). -/
def vendorImage (e : Nat) : List Byte :=
  let t := vendorSpan e
  let invw := f32Div (toF32 (fvOfInt (2 ^ t.2.2))) (f32Sub (BitVec.ofNat 32 t.2.1) (BitVec.ofNat 32 t.1))
  leBytes 4 t.1 ++ leBytes 4 t.2.1 ++ leBytes 4 invw.toNat
    ++ [BitVec.ofNat 8 t.2.2, 5, if e % 2 = 0 then BitVec.ofNat 8 (e + 1) else 255, if e % 2 = 0 then 1 else 3]
    ++ (match (vendorTails e).1 with
        | some l => l.flatMap (leBytes 4)
        | none => vendorFree e 16 8)
    ++ (match (vendorTails e).2 with
        | some l => l.flatMap (leBytes 4)
        | none => vendorFree e 24 8)
    ++ List.replicate 32 0 ++ vendorFree e 64 768

/-- The 832-byte image of a function entry of a slice. -/
def entryImage (s : State) (slice e : Nat) : List Byte :=
  if vendorHeld s slice e then vendorImage e
  else storeGetMany 0 s.elem.table ((slice * 64 + e) * 832) 832
/-- The words of an entry that are poison, but for the two reserved ones, which feed nothing. -/
def entryMarks (s : State) (slice e : Nat) : List Nat :=
  if vendorHeld s slice e || s.elem.tableMark.isEmpty then []
  else (List.range 52).filter fun w => decide (w ≠ 2 ∧ w ≠ 3) && badMark (storeGet .good s.elem.tableMark ((slice * 64 + e) * 52 + w))
/-- Whether the first word of an entry, with its bounds, V and PAIR, is poison. -/
def headBad (s : State) (slice e : Nat) : Bool :=
  !(vendorHeld s slice e) && badMark (storeGet .good s.elem.tableMark ((slice * 64 + e) * 52))
/-- The words of an entry of a slice that its file holds: none while the vendor image stands there. -/
def entryWords (s : State) (slice e : Nat) : List Nat :=
  if vendorHeld s slice e then [] else (List.range 52).map fun w => (slice * 64 + e) * 52 + w

/-- The words that an evaluation through PAIR reads: of the naming entry the one that holds PAIR, and the entry it names. -/
def pairWords (s : State) (slice e : Nat) (pair : Option Nat) : List Nat :=
  (entryWords s slice e).take 1 ++ match pair with
    | none => []
    | some x => entryWords s slice x

/-- Whether an entry evaluates. -/
def entryValid (s : State) (slice e : Nat) : Bool :=
  vendorHeld s slice e || storeGet false s.elem.tableValid (slice * 64 + e)

/-- The entry that FDRV and TMMD evaluate: the PAIR of an entry, if both are valid (08 R203, 09 R222). -/
def pairEntry (s : State) (slice e : Nat) : Option Nat :=
  let pair := imgByte (entryImage s slice e) 14
  if entryValid s slice e && decide (pair ≠ 255) && entryValid s slice pair then some pair else none

/-- Whether poison leaves open what an evaluation through PAIR evaluates: in the word of the naming entry that holds PAIR, or in the first
word of the entry it names (08 R201). -/
def pairHeadBad (s : State) (slice e : Nat) : Bool :=
  let pair := imgByte (entryImage s slice e) 14
  headBad s slice e || (entryValid s slice e && decide (pair ≠ 255) && headBad s slice pair)

/-- The stationary block of one slice read at t + 7, with what the read leaves in the weight registers (06 R143, R145). -/
def takeBlock (s : State) (p : Prod) (f : Fold) (slice : Nat) : State × Store Nat × Store Bool :=
  let src := storeGet 0 p.source slice
  let mine := fun k : Nat => decide (k / 131072 = slice) && cellCovered p.cfgB 0 k
  let read := fun k : Nat => decide (k / 131072 = slice) && cellCovered p.cfgB f.g k
  if src = 2 then (s, storeFilter read s.tiles.activeVals, storeFilter read s.tiles.activeBad)
  else if src = 1 then
    (s.onTiles fun t => { t with
      activeVals := copyCells 0 slice (storeFilter mine t.shadowVals) t.activeVals,
      activeBad := copyCells false slice (storeFilter mine t.shadowBad) t.activeBad },
     storeFilter read s.tiles.shadowVals, storeFilter read s.tiles.shadowBad)
  else
    let s := meetAll s.tiles.fragMark meetFrag s (blockWords slice p.tb p.cfgB f.g).1
    let s := meetAll s.tiles.bscaleMark meetScale s (blockWords slice p.tb p.cfgB f.g).2
    let b := fragBlock s slice p.tb p.cfgB
    let both := fun g : Nat → Nat => b.1.foldl (fun m e => storeSet 0 (storeSet 0 m e.1 (g e.2)) (e.1 + 64) (g e.2)) []
    let bothBad := b.2.foldl (fun m e => storeSet false (storeSet false m e.1 e.2) (e.1 + 64) e.2) []
    (s.onTiles fun t => { t with
      activeVals := copyCells 0 slice (if f.kind = .fp32 then both splitHi else b.1) t.activeVals,
      activeBad := copyCells false slice (if f.kind = .fp32 then bothBad else b.2) t.activeBad,
      shadowVals := if f.kind = .fp32 then copyCells 0 slice (both splitLo) t.shadowVals else t.shadowVals,
      shadowBad := if f.kind = .fp32 then copyCells false slice bothBad t.shadowBad else t.shadowBad },
     storeFilter read b.1, storeFilter read b.2)

/-- Where a product keeps, beside the poison of a slice's block, that of word w of its derivative entry; 52: what it evaluates is open. -/
def entryFlag (slice w : Nat) : Nat := slice * 131072 + 131000 + w

/-- The stationary reads of a product, in every slice, in clk t + 7; for TMMD the derivative entry is read too (09 R221), but with a
reduction of length zero it raises no fault, and with ACC = 1 as well nothing is read (06 R155, 09 R222). -/
def prodBlock (s : State) (op : Nat) : State :=
  match prodGet s op with
  | none => s
  | some p =>
    let f := prodFold p
    let ms := members p.cfgB.mask
    let r := ms.foldl (fun acc sl =>
      let t := takeBlock acc.1 p f sl
      (t.1, acc.2.1 ++ t.2.1, acc.2.2 ++ t.2.2)) (s, ([] : Store Nat), ([] : Store Bool))
    let s := (ms.filter fun sl => decide (storeGet 0 p.source sl ≠ 2)).foldl (fun s sl => endLoad (beginLoad s sl op) sl op) r.1
    let bads := ms.filter fun sl => (r.2.2.filter fun e => decide (e.1 / 131072 = sl)).any fun e => e.2
    let s := raisePoison s 2 3 bads p.level p.bundle op
    let p := { p with block := r.2.1, blockBad := r.2.2 }
    match (if f.red = 0 ∧ p.acc = true then none else p.drain) with
    | none => prodPut s p
    | some (de, _, _) =>
      let r := ms.foldl (fun acc sl =>
        match pairEntry s sl de with
        | none => acc
        | some e =>
          let img := entryImage s sl e
          ((List.range 208).foldl (fun m k => storeSet 0 m (sl * 256 + k) (imgWord img k)) acc.1,
           storeSet false acc.2 sl true)) (([] : Store W32), ([] : Store Bool))
      let s := meetAll s.elem.tableMark meetTable s (ms.flatMap fun sl => pairWords s sl de (pairEntry s sl de))
      let head := ms.filter fun sl => pairHeadBad s sl de
      let marks := ms.map fun sl => (sl, (match pairEntry s sl de with
        | some e => entryMarks s sl e
        | none => []))
      let bad := (ms.filter fun sl => head.contains sl || marks.any fun m => decide (m.1 = sl) && !m.2.isEmpty)
      let s := if f.red = 0 then s else raisePoison s 2 3 bad p.level p.bundle op
      let flags := (head.map fun sl => entryFlag sl 52) ++ marks.flatMap fun m => m.2.map (entryFlag m.1)
      prodPut s { p with
        entry := r.1, entryOk := r.2, blockBad := flags.foldl (fun m k => storeSet false m k true) p.blockBad }

/-- One streamed row of a pass, in every slice (06 R150). -/
def prodRow (s : State) (op q i : Nat) : State :=
  match prodGet s op with
  | none => s
  | some p =>
    let f := prodFold p
    let fmt := cfgFmt p.cfgA.word
    let bc := tcBc p.cfgA
    let from' := (List.range (tcN p.cfgB)).filterMap fun k => (rowSource p f k q i).map fun x => (x, chunkLen f (chainPos p f k))
    let s := meetAll s.tiles.fragMark meetFrag s (from'.flatMap fun x => (List.range x.2).flatMap fun j =>
      codeWords (fragPos x.1.1 p.ta bc fmt x.1.2.1 (x.1.2.2 + j)) (codeWidth fmt))
    let s := if isBlockFmt fmt then meetAll s.tiles.bscaleMark meetScale s (from'.flatMap fun x =>
        ((List.range x.2).filter (scaleRead f.g)).flatMap fun j => codeWords (scalePos x.1.1 p.ta bc false x.1.2.1 (x.1.2.2 + j)) 8)
      else s
    let got := (List.range (tcN p.cfgB)).filterMap fun k =>
      match rowSource p f k q i with
      | none => none
      | some (sl, r, c0) =>
        let n := chunkLen f (chainPos p f k)
        let els := (List.range n).map fun j => bitsGet s.tiles.frag (fragPos sl p.ta bc fmt r (c0 + j)) (codeWidth fmt)
        let scs := if isBlockFmt fmt then
            (List.range (ceilDiv n 32)).map fun b => bitsGet s.tiles.bscale (scalePos sl p.ta bc false r (c0 + 32 * b)) 8
          else []
        let bad := (List.range n).map fun j =>
          bitsBad s.tiles.fragMark (fragPos sl p.ta bc fmt r (c0 + j)) (codeWidth fmt)
            || (isBlockFmt fmt && scaleRead f.g j && bitsBad s.tiles.bscaleMark (scalePos sl p.ta bc false r (c0 + j)) 8)
        some (sl, (q * 256 + k) * 2048 + i, els, scs, bad)
    let s := raisePoison s 2 3 ((got.filter fun g => g.2.2.2.2.any id).map fun g => g.1) p.level p.bundle op
    prodPut s { p with rows := p.rows ++ got.map fun g => g.2 }

/-- A streamed row as captured. -/
def rowOf (p : Prod) (q k i : Nat) : List Nat × List Nat × List Bool :=
  match p.rows.find? fun r => decide (r.1 = (q * 256 + k) * 2048 + i) with
  | some r => r.2
  | none => ([], [], [])

/-! ### Sums -/

/-- The stationary element, its scale byte, and its poison, for reduction index j of a chunk and output x. -/
def statOf (p : Prod) (slice j x : Nat) : Nat × Nat × Bool :=
  let r := if p.trans then x else j
  let c := if p.trans then j else x
  let ks := cellScale slice (cfgBd p.cfgB.word) r c
  let blk := isBlockFmt (cfgFmt p.cfgB.word)
  (storeGet 0 p.block (cellPos slice r c), if blk then storeGet 0 p.block ks else 0,
   storeGet false p.blockBad (cellPos slice r c) || (blk && storeGet false p.blockBad ks))

/-- Products added to a passing sum in array order: one at a time, or cell by cell along the reduction of the transposed
orientation; on the matrix-vector path in its own order (06 R139, R140, R154). -/
def addProducts (routed trans : Bool) (c n : Nat) (acc : W32) (l : List FVal) : W32 :=
  if routed then freeSum Config.mvOrder l
  else if trans ∧ 1 < c then
    match n with
    | 0 => acc
    | k + 1 =>
      if l.isEmpty then acc
      else addProducts routed trans c k (freeSum Config.cellOrder (f32 acc :: l.take c)) (l.drop c)
  else l.foldl (fun a v => toF32 (fvAdd (f32 a) v)) acc

/-- The groups of a list. -/
def chunksOf {α : Type} (g n : Nat) (l : List α) : List (List α) :=
  match n with
  | 0 => []
  | k + 1 => if l.isEmpty then [] else l.take g :: chunksOf g k (l.drop g)

/-- One group's contribution, exact until the FP32 range is left (06 R153): above it an infinity; below it, where the rule names no rounding, it
stays exact until it is added to the running sum (DESIGN CHOICE, log entry 125). -/
def groupPart (f : Fold) (trans : Bool) (fa fb : Nat) (l : List ((Nat × Nat) × (Nat × Nat × Bool))) : FVal :=
  let eA := (l.head?.map fun x => x.1.2).getD 0
  let eB := (l.head?.map fun x => x.2.2.1).getD 0
  let raw : W32 := if f.kind = .mxint then
      toF32 (fvOfInt ((l.map fun x => signedOf 8 x.1.1 * signedOf 8 x.2.1).sum))
    else addProducts f.routed trans f.c l.length 0 (l.map fun x => fvMul (elemValue fa x.1.1) (elemValue fb x.2.1))
  if eA = 255 ∨ eB = 255 then .nan
  else
    let v := fvScale (f32 raw) ((eA : Int) + eB - 254 - (if f.kind = .mxint then 12 else 0))
    match f32 (toF32 v) with
    | .inf neg => .inf neg
    | _ => v

/-- The sum of one chunk for output x: its pattern, and whether poison fed it. -/
def chunkSum (p : Prod) (f : Fold) (slice x : Nat) (row : List Nat × List Nat × List Bool) : W32 × Bool :=
  let fa := cfgFmt p.cfgA.word
  let fb := cfgFmt p.cfgB.word
  let st := (List.range row.1.length).map fun j => statOf p slice j x
  let bad := row.2.2.any id || st.any fun w => w.2.2
  let as := row.1
  let v : W32 := match f.kind with
    | .int8 => BitVec.ofInt 32 (((as.zip st).map fun y => signedOf 8 y.1 * signedOf 8 y.2.1).sum)
    | .fp => addProducts f.routed p.trans f.c as.length 0 ((as.zip st).map fun y => fvMul (elemValue fa y.1) (elemValue fb y.2.1))
    | .fp32 =>
      let part := fun (ga gb : Nat → Nat) =>
        addProducts false false 1 0 0 ((as.zip st).map fun y => fvMul (fDecode bf16 (ga y.1)) (fDecode bf16 (gb y.2.1)))
      freeSum Config.splitOrder [f32 (part splitHi splitHi), f32 (part splitHi splitLo), f32 (part splitLo splitHi)]
    | _ =>
      let cells := ((as.zipIdx).map fun y => (y.1, row.2.1.getD (y.2 / 32) 0)).zip st
      let parts := (chunksOf f.g cells.length cells).map (groupPart f p.trans fa fb)
      if f.routed then freeSum Config.mvOrder parts else parts.foldl (fun a v => toF32 (fvAdd (f32 a) v)) 0
  (v, bad)

/-- A result element of the k-th slice: its chunks added along the chain, the slice's own chunk last (06 R149). -/
def resultOf (p : Prod) (f : Fold) (k i x : Nat) : W32 × Bool :=
  if f.red = 0 then (0, false)
  else
    let beta := if f.whole then 0 else shareBeta p f k
    let parts := (List.range f.p).map fun q =>
      let kk := chainSlice p f k ((beta + 2 * f.p - 1 - q) % f.p)
      chunkSum p f (prodSlice p kk) x (rowOf p q kk i)
    match parts with
    | [] => (0, false)
    | h :: r => r.foldl (fun a b => (if f.kind = .int8 then a.1 + b.1 else f32Add a.1 b.1, a.2 || b.2)) h

/-- The row of a result share as it lands: index, value, poison. -/
def landVals (s : State) (p : Prod) (f : Fold) (k i : Nat) : List (Nat × W32 × Bool) :=
  (List.range (shareWidth p f k)).map fun x =>
    let idx := bankIdx (prodSlice p k) p.ad (i * f.w + x)
    let r := resultOf p f k i x
    if p.acc then
      (idx, if f.kind = .int8 then bankGet s idx + r.1 else f32Add (bankGet s idx) r.1, r.2 || bankBad s idx)
    else (idx, r)

/-- The derivative of a landed element, or none where feval gives no value. -/
def drainVal (p : Prod) (slice : Nat) (scdq : Int) (v : W32) : Option W32 :=
  if storeGet false p.entryOk slice then fevalWords (fun k => storeGet 0 p.entry (slice * 256 + k)) (f32Scale v scdq)
  else some f32Nan

/-- The derivative row that follows a landed row 3 clk later (09 R221, R222). -/
def drainRow (s : State) (p : Prod) (k : Nat) (vals : List (Nat × W32 × Bool)) : State :=
  match p.drain with
  | none => s
  | some (_, db, scdq) =>
    let sl := prodSlice p k
    let head := storeGet false p.blockBad (entryFlag sl 52)
    let marks := (List.range 52).filter fun w => storeGet false p.blockBad (entryFlag sl w)
    let s := if storeGet false p.entryOk sl || head then s else objAdd s 0x7260 6 vals.length
    let free := s.cnt.free
    let out := (vals.zipIdx).map fun v =>
      let idx := v.1.1
      let dst := bankIdx sl db (idx % 16384)
      let d := (drainVal p sl scdq (bankGet s idx)).getD (BitVec.ofNat 32 (Config.freeValue (free + v.2)).toNat)
      let fed := evalMeets (if head then 0 :: marks else marks) (fun k => storeGet 0 p.entry (sl * 256 + k)) (f32Scale (bankGet s idx) scdq)
      (dst, d, bankBad s idx || fed)
    let s := s.onCnt fun c => { c with free := c.free + vals.length }
    let u := if p.routed then RUnit.mvUnit else RUnit.arrays
    schedule s (s.cnt.clk + 3) 0 p.op ((members p.cfgB.mask).map (resKey u)) (.drainLand sl db out)

/-- The landing of result row i in every slice whose share has it (06 R151, R155, R158). -/
def prodLand (s : State) (op i : Nat) : State :=
  match prodGet s op with
  | none => s
  | some p =>
    let f := prodFold p
    let ks := (List.range (tcN p.cfgB)).filter fun k =>
      decide (shareBeta p f k * f.mr + i < cfgRows p.cfgA.word) && decide (0 < shareWidth p f k)
    let s := if p.acc then meetAll s.tiles.bankMark meetBank s (ks.flatMap fun k => (List.range (shareWidth p f k)).map fun x =>
        bankIdx (prodSlice p k) p.ad (i * f.w + x) / 4) else s
    let bads := if p.acc then ks.filter fun k => (List.range (shareWidth p f k)).any fun x =>
        bankBad s (bankIdx (prodSlice p k) p.ad (i * f.w + x)) else []
    let s := raisePoison s 2 3 (bads.map (prodSlice p)) p.level p.bundle op
    ks.foldl (fun s k =>
      let vals := landVals s p f k i
      drainRow (putBank s vals) p k vals) s

/-! ### Spot samples (13 R368) -/

/-- The quarters that sample a product: one in N, the lowest slice of each quarter, where the buffer is free. -/
def sampleQuarters (s : State) (ms : List Nat) (routed : Bool) : List Nat :=
  let n := objGet s 0x4040 1
  if n = 0 ∨ routed ∨ (s.rel.products + Config.samplePhase) % n ≠ 0 then []
  else (List.range 8).filter fun q => ms.any (fun sl => decide (sl / 20 = q)) && decide (storeGet 0 s.rel.samples q = 0)

/-- Reserve the buffers of the sampled quarters: each names its sampled slice, plus one. -/
def reserveSamples (s : State) (qs ms : List Nat) : State :=
  let taken := qs.foldl (fun m q =>
    match ms.find? fun sl => decide (sl / 20 = q) with
    | some sl => storeSet 0 m q (BitVec.ofNat 16 (sl + 1))
    | none => m) s.rel.samples
  s.onRel fun r => { r with products := r.products + 1, samples := taken }

/-- The partial sum that enters a result element from the chain before the last pass. -/
def chainSum (p : Prod) (f : Fold) (k i x : Nat) : W32 :=
  let parts := (List.range (f.p - 1)).map fun q =>
    let kk := chainSlice p f k ((shareBeta p f k + 2 * f.p - 1 - q) % f.p)
    (chunkSum p f (prodSlice p kk) x (rowOf p q kk i)).1
  match parts with
  | [] => 0
  | h :: r => r.foldl (fun a b => if f.kind = .int8 then a + b else f32Add a b) h

/-- What a sample of a product holds: the block with its scales, streamed rows 0 to 7 of the last pass with theirs, the
partial sums that enter those rows, and result rows 0 to 7 before accumulation. -/
def sampleOf (p : Prod) (f : Fold) (k : Nat) : List Nat :=
  let sl := prodSlice p k
  ((storeFilter (fun e => decide (e / 131072 = sl)) p.block).flatMap fun e => [e.1, e.2])
    ++ (List.range (min 8 f.mr)).flatMap (fun i => (rowOf p (f.p - 1) k i).1 ++ (rowOf p (f.p - 1) k i).2.1)
    ++ (List.range (min 8 f.mr)).flatMap (fun i =>
        (List.range (shareWidth p f k)).flatMap fun x => [(chainSum p f k i x).toNat, (resultOf p f k i x).1.toNat])

/-- The end of a product: its samples are complete, and nothing of it is in flight. -/
def prodDone (s : State) (op : Nat) : State :=
  match prodGet s op with
  | none => s
  | some p =>
    let f := prodFold p
    let ms := members p.cfgB.mask
    let data := p.sampled.foldl (fun m q =>
      match ms.findIdx? (fun sl => decide (sl / 20 = q)) with
      | some k => storeSet [] m q (sampleOf p f k)
      | none => m) s.rel.sampleData
    let s := s.onRel fun r => { r with sampleData := data }
    s.onTiles fun t => { t with prods := t.prods.filter fun x => decide (x.op ≠ op) }

/-! ### Issue of a product -/

/-- The stationary source of each slice and the bindings after the choice (06 R143). -/
def chooseSource (s : State) (tb : Nat) (fp32' : Bool) (ms : List Nat) : State × Store Nat :=
  let src : Store Nat := ms.foldl (fun m sl =>
    storeSet 0 m sl (if fp32' then 0 else if storeGet 0 s.tiles.shadow sl = tb + 1 then 1
                     else if storeGet 0 s.tiles.active sl = tb + 1 then 2 else 0)) []
  (s.onTiles fun t => { t with
    active := ms.foldl (fun m sl => storeSet 0 m sl (tb + 1)) t.active,
    shadow := ms.foldl (fun m sl => if fp32' || decide (storeGet 0 src sl = 1) then storeSet 0 m sl 0 else m) t.shadow }, src)

/-- TMM and TMMD at issue (06 R143 to R155, 09 R220). -/
def doProd (o : TeProd) (drain : Option (Nat × Nat)) (s : State) : State :=
  let a := tileCfg s o.ta.toNat
  let b := tileCfg s o.tb.toNat
  let trans := bit o.orr 0
  match pairOf (cfgFmt a.word) (cfgFmt b.word) with
  | none => s
  | some (kind, c) =>
    if groupMask s o.gn.toNat = 0 then s else
    let f := foldOf kind c a b trans o.gs o.mvf (objGet s 0x2010 1)
    let ms := members b.mask
    let qs := sampleQuarters s ms f.routed
    let (s, src) := chooseSource s o.tb.toNat (kind == .fp32) ms
    let u := if f.routed then RUnit.mvUnit else RUnit.arrays
    let s := claim s u ms s.cnt.op s.cnt.clk f.dist
    let p : Prod :=
      { op := s.cnt.op, issued := s.cnt.clk, bundle := s.seq.pc, level := s.seq.pl, ad := o.ad.toNat, ta := o.ta.toNat,
        tb := o.tb.toNat, trans := trans, acc := o.acc, cfgA := a, cfgB := b, routed := f.routed, g := f.g, source := src,
        drain := drain.map (fun d => (d.1, d.2, signedOf 9 (storeGet 0 s.ctl.scdq o.ad.toNat).toNat)), entry := [],
        entryOk := [], block := [], blockBad := [], rows := [], sampled := qs }
    let s := reserveSamples s qs ms
    let live := fun x : Prod => s.work.any fun w => decide (w.op = x.op)
    let s := s.onTiles fun t => { t with prods := t.prods.filter live ++ [p] }
    let keys := ms.map (resKey u)
    let op := s.cnt.op
    let s := schedule s (p.issued + 7) 1 op keys (.prodBlock op)
    let s := if f.red = 0 then s
      else (List.range f.p).foldl (fun s q => (List.range f.mr).foldl (fun s i =>
        schedule s (rowReadClk p f q i) 1 op keys (.prodRow op q i)) s) s
    let s := if f.red = 0 ∧ o.acc then s
      else (List.range f.mr).foldl (fun s i => schedule s (rowLandClk p f i) 0 op keys (.prodLand op i)) s
    schedule s (p.issued + f.lat + (if drain.isSome then 3 else 0)) 1 op keys (.prodDone op)

/-! ### MVM (06 R156, R157) -/

/-- Formats the matrix-vector path takes (06 Table 6-9). -/
def mvFmtOk (fw : Nat) : Bool := decide (1 ≤ fw) && decide (fw ≤ 14) && decide (fw ≠ 8) && decide (fw ≠ 9)

/-- The condition of MVM (06 Table 6-9); none on an empty group (02 R41). -/
def condMvm (o : MvOps) (s : State) : Cond := unlessEmpty s o.gn (firstCond [(!(mvFmtOk s.seq.fw.toNat), 0xB, 1)])

/-- An LDL or LDB issued in the same clk loses the read port to an MVM (08 R198, 02 R63). -/
def takeLoad (s : State) (slice clk op : Nat) : State × Bool :=
  let key := resKey .scratchRead slice
  let u := storeGet ⟨0, 0, 0⟩ s.uses key
  if u.begin = clk ∧ clk < u.free ∧ u.op ≠ op then (dropWork s u.op key (clk + beginLag .mvUnit), true) else (s, false)

/-- An MVM takes the read port from tile loads, shadow weight loads and long-vector loads still within their distance, from the clk it
begins (06 R156, 02 R63, 08 R198). -/
def takePort (s : State) (ms : List Nat) (clk op : Nat) : State :=
  let r := ms.foldl (fun acc sl =>
    let v := takeLoad acc.1 sl clk op
    (inFlight v.1 sl 0 ++ inFlight v.1 sl 2).foldl (fun acc x =>
      if clk < x.1.base + mvDist x.1 then
        (dropWork acc.1 x.1.op (resKey (mvUnitOf x.1.kind) sl) (clk + beginLag .mvUnit), true)
      else acc) (v.1, acc.2 || v.2)) (s, false)
  if r.2 then objAdd r.1 0x7230 1 1 else r.1

/-- MVM at issue: the vector and MODE.FW are read and latched. Its distance is known once its header is read. -/
def doMvm (o : MvOps) (s : State) : State :=
  let ms := members (groupMask s o.gn.toNat)
  if ms.isEmpty then s
  else
    let s := meetAll s.elem.lMark meetLane s (ms.flatMap fun sl => (List.range 64).map fun w => laneIdx sl o.lv.toNat (4 * w) / 4)
    let j : MvJob := { taken := [], ad := o.ad.toNat, acc := o.acc, addr := getX s o.xa.toNat, fw := s.seq.fw.toNat,
                       vec := ms.map fun sl => (sl, lanesOf s sl o.lv.toNat), level := s.seq.pl, bundle := s.seq.pc,
                       op := s.cnt.op, base := s.cnt.clk }
    let s := takePort (claim s .mvUnit ms j.op j.base 0) ms j.base j.op
    schedule s (j.base + 3) 1 j.op [] (.mvmStart j)

/-- The replay words of MVM (06 R157). -/
def mvReplay (j : MvJob) : W64 × W64 × W64 × W64 :=
  (BitVec.ofNat 64 (j.addr.toNat % (if j.level = 3 then 2 ^ 48 else 2 ^ 52)), BitVec.ofNat 64 (j.ad + b2n j.acc * 32), 0, 0)

/-- The header of a weight matrix: K and N (06 Table 6-8). -/
def mvHeader (bs : List Byte) : Nat × Nat := (ofLe bs % 256 + 1, ofLe bs / 256 % 16384 + 1)

/-- The bytes that a matrix's header, rows and scales take. -/
def mvRowPitch (n w : Nat) : Nat := 64 * ceilDiv (n * w) 512
def mvExtent (k n fw : Nat) : Nat :=
  64 + k * mvRowPitch n (codeWidth fw) + (if isBlockFmt fw then ceilDiv k 32 * n else 0)

/-- Whether a byte of a matrix holds part of its header's K and N, of a weight or of a scale; the others feed nothing (06 Table 6-8). -/
def mvUsed (k n fw b : Nat) : Bool :=
  let pw := mvRowPitch n (codeWidth fw)
  decide (b < 3) || (decide (64 ≤ b) && (if b < 64 + k * pw then decide ((b - 64) % pw * 8 < n * codeWidth fw) else true))

/-- y[nn] of one slice: the value and whether poison fed it. -/
def mvOut (j : MvJob) (k n : Nat) (vec : List (W32 × Bool)) (bs : List Byte) (bad : List Bool) (nn : Nat) : W32 × Bool :=
  let w := codeWidth j.fw
  let pw := mvRowPitch n w
  let prods := (List.range k).map fun kk =>
    let pos := (64 + kk * pw) * 8 + nn * w
    let nb := (pos % 8 + w + 7) / 8
    let x := ofLe ((bs.drop (pos / 8)).take nb) / 2 ^ (pos % 8) % 2 ^ w
    let so := 64 + k * pw + kk / 32 * n + nn
    let v := if isBlockFmt j.fw then mxValue j.fw x (bs.getD so 0).toNat else elemValue j.fw x
    let xv := fDecode bf16 (fEncode bf16 (f32 ((vec.map (·.1)).getD kk 0)))
    (fvMul xv v, ((List.range nb).any fun b => bad.getD (pos / 8 + b) false)
      || (isBlockFmt j.fw && bad.getD so false) || (vec.map (·.2)).getD kk false)
  (freeSum Config.mvOrder (prods.map (·.1)), prods.any (·.2) || ((bad.take 3).any id))

/-- A fault on MVM's weights: nothing is written, the operation stays latched for its replay. -/
def mvFault (s : State) (j : MvJob) (c u : Nat) (fa : W64) : State :=
  let sl := (j.vec.head?.map (·.1)).getD 0
  let d : Deferred := { code := BitVec.ofNat 8 c, sub := BitVec.ofNat 8 u, faddr := fa, slot := 4, slice := sl,
                        level := j.level, bundle := j.bundle, op := j.op, replay := some (mvReplay j), clk := 0 }
  (pushOnce s d).onTiles fun t => { t with mvLatch := t.mvLatch ++ [(j.op, j)] }

/-- The issue clk of the first operation that took a slice's unit or read port from an MVM within its distance d, and the counter that
the takeover goes to. -/
def firstTaker (s : State) (j : MvJob) (d slice : Nat) : Option (Nat × Nat) :=
  let u := storeGet ⟨0, 0, 0⟩ s.uses (resKey .scratchRead slice)
  let port := if u.op ≠ j.op ∧ j.base < u.begin then [(resKey .scratchRead slice, u.begin)] else []
  let mine := (j.taken ++ port).filter fun t =>
    (decide (t.1 = resKey .mvUnit slice) || decide (t.1 = resKey .scratchRead slice)) && decide (t.2 < j.base + d)
  match mine with
  | [] => none
  | x :: r =>
    let low := r.foldl (fun a b => if b.2 < a.2 then b else a) x
    some (low.2, if low.1 = resKey .mvUnit slice then 2 else 1)

/-- The first poisoned byte of a span read from a slice's scratch, by physical address. -/
def badAddr (slice : Nat) (parts : List (Nat × Nat)) (bad : List Bool) : Option W64 :=
  let at' := parts.flatMap fun p => (List.range p.2).map fun i => scratchAddr slice (p.1 + i)
  ((at'.zip bad).find? fun x => x.2).map fun x => BitVec.ofNat 64 x.1

/-- MVM's detection and weight read, 3 clk after its base (06 R157 gives that clk for the detection; DEDUCED, log entry 16). -/
def mvmStart (s : State) (j : MvJob) : State :=
  if j.addr.toNat % 64 ≠ 0 then mvFault s j 2 3 j.addr
  else
    match localSpan s j.level j.addr 64 false 3 with
    | (s, .inr f) => mvFault s j f.1 f.2.1 f.2.2
    | (s, .inl hp) =>
      let first := (j.vec.head?.map (·.1)).getD 0
      let (s, hb, hbad) := readSpan s first hp
      let kn := mvHeader hb
      match localSpan s j.level j.addr (mvExtent kn.1 kn.2 j.fw) false 10 with
      | (s, .inr f) => mvFault s j f.1 f.2.1 f.2.2
      | (s, .inl parts) =>
        let d := ceilDiv (kn.1 * kn.2 * charge32 j.fw) (2048 * 32)
        let live := j.vec.filter fun v => (firstTaker s j d v.1).isNone
        let s := ((j.vec.filterMap fun v => firstTaker s j d v.1).eraseDups).foldl (fun s t => objAdd s 0x7230 t.2 1) s
        let hold := fun (u : Store Use) (k : Nat) =>
          if (storeGet ⟨0, 0, 0⟩ u k).begin ≤ j.base then storeSet ⟨0, 0, 0⟩ u k ⟨j.op, j.base, j.base + d⟩ else u
        let s := { s with uses := live.foldl (fun u v => hold (hold u (resKey .mvUnit v.1)) (resKey .scratchRead v.1)) s.uses }
        live.foldl (fun s v =>
          let (s, bs, bad) := readSpan s v.1 parts
          let bad := hbad ++ bad.drop 64
          let met := match badAddr first hp (hbad.take 3) with
            | some a => some a
            | none => badAddr v.1 parts ((bad.zipIdx).map fun (b : Bool × Nat) => b.1 && mvUsed kn.1 kn.2 j.fw b.2)
          let s := raisePoisonAt s 4 2 ((met.map fun a => (v.1, a)).toList) j.level j.bundle j.op
          let s := raisePoison s 4 3 (if (v.2.take kn.1).any (·.2) then [v.1] else []) j.level j.bundle j.op
          let vals := (List.range kn.2).map (mvOut j kn.1 kn.2 v.2 bs bad)
          schedule s (j.base + 24 + d) 0 j.op [resKey .mvUnit v.1, resKey .scratchRead v.1] (.mvmLand j [(v.1, vals)])) s

/-- The landing of y in one slice. -/
def mvmLand (s : State) (j : MvJob) (vals : List (Nat × List (W32 × Bool))) : State :=
  vals.foldl (fun s v =>
    let idx := fun nn => bankIdx v.1 j.ad nn
    let s := if j.acc then meetAll s.tiles.bankMark meetBank s ((List.range v.2.length).map fun nn => idx nn / 4) else s
    let hit := j.acc && (List.range v.2.length).any fun nn => bankBad s (idx nn)
    let s := raisePoison s 4 3 (if hit then [v.1] else []) j.level j.bundle j.op
    putBank s ((v.2.zipIdx).map fun y =>
      if j.acc then (idx y.2, f32Add (bankGet s (idx y.2)) y.1.1, y.1.2 || bankBad s (idx y.2)) else (idx y.2, y.1))) s

end Sys2Proof.Machine
end

