-- ==== Sys2Proof/Machine/ElemUnit.lean ====
section
/-! DEFINITION. The element-wise engine: conditions at issue, operand reads, results, long-vector memory access, function
tables, coprocessor opcodes (08). -/

namespace Sys2Proof.Machine

/-! ### Classes (08 Table 8-1, R187 to R189; 02 Table 2-7) -/

/-- Operations that read no B. -/
def veUnary (fn : VeFn) : Bool :=
  match fn with
  | .frcp | .fsqrt | .frsqrt | .fabs | .fneg | .mov => true
  | _ => false

/-- Operations on which SAT may be 1. -/
def veSat (fn : VeFn) : Bool :=
  match fn with
  | .add | .sub | .mul | .addu | .subu | .mulu => true
  | _ => false

/-- Operations whose immediate is a field word. -/
def veField (fn : VeFn) : Bool :=
  match fn with
  | .cvtn | .cvtw | .feval | .fdrv | .ftld | .rdrop | .rmask => true
  | _ => false

def veReduces (fn : VeFn) : Bool :=
  match fn with
  | .rsum | .rmax | .rmin | .ramax | .risum => true
  | _ => false

/-- L without an accumulator source. -/
def veLat (fn : VeFn) : Nat :=
  match fn with
  | .fabs | .fneg | .and | .or | .xor | .andn | .shl | .shr | .sra | .mov | .bcst | .iota => 8
  | .add | .sub | .addu | .subu | .min | .max | .minu | .maxu | .ceq | .clt | .cltu | .fceq | .fclt | .fcle | .sel
  | .fmin | .fmax => 9
  | .mul | .mulu => 10
  | .rsum | .rmax | .rmin | .ramax | .risum => 20
  | .feval | .fdrv | .ftld => 15
  | .rdrop | .rmask => 13
  | _ => 11

/-- Whether a bank is read as FP32 under SCDQ (08 R188); otherwise its patterns are read raw. FMIN, FMAX, FABS and FNEG, which the rule's classes
do not sort, work on FP32 values and are read scaled (DEDUCED, log entry 126). -/
def veScaled (fn : VeFn) : Bool :=
  match fn with
  | .fadd | .fsub | .fmul | .fma | .frcp | .fsqrt | .frsqrt | .fscale | .fmin | .fmax | .fabs | .fneg | .mov
  | .fceq | .fclt | .fcle | .cvtn | .rsum | .rmax | .rmin | .ramax | .feval | .fdrv | .ftld | .rdrop | .rmask
  | .routine => true
  | _ => false

/-- Which operands an operation reads: A, B, LD. -/
def veUsesA (fn : VeFn) : Bool :=
  match fn with
  | .bcst | .iota | .rmask => false
  | _ => true
def veUsesB (fn : VeFn) : Bool :=
  !(veUnary fn) && !(veReduces fn) && (match fn with
    | .cvtn | .cvtw | .feval | .fdrv | .ftld => false
    | _ => true)
def veUsesD (fn : VeFn) : Bool :=
  match fn with
  | .fma | .sel => true
  | _ => false

/-- Whether a spot check may sample the operation (13 R368). -/
def veIsFp (fn : VeFn) : Bool :=
  match fn with
  | .fadd | .fsub | .fmul | .fma | .frcp | .fsqrt | .frsqrt | .fscale => true
  | _ => false

/-! ### Conditions at issue (08 R187, R189, R193, R199, R204, R206) -/

/-- Immediates of 14, 28 and 42 bits, or their compact forms of 12, 24 and 36. -/
def syllables (w : ImmWidth) : Nat :=
  match w with
  | .w14 | .w12 => 1
  | .w28 | .w24 => 2
  | .w42 | .w36 => 3

/-- LA names a bank and LA[3] is set. -/
def badBank (o : VeOps) : Bool := bit o.src 0 && bit o.la 3

/-- Conditions of a lane-wise or reducing operation. -/
def condVe (fn : VeFn) (o : VeOps) : Cond :=
  let imm := o.imm.isSome
  let wrongSyl := match o.imm with
    | none => false
    | some i =>
      if veReduces fn then true
      else if fn = .rdrop ∨ fn = .rmask then decide (syllables i.width ≠ 2)
      else veField fn && decide (syllables i.width ≠ 1)
  firstCond
    [(decide (bit o.src 1 ≠ imm) || (imm && veUnary fn) || (o.sat && !(veSat fn))
        || (veField fn && decide (o.imi ≠ 0)) || wrongSyl, 1, 5),
     (badBank o, 1, 6)]

/-- The entry an FEVAL, FDRV or FTLD names. -/
def veEntry (o : VeOps) : Nat := (match o.imm with
  | some i => immZ i
  | none => 0) % 64

/-- FTLD's conditions: entries 0 to 15 are M level's (08 R204), unless the group is empty (02 R41). -/
def condFtld (o : VeOps) (s : State) : Cond :=
  match condVe .ftld o with
  | some f => some f
  | none => unlessEmpty s o.gn (firstCond [(decide (s.seq.pl ≠ 3) && decide (veEntry o < 16), 4, 1)])

/-- The field word of a memory operation. -/
def veWord (o : VeOps) : Nat := match o.imm with
  | some i => immZ i
  | none => 0

/-- Conditions of LDL, STL, LDB (28-bit field word) and GATH, SCAT (14-bit). -/
def condVeMem (kind : Nat) (o : VeOps) : Cond :=
  let want := if kind ≤ 2 then 2 else 1
  let wrongSyl := match o.imm with
    | none => true
    | some i => decide (syllables i.width ≠ want)
  let gs := decide (3 ≤ kind)
  firstCond
    [(!(bit o.src 1) || o.sat || decide (o.imi ≠ 0) || wrongSyl
        || (gs && (decide (veWord o / 1024 % 4 = 3) || decide (256 < veWord o % 512))), 1, 5),
     (badBank o, 1, 6)]

/-- The record of a coprocessor opcode (08 Table 8-4). -/
def cpRecord (s : State) (k : Nat) : W64 := storeGet 0 s.elem.cprec k

/-- A coprocessor opcode is to be loaded (02 R50); of an empty group nothing is asked (R41). SAT and SRC[1] mean what the record says (R50,
R207): none of their values raises a fault (DESIGN CHOICE, log entry 122). -/
def condCoproc (op : BitVec 8) (o : VeOps) (s : State) : Cond :=
  match firstCond [(badBank o, 1, 6)] with
  | some f => some f
  | none => unlessEmpty s o.gn (firstCond [(!(bit (cpRecord s op.toNat) 63), 0xA, 1)])

/-! ### Operands -/

/-- Which lanes poison reaches, from the operands an operation reads. -/
def veBadLanes (fn : VeFn) (sl : VeSlice) : List Bool :=
  let b0 := (sl.b.head?.map (·.2)).getD false
  (List.range 256).map fun i =>
    (veUsesA fn && ((sl.a[i]?).map (·.2)).getD false)
      || (if fn = .bcst ∨ fn = .iota then b0 else veUsesB fn && ((sl.b[i]?).map (·.2)).getD false)
      || (veUsesD fn && ((sl.d[i]?).map (·.2)).getD false)

/-- The 256 elements of a bank's block, scaled if the operation reads it as FP32 (08 R188). -/
def bankLanes (s : State) (slice bank arb : Nat) (scaled : Bool) (scdq : Int) : List (W32 × Bool) :=
  (List.range 256).map fun i =>
    let idx := bankIdx slice bank (256 * arb + i)
    let v := bankGet s idx
    (if scaled && decide (scdq ≠ 0) then f32Scale v scdq else v, bankBad s idx)

/-- Whether an operation reads lane i of a source: FTLD the lanes of an image, CVTW those that its packed elements and scales fill (08
R194, R205). -/
def laneRead (fn : VeFn) (fmt i : Nat) : Bool :=
  match fn with
  | .ftld => decide (i < 208)
  | .cvtw => decide (i < 8 * codeWidth fmt + (if isBlockFmt fmt then 2 else 0))
  | _ => true

/-- Whether a lane that an operation reads is poisoned. -/
def veMeets (fn : VeFn) (fmt : Nat) (sl : VeSlice) : Bool := ((veBadLanes fn sl).zipIdx).any fun b => b.1 && laneRead fn fmt b.2

/-- The words of the L registers that an operation reads in a slice. -/
def veWords (fn : VeFn) (fmt : Nat) (bank immB : Bool) (slice la lb ld : Nat) : List Nat :=
  let words := fun r : Nat => ((List.range 256).filter fun i => laneRead fn fmt i).map fun i => laneIdx slice r i / 4
  (if veUsesA fn && !bank then words la else [])
    ++ (if veUsesB fn && !immB then (if fn = .bcst ∨ fn = .iota then [laneIdx slice lb 0 / 4] else words lb) else [])
    ++ (if veUsesD fn then words ld else [])

/-- The poison fault of a VE operation (08 R201, 03 R481). -/
def vePoison (s : State) (sub : Nat) (slices : List Nat) (level : BitVec 2) (bundle : IAddr) (op : Nat) : State :=
  raisePoison s 3 sub slices level bundle op

/-- Lanes as a landing of an L register. -/
def laneWrites (slice ld : Nat) (vals : List (W32 × Bool)) : List (Nat × W32 × Bool) :=
  (vals.zipIdx).map fun v => (laneIdx slice ld v.2, v.1)

/-! ### Results -/

/-- What a function evaluation gives in one slice; a free value where the pseudocode names no segment. -/
def evalLanes (img : Option (List Byte)) (free : Nat) (a : List W32) : List W32 :=
  match img with
  | none => a.map fun _ => f32Nan
  | some bs =>
    let words := (List.range 208).map fun k => imgWord bs k
    (a.zipIdx).map fun x =>
      (fevalWords (fun k => words.getD k 0) x.1).getD (BitVec.ofNat 32 (Config.freeValue (free + x.2)).toNat)

/-- The entry that an evaluation uses in a slice. -/
def evalEntry (s : State) (j : VeJob) (slice : Nat) : Option Nat :=
  let e := if j.fn = .routine then j.fe else j.imm % 64
  if j.fn = .fdrv then pairEntry s slice e else if entryValid s slice e then some e else none

/-- Flushes of moment elements (07 R183, 08 R214). Nothing in an operation says that what it converts is a moment: whether a
conversion to a format of the moments counts is a free choice (DESIGN CHOICE, log entry 32). -/
def momentFlushes (s : State) (fmt flush : Nat) : State :=
  if flush ≠ 0 ∧ (fmt = 10 ∨ (fmt = 11 ∧ objGet s 0x2500 3 = 4)) then
    let (v, s) := freshFree s
    if bit v 0 then objAdd s 0x7250 6 flush else s
  else s

/-- The results of one slice whose operands are all read: the state after its counts, the lanes. -/
def veResult (s : State) (j : VeJob) (sl : VeSlice) : State × List (W32 × Bool) :=
  let a := sl.a.map (·.1)
  let bad := veBadLanes j.fn sl
  let b0 := (sl.b.head?.map (·.1)).getD 0
  if veReduces j.fn then (s, List.replicate 256 (reduceLanes j.fn a, bad.any id))
  else
    match j.fn with
    | .bcst => (s, bad.map fun x => (b0, x))
    | .iota => (s, (bad.zipIdx).map fun x => (b0 + BitVec.ofNat 32 x.2, x.1))
    | .cvtn =>
      let r := cvtnLanes j.fmt j.e a
      let c := r.2
      let s := objAdd (objAdd (objAdd s 0x7260 1 c.sat) 0x7260 2 c.flush) 0x7260 3 c.nonFinite
      let s := momentFlushes s j.fmt c.flush
      (objAdd (objAdd s 0x7250 7 c.mxBad) 0x7250 8 c.mxSat, r.1.zip (cvtnBad j.fmt bad))
    | .cvtw => (s, (cvtwLanes j.fmt j.e a).zip (cvtwBad j.fmt bad))
    | .feval | .fdrv | .routine =>
      let e := evalEntry s j sl.slice
      let named := if j.fn = .routine then j.fe else j.imm % 64
      let head := if j.fn = .fdrv then pairHeadBad s sl.slice named else headBad s sl.slice named
      let marks := match e with
        | some k => entryMarks s sl.slice k
        | none => []
      let s1 := if e.isNone && !head then objAdd s 0x7260 6 256 else s
      let img := (e.map (entryImage s sl.slice)).getD []
      let fed := if head || !marks.isEmpty then
          a.map (evalMeets (if head then 0 :: marks else marks) fun k => imgWord img k)
        else []
      let s2 := vePoison s1 3 (if fed.any id then [sl.slice] else []) j.level j.bundle j.op
      let ys := evalLanes (e.map (entryImage s sl.slice)) s.cnt.free a
      let s3 := s2.onCnt fun c => { c with free := c.free + 256 }
      let out := if j.fn = .routine then (ys.zip (sl.b.map (·.1))).map fun p => f32Mul p.1 p.2 else ys
      (s3, out.zip ((bad.zipIdx).map fun x => x.1 || fed.getD x.2 false))
    | .rdrop | .rmask =>
      (s, ((a.zip (sl.b.map (·.1))).map fun p =>
        ratLane (decide (j.fn = .rmask)) j.key j.sub j.step j.imm p.1 p.2).zip bad)
    | _ =>
      (s, (((a.zip (sl.b.map (·.1))).zip (sl.d.map (·.1))).map fun p => laneOp j.fn j.sat p.1.1 p.1.2 p.2).zip bad)

/-- Keep the sample of a VE operation (13 R368). -/
def veSample (s : State) (j : VeJob) (sl : VeSlice) (out : List (W32 × Bool)) : State :=
  if j.sampled.contains (sl.slice / 20) && decide (storeGet 0 s.rel.samples (sl.slice / 20) = BitVec.ofNat 16 (sl.slice + 1)) then
    let data := ((sl.a ++ sl.b ++ sl.d ++ out).map fun x => x.1.toNat)
    s.onRel fun r => { r with sampleData := storeSet [] r.sampleData (sl.slice / 20) data }
  else s

/-- One slice's result scheduled. FTLD lands an entry image instead of lanes (08 R205). Where the slice's resource has been taken over,
nothing lands from the clk of the takeover on (02 R63). -/
def veFinish (s : State) (j : VeJob) (sl : VeSlice) : State :=
  let res := j.res.filter fun k => decide (k % 256 = sl.slice)
  if j.lost.any fun x => decide (x.1 = sl.slice) && decide (x.2 ≤ j.land) then s
  else if j.fn = .ftld then
    let bytes := (sl.a.take 208).flatMap fun x => leBytes 4 x.1.toNat
    let bad := (List.range 52).map fun w => (List.range 4).any fun i => ((sl.a[4 * w + i]?).map (·.2)).getD false
    schedule s j.land 0 j.op res (.table sl.slice (j.imm % 64) bytes bad)
  else
    let r := veResult s j sl
    let s := veSample r.1 j sl r.2
    schedule s j.land 0 j.op res (.setL (laneWrites sl.slice j.ld r.2))

/-- The operands that come 6 clk after issue: a bank's block (08 R188); then the results. -/
def veRead (s : State) (j : VeJob) : State :=
  let s := match j.bank with
    | some (b, arb) => meetAll s.tiles.bankMark meetBank s
        (j.lanes.flatMap fun sl => (List.range 64).map fun w => bankIdx sl.slice b (256 * arb + 4 * w) / 4)
    | none => s
  let named := if j.fn = .routine then j.fe else j.imm % 64
  let s := meetAll s.elem.tableMark meetTable s (j.lanes.flatMap fun sl =>
    if j.fn = .fdrv then pairWords s sl.slice named (pairEntry s sl.slice named)
    else if j.fn = .feval ∨ j.fn = .routine then entryWords s sl.slice named else [])
  let lanes := j.lanes.map fun sl =>
    match j.bank with
    | some (b, arb) => { sl with a := bankLanes s sl.slice b arb (veScaled j.fn) j.scdq }
    | none => sl
  let hit := if j.bank.isSome && veUsesA j.fn then
      (lanes.filter fun sl => (sl.a.zipIdx).any fun x => x.1.2 && laneRead j.fn j.fmt x.2).map fun sl => sl.slice else []
  let s := vePoison s 3 hit j.level j.bundle j.op
  lanes.foldl (fun s sl => veFinish s j sl) s

/-- The landing of an entry image (08 R205). -/
def landTable (s : State) (slice entry : Nat) (image : List Byte) (bad : List Bool) : State :=
  s.onElem fun e => { e with
    table := storeSetMany 0 e.table ((slice * 64 + entry) * 832) image,
    tableMark := storeSetMany .good e.tableMark ((slice * 64 + entry) * 52) (bad.map fun b => if b then Mark.poison else Mark.good),
    tableValid := storeSet false e.tableValid (slice * 64 + entry) (imageValid image),
    vendorOver := if entry < 16 then storeSet false e.vendorOver (slice * 64 + entry) true else e.vendorOver }

/-! ### Issue -/

/-- Reserve spot samples for a VE FP operation. -/
def veSampleQuarters (s : State) (fn : VeFn) (ms : List Nat) : State × List Nat :=
  if !(veIsFp fn) then (s, [])
  else
    let n := objGet s 0x4040 2
    let qs := if n = 0 ∨ (s.rel.veOps + Config.samplePhase) % n ≠ 0 then []
      else (List.range 8).filter fun q => ms.any (fun sl => decide (sl / 20 = q)) && decide (storeGet 0 s.rel.samples q = 0)
    let taken := qs.foldl (fun m q =>
      match ms.find? fun sl => decide (sl / 20 = q) with
      | some sl => storeSet 0 m q (BitVec.ofNat 16 (sl + 1))
      | none => m) s.rel.samples
    (s.onRel fun r => { r with veOps := r.veOps + 1, samples := taken }, qs)

/-- A VE operation in the clk it starts: L registers are read now, a bank 6 clk later (08 R188; 02 R55). MODE.FA and SCDQ are those of
the issue clk, of a micro-op those of the invoking operation's (08 R188, R207, 02 R45; DEDUCED, log entry 111). -/
def veStart (s : State) (v : VeStart) : State :=
  let ms := members v.mask
  if ms.isEmpty then s
  else
    let clk := s.cnt.clk
    let (s, qs) := veSampleQuarters s v.fn ms
    let keys := v.res ++ (if veReduces v.fn then ms.map (resKey .reduction) else [])
    let s := if veReduces v.fn then claim s .reduction ms v.op clk 2 else s
    let conv := v.conv.getD (s.seq.fa.toNat, 0)
    let s := meetAll s.elem.lMark meetLane s
      (ms.flatMap fun sl => veWords v.fn conv.1 v.bank.isSome v.immB.isSome sl v.la v.lb v.ld)
    let lanes : List VeSlice := ms.map fun sl =>
      { slice := sl, a := if v.bank.isSome then [] else lanesOf s sl v.la,
        b := match v.immB with
          | some b => List.replicate 256 (b, false)
          | none => lanesOf s sl v.lb,
        d := lanesOf s sl v.ld }
    let j : VeJob :=
      { fn := v.fn, ld := v.ld, sat := v.sat, bank := v.bank,
        scdq := v.scdq, imm := v.imm, fmt := conv.1, e := conv.2, fe := v.fe,
        key := s.ctl.rtkh ++ s.ctl.rtkl, sub := s.ctl.rtsub.setWidth 32, step := s.cnt.step,
        land := clk + v.lat.getD (veLat v.fn + (if v.bank.isSome ∧ v.fn ≠ .ftld then 2 else 0)), lanes := lanes, res := keys, lost := v.lost,
        sampled := qs, level := v.level, bundle := v.bundle, op := v.op }
    let hit := (lanes.filter fun sl => veMeets v.fn conv.1 sl).map fun sl => sl.slice
    let s := vePoison s 3 hit v.level v.bundle v.op
    if v.bank.isSome ∨ v.fn = .feval ∨ v.fn = .fdrv ∨ v.fn = .routine then schedule s (clk + 6) 1 v.op [] (.veRead j)
    else lanes.foldl (fun s sl => veFinish s j sl) s

/-- SCDQ of a bank (07 R172). -/
def scdqOf (s : State) (bank : Nat) : Int := signedOf 9 (storeGet 0 s.ctl.scdq (bank % 8)).toNat

/-- What an operation's fields say of its operands. -/
def veStartOf (fn : VeFn) (o : VeOps) (s : State) : VeStart :=
  let word := veWord o
  { fn := fn, ld := o.ld.toNat, la := o.la.toNat, lb := o.lb.toNat, sat := o.sat,
    bank := if bit o.src 0 then some (o.la.toNat % 8, o.arb.toNat) else none,
    immB := if veField fn then none else o.imm.map (veImm o.imi),
    imm := word,
    conv := if (fn = .cvtn ∨ fn = .cvtw) ∧ o.imm.isSome then
        some (if word / 2 ^ 13 % 2 = 1 then word / 512 % 16 else s.seq.fa.toNat, signedOf 9 word) else none,
    fe := 0, lat := none, scdq := scdqOf s o.la.toNat, res := [], lost := [], mask := groupMask s o.gn.toNat, level := s.seq.pl, bundle := s.seq.pc, op := s.cnt.op }

/-- A lane-wise or reducing operation at issue. -/
def doVe (fn : VeFn) (o : VeOps) (s : State) : State := veStart s (veStartOf fn o s)

/-- The operation that a micro-op's MAJ and MIN name (08 Table 8-1, R207). -/
def microFn (maj min : Nat) : Option VeFn :=
  match maj with
  | 0 => [VeFn.fadd, .fsub, .fmul, .fma, .frcp, .fsqrt, .frsqrt, .fscale, .fmin, .fmax, .fabs, .fneg][min]?
  | 1 => [VeFn.add, .sub, .mul, .addu, .subu, .mulu, .min, .max, .minu, .maxu][min]?
  | 2 => [VeFn.and, .or, .xor, .andn, .shl, .shr, .sra, .mov, .bcst, .iota][min]?
  | 3 => [VeFn.ceq, .clt, .cltu, .fceq, .fclt, .fcle, .sel][min]?
  | 4 => [VeFn.cvtn, .cvtw][min]?
  | 8 => [VeFn.rsum, .rmax, .rmin, .ramax, .risum][min]?
  | _ => none

/-- A micro-op of an invoking operation (08 Table 8-5). With SR = 0 no field carries an ARB: it is 0; and LA[3] of a bank is not looked at
(DESIGN CHOICE, log entry 127). -/
def microStart (w : W64) (fn : VeFn) (o : VeOps) (keys : List Nat) (s : State) : VeStart :=
  let ld := if bit w 35 then o.ld.toNat else field w 49 46
  let la := if bit w 34 then o.la.toNat else field w 45 42
  let lb := if bit w 33 then o.lb.toNat else field w 41 38
  let useBank := if bit w 32 then bit o.src 0 else bit w 36
  let arb := if bit w 32 then o.arb.toNat else 0
  { fn := fn, ld := ld, la := la, lb := lb, sat := o.sat && veSat fn, bank := if useBank then some (la % 8, arb) else none,
    immB := if bit w 37 && !(veField fn) then some (BitVec.ofNat 32 w.toNat) else none, imm := 0,
    conv := if fn = .cvtn ∨ fn = .cvtw then some (s.seq.fa.toNat, 0) else none, fe := 0,
    lat := none, scdq := scdqOf s la, res := keys, lost := [], mask := groupMask s o.gn.toNat, level := s.seq.pl, bundle := s.seq.pc, op := s.cnt.op }

/-- A coprocessor opcode at issue: a table routine, or a micro-sequence whose j-th micro-op starts in clk t + j (08 R206, R207). B of a
routine with SRC[1] = 1, which has no immediate, is a free value (DESIGN CHOICE, log entry 122). -/
def doCoproc (op : BitVec 8) (o : VeOps) (s : State) : State :=
  let rec' := cpRecord s op.toNat
  let ms := members (groupMask s o.gn.toNat)
  let keys := ms.map (resKey .coproc)
  let clk := s.cnt.clk
  let s := claim s .coproc ms s.cnt.op clk (field rec' 48 36)
  if !(bit rec' 62) then
    let (free, s) := freshFree s
    let v := veStartOf .routine o s
    veStart s { v with
      fe := field rec' 19 14, lat := some (field rec' 61 49), res := keys,
      immB := if bit o.src 1 then some (match o.imm with
        | some i => veImm o.imi i
        | none => free.setWidth 32) else none }
  else
    (List.range (field rec' 24 20 + 1)).foldl (fun s k =>
      let w := storeGet 0 s.elem.msop (field rec' 35 25 + k)
      match microFn (field w 63 58) (field w 57 50) with
      | none => s
      | some fn =>
        let v := microStart w fn o keys s
        if k = 0 then veStart s v else schedule s (clk + k) 1 s.cnt.op [] (.veIssue v)) s

/-! ### Long-vector memory access (08 R197 to R201) -/

/-- The bytes an LDL, STL or LDB moves. -/
def vmLen (m : VeMem) : Nat := if m.kind = 2 then 4 else 64 * (m.imm / 2 ^ 22 % 16 + 1)
/-- Element bytes and count of a GATH or SCAT. -/
def vmSize (m : VeMem) : Nat := 4 / 2 ^ (m.imm / 1024 % 4)
def vmCount (m : VeMem) : Nat := m.imm % 512

/-- The opcode syllable of a memory operation. -/
def vmOpcode (kind : Nat) : Nat := if kind ≤ 2 then 0x2D00 + kind else 0x2502 + (kind - 3)

/-- The replay words (08 R200). -/
def vmReplay (m : VeMem) : W64 × W64 × W64 × W64 :=
  (BitVec.ofNat 64 (m.addr.toNat % 2 ^ 52),
   BitVec.ofNat 64 (vmOpcode m.kind * 2 ^ 50 + m.ld), BitVec.ofNat 64 m.imm, 0)

/-- A fault found before anything moves: nothing is written, and the operation stays latched for its replay. `sl` is the lowest slice that
detects it (03 R481). -/
def vmFaultIn (s : State) (m : VeMem) (sl c u : Nat) (fa : W64) : State :=
  if s.tiles.raised.contains m.op then s
  else
    let d : Deferred := { code := BitVec.ofNat 8 c, sub := BitVec.ofNat 8 u, faddr := fa, slot := 3, slice := sl,
                          level := m.level, bundle := m.bundle, op := m.op, replay := some (vmReplay m), clk := 0 }
    (pushOnce s d).onElem fun e => { e with latch := e.latch ++ [(m.op, m)] }

/-- A fault that every slice detects. -/
def vmFault (s : State) (m : VeMem) (c u : Nat) (fa : W64) : State :=
  vmFaultIn s m ((m.lanes.head?.map fun l => l.slice).getD 0) c u fa

/-- The index and data of one lane of a gather or scatter. -/
def vmLane (l : List (W32 × Bool)) (i : Nat) : W32 × Bool := (l[i]?).getD (0, false)

/-- The window offsets of a gather's or scatter's lanes, within the 2 MiB region of its base, and whether each wrapped. -/
def vmOffsets (m : VeMem) (sl : VeSlice) (off : Nat) : List (Nat × Bool) :=
  let rel := off % 2 ^ 21
  (List.range (vmCount m)).map fun i =>
    let x := rel + (vmLane sl.a i).1.toNat * vmSize m
    (off - rel + x % 2 ^ 21, decide (2 ^ 21 ≤ x))

/-- Lanes whose address an earlier lane names too. -/
def collisions (l : List Nat) : Nat := l.length - l.eraseDups.length

/-- A gather or scatter whose region is translated: its reads or writes are scheduled, lane by lane. -/
def vmScatter (s : State) (m : VeMem) (off : Nat) : State :=
  let n := vmCount m
  m.lanes.foldl (fun s sl =>
    let offs := vmOffsets m sl off
    let res := [resKey .elemPort sl.slice]
    let s := objAdd s 0x7260 4 (offs.filter fun o => o.2).length
    if m.kind = 3 then
      let s := (offs.zipIdx).foldl (fun s o =>
        schedule s (m.base + 15 + o.2) 1 m.op res (.gathRead m sl.slice o.2 (scratchAddr sl.slice o.1.1))) s
      schedule s (m.base + 16 + n) 0 m.op res (.gathLand { m with lanes := [sl] })
    else
      let s := objAdd s 0x7260 5 (collisions (offs.map (·.1)))
      (offs.zipIdx).foldl (fun s o =>
        let v := vmLane sl.b o.2
        let bad := v.2 || (vmLane sl.a o.2).2
        let bytes := (List.range (vmSize m)).map fun b =>
          (scratchAddr sl.slice o.1.1 + b, BitVec.ofNat 8 (v.1.toNat / 256 ^ b), bad)
        schedule s (m.base + 17 + o.2) 0 m.op res (.storeMarked bytes)) s) s

/-- A gather or scatter whose region and index are known: below M level an address in the scratch that M level keeps is a bus error of the
slice that names it (10 R244, 03 R481). -/
def vmGo (s : State) (m : VeMem) (off : Nat) : State :=
  let hit := m.lanes.findSome? fun sl =>
    ((vmOffsets m sl off).find? fun o => decide (0xFF0000 ≤ o.1)).map fun o => (sl.slice, o.1)
  match hit with
  | some o => if m.level ≠ 3 then vmFaultIn s m o.1 3 1 (BitVec.ofNat 64 (localBase + o.2)) else vmScatter s m off
  | none => vmScatter s m off

/-- The index that a gather or scatter reads from a bank, in clk base + 6: raw patterns, an unsigned integer being no FP32 value (08 R187,
R188, R199; DEDUCED, log entry 112). -/
def vmIndex (s : State) (m : VeMem) (off : Nat) : State :=
  match m.bank with
  | none => vmGo s m off
  | some (b, arb) =>
    let n := vmCount m
    let s := meetAll s.tiles.bankMark meetBank s
      (m.lanes.flatMap fun sl => (List.range n).map fun i => bankIdx sl.slice b (256 * arb + i) / 4)
    let m' := { m with lanes := m.lanes.map fun sl => { sl with a := bankLanes s sl.slice b arb false m.scdq } }
    let hit := (m'.lanes.filter fun sl => (sl.a.take n).any (·.2)).map fun sl => sl.slice
    vmGo (vePoison s 3 hit m.level m.bundle m.op) m' off

/-- The detection of a memory operation, 3 clk after its base (08 R200). A gather of no elements writes zeros (R199). -/
def vmDetect (s : State) (m : VeMem) : State :=
  if 3 ≤ m.kind then
    if vmCount m = 0 then
      if m.kind = 3 then
        schedule s (m.base + 16) 0 m.op []
          (.setL (m.lanes.flatMap fun sl => laneWrites sl.slice m.ld (List.replicate 256 (0, false))))
      else s
    else if m.addr.toNat % vmSize m ≠ 0 then vmFault s m 2 3 m.addr
    else
      match localAddr s m.level m.addr (decide (m.kind = 4)) 0 with
      | (s, .fail c u f) => vmFault s m c u f
      | (s, .ok pa) =>
        if m.bank.isSome then schedule s (m.base + 6) 1 m.op [] (.veIndex m (pa - scratchBase)) else vmGo s m (pa - scratchBase)
  else if m.addr.toNat % (if m.kind = 2 then 4 else 64) ≠ 0 then vmFault s m 2 3 m.addr
  else
    match localSpan s m.level m.addr (vmLen m) (decide (m.kind = 1)) 3 with
    | (s, .inr f) => vmFault s m f.1 f.2.1 f.2.2
    | (s, .inl parts) =>
      if m.kind = 1 then
        m.lanes.foldl (fun s sl =>
          let offs := parts.flatMap fun p => (List.range p.2).map fun i => p.1 + i
          let bytes := (offs.zipIdx).map fun o =>
            let v := vmLane sl.d (o.2 / 4)
            (scratchAddr sl.slice o.1, BitVec.ofNat 8 (v.1.toNat / 256 ^ (o.2 % 4)), v.2)
          schedule s (m.base + 8) 0 m.op [resKey .scratchWrite sl.slice] (.storeMarked bytes)) s
      else if m.kind = 2 then
        schedule s (m.base + 6) 1 m.op ((m.lanes.take 1).map fun sl => resKey .scratchRead sl.slice) (.veLoad m parts)
      else m.lanes.foldl (fun s sl =>
        schedule s (m.base + 6) 1 m.op [resKey .scratchRead sl.slice] (.veLoad { m with lanes := [sl] } parts)) s

/-- The lanes that bytes of a load fill, with the lanes above zero. -/
def loadLanes (bs : List Byte) (bad : List Bool) : List (W32 × Bool) :=
  (List.range 256).map fun i =>
    (BitVec.ofNat 32 (ofLe ((bs.drop (4 * i)).take 4)), ((bad.drop (4 * i)).take 4).any id)

/-- The read of LDL or LDB in clk base + 6; LD lands two clk later (08 R198). -/
def vmLoad (s : State) (m : VeMem) (parts : List (Nat × Nat)) : State :=
  let readers := if m.kind = 2 then m.lanes.take 1 else m.lanes
  let r := readers.foldl (fun acc sl =>
    let t := readSpan acc.1 sl.slice parts
    (t.1, acc.2 ++ [(sl.slice, t.2.1, t.2.2)])) (s, ([] : List (Nat × List Byte × List Bool)))
  let s := raisePoisonAt r.1 3 2 (r.2.filterMap fun x => (badAddr x.1 parts x.2.2).map fun a => (x.1, a)) m.level m.bundle m.op
  if m.kind = 2 then
    match r.2 with
    | [] => s
    | x :: _ =>
      let v : W32 × Bool := (BitVec.ofNat 32 (ofLe x.2.1), x.2.2.any id)
      schedule s (m.base + 8) 0 m.op []
        (.setL (m.lanes.flatMap fun sl => laneWrites sl.slice m.ld (List.replicate 256 v)))
  else
    schedule s (m.base + 8) 0 m.op []
      (.setL (r.2.flatMap fun x => laneWrites x.1 m.ld (loadLanes x.2.1 x.2.2)))

/-- One lane of a gather. -/
def gathRead (s : State) (m : VeMem) (slice lane addr : Nat) : State :=
  let (s, bs, bad) := readBytes s addr (vmSize m)
  let s := raisePoisonAt s 3 2 (if bad then [(slice, BitVec.ofNat 64 addr)] else []) m.level m.bundle m.op
  s.onElem fun e => { e with gathBuf := e.gathBuf ++ [(m.op, slice, lane, BitVec.ofNat 32 (ofLe bs), bad)] }

/-- The landing of a gather in its slice: lanes n and above become zero (08 R199). -/
def gathLand (s : State) (m : VeMem) : State :=
  m.lanes.foldl (fun s sl =>
    let mine := s.elem.gathBuf.filter fun g => decide (g.1 = m.op) && decide (g.2.1 = sl.slice)
    let vals := (List.range 256).map fun i =>
      match mine.find? fun g => decide (g.2.2.1 = i) with
      | some g => (g.2.2.2.1, g.2.2.2.2 || (vmLane sl.a i).2)
      | none => ((0 : W32), false)
    let s := putLanes s (laneWrites sl.slice m.ld vals)
    s.onElem fun e => { e with gathBuf := e.gathBuf.filter fun g => !(decide (g.1 = m.op) && decide (g.2.1 = sl.slice)) }) s

/-- An LDL, LDB or STL takes a scratch port in clk issue + 6 from a tile movement whose port clks that clk falls into
(08 R198, 02 R63) (DEDUCED, log entry 35). -/
def vmTakePort (s : State) (kind : Nat) (ms : List Nat) (clk op : Nat) : State :=
  let mk := if kind = 1 then 1 else 0
  let r := ms.foldl (fun acc sl =>
    let moves := if mk = 1 then inFlight acc.1 sl 1 else inFlight acc.1 sl 0 ++ inFlight acc.1 sl 2
    let t := moves.foldl (fun acc x =>
      let lag := if mk = 1 then 1 else 0
      let first := mvReadClk x.1 x.1.first + lag
      let last := mvReadClk x.1 (mvBr x.1 - 1) + lag
      if first ≤ clk + 6 ∧ clk + 6 ≤ last then
        (dropWork acc.1 x.1.op (resKey (mvUnitOf x.1.kind) sl) (clk + 6 - lag), true) else acc) acc
    let key := resKey .scratchRead sl
    let u := storeGet ⟨0, 0, 0⟩ t.1.uses key
    let mvm := decide (mk = 0) && decide (clk < u.free) && !(t.1.work.any fun w => decide (w.op = u.op) && (match w.act with
      | .rowRead _ _ => true
      | _ => false))
    let s := if mvm then dropWork t.1 u.op key clk else t.1
    let s := if mk = 0 then { s with uses := storeSet ⟨0, 0, 0⟩ s.uses key ⟨op, clk, clk + 1⟩ } else s
    (s, t.2 || mvm)) (s, false)
  if r.2 then objAdd r.1 0x7230 1 1 else r.1

/-- The lanes of a memory operation that poison reaches at issue. -/
def vmBadSlices (m : VeMem) : List Nat :=
  (m.lanes.filter fun sl =>
    if m.kind = 1 then (sl.d.take (vmLen m / 4)).any (·.2)
    else if m.kind = 3 then (sl.a.take (vmCount m)).any (·.2)
    else if m.kind = 4 then (sl.a.take (vmCount m)).any (·.2) || (sl.b.take (vmCount m)).any (·.2)
    else false).map fun sl => sl.slice

/-- The words of the L registers that a memory operation reads at issue in a slice. -/
def vmWords (kind : Nat) (bank : Bool) (imm slice la lb ld : Nat) : List Nat :=
  let words := fun r n : Nat => (List.range n).map fun i => laneIdx slice r i / 4
  if kind = 1 then words ld (16 * (imm / 2 ^ 22 % 16 + 1))
  else if kind = 3 then (if bank then [] else words la (imm % 512))
  else if kind = 4 then (if bank then [] else words la (imm % 512)) ++ words lb (imm % 512)
  else []

/-- LDL, STL, LDB, GATH and SCAT at issue. -/
def doVeMem (kind : Nat) (o : VeOps) (s : State) : State :=
  let ms := members (groupMask s o.gn.toNat)
  if ms.isEmpty then s
  else
    let w := veWord o
    let vb := fun k => storeGet 0 s.ctl.vb k
    let bank := if 3 ≤ kind ∧ bit o.src 0 = true then some (o.la.toNat % 8, o.arb.toNat) else none
    let s := meetAll s.elem.lMark meetLane s
      (ms.flatMap fun sl => vmWords kind bank.isSome w sl o.la.toNat o.lb.toNat o.ld.toNat)
    let m : VeMem :=
      { kind := kind, ld := o.ld.toNat, imm := w % (if kind ≤ 2 then 2 ^ 28 else 2 ^ 14),
        addr := if kind ≤ 2 then vb (w / 2 ^ 26 % 4) + BitVec.ofNat 64 (w % 2 ^ 22) else vb (w / 2 ^ 12 % 4),
        bank := bank, scdq := scdqOf s o.la.toNat,
        lanes := ms.map fun sl => { slice := sl, a := if bank.isSome then [] else lanesOf s sl o.la.toNat, b := lanesOf s sl o.lb.toNat,
                                    d := lanesOf s sl o.ld.toNat },
        level := s.seq.pl, bundle := s.seq.pc, op := s.cnt.op, base := s.cnt.clk }
    let s := vePoison s 3 (vmBadSlices m) m.level m.bundle m.op
    let s := if kind ≤ 2 then vmTakePort s kind (if kind = 2 then ms.take 1 else ms) m.base m.op
      else if vmCount m = 0 then s else claim s .elemPort ms m.op m.base (vmCount m)
    schedule s (m.base + 3) 1 m.op [] (.veMem m)

/-! ### The control registers CPENT and MSOP (08 R206, R207) -/

/-- A write of the selected coprocessor record, refused in the cases of R206. -/
def writeCpent (v : W64) (s : State) : State :=
  let l := field v 61 49
  let d := field v 48 36
  let refused := bit v 63 && (decide (l < 4) || decide (4096 < l) || decide (d < 4) || decide (4096 < d)
    || (!(bit v 62) && decide (l < 26)) || decide (2047 < field v 35 25 + field v 24 20))
  if refused then s
  else s.onElem fun e => { e with cprec := storeSet 0 e.cprec (field s.ctl.cpsel 7 0) (setField v 13 0 0) }

/-- A write of the selected micro-op, refused if its MAJ or MIN is undefined (08 R207). -/
def writeMsop (v : W64) (s : State) : State :=
  if (microFn (field v 63 58) (field v 57 50)).isNone then s
  else s.onElem fun e => { e with msop := storeSet 0 e.msop (field s.ctl.mssel 10 0) v }

end Sys2Proof.Machine
end

