-- ==== Sys2Proof/Machine/ScaleUnit.lean ====
section
/-! DEFINITION. The scale unit: slot words and their writes, the scale policy, the advance at a step, back-off and the
repeat's clearing, the slot image (07 R170 to R182). -/

namespace Sys2Proof.Machine

/-! ### Writes of slots (07 Table 7-3) -/

/-- What a write of SCCTL at a level leaves (07 Table 7-3). A release empties the ring; the current-step maximum goes with
it (DEDUCED, log entry 17). -/
def slotWrite (v : Slot) (w : W64) (level : BitVec 2) : Slot :=
  let n := slotOfWord v w
  if n.tf.toNat < 3 ∨ 7 < n.tf.toNat ∨ n.st = 3 then v
  else
    let base : Slot := if level = 3 then n else { n with vc := v.vc, hd := v.hd, e := v.e, lae := v.lae, lv := v.lv }
    let r := { base with nf := v.nf && !(bit w 46) }
    if n.st = 0 then { r with vc := 0, hd := 0, ring := List.replicate 16 0, acc := 0, used := false }
    else if n.st = 2 ∧ level = 3 ∧ r.vc ≠ 0 then r
    else { r with st := 1 }

/-- The selected slot and ring entry (07 Table 7-4). -/
def selSlot (s : State) : Nat := field s.ctl.scsel 13 0
def selRing (s : State) : Nat := field s.ctl.scsel 19 16

/-- The bytes of the words of a slot's record that a write of SCCTL covers: all of them for a release, else its first eight; none of one
that is ignored. -/
def scctlCover (w : W64) (k : Nat) : Nat :=
  if field w 59 56 < 3 ∨ 7 < field w 59 56 ∨ field w 63 62 = 3 then 0 else coverOf 0 (if field w 63 62 = 0 then 80 else 8) k

/-- A write of SCCTL (07 R171). -/
def writeScctl (v : W64) (s : State) : State :=
  slotMerge s (selSlot s) (scctlCover v) (slotWrite (slotGet s (selSlot s)) v s.seq.pl)

/-- A write of the selected ring entry, SCRING (07 Table 7-4). -/
def writeRing (v : W64) (s : State) : State :=
  let k := slotGet s (selSlot s)
  slotMerge s (selSlot s) (coverOf (8 + 4 * selRing s) 4) { k with ring := k.ring.set (selRing s) (v.setWidth 32) }

/-- A write of the current step's maximum (07 Table 7-4). -/
def writeAcc (v : W64) (s : State) : State :=
  slotMerge s (selSlot s) (coverOf 72 8) { slotGet s (selSlot s) with acc := v.setWidth 32, used := bit v 32 }

/-- A write of SCLDQ (07 R172). -/
def writeScldq (v : W64) (s : State) : State :=
  let s := meetSlot (meetSlot s (field v 29 16)) (field v 45 32)
  let a := slotLae (slotGet s (field v 29 16))
  let b := if bit v 63 then 0 else slotLae (slotGet s (field v 45 32))
  s.onCtl fun c => { c with scdq := storeSet 0 c.scdq (field v 2 0) (BitVec.ofInt 9 (-(a + b))) }

/-! ### The policy (07 R173) -/

/-- ⌊log2(x/h)⌋, or ⌈…⌉, for x and h finite and above zero. -/
def log2Ratio (up : Bool) (n : Nat) (e : Int) (n' : Nat) (e' : Int) : Int :=
  let k := floorLog2 n n'
  let p := pow2Parts k
  let exact := decide (n * p.2 = n' * p.1)
  k + e - e' + (if up && !exact then 1 else 0)

/-- The scale exponent for a magnitude, or none for a magnitude of zero. -/
def policy (h : FVal) (tf mg : Nat) (spr : BitVec 2) : Option Int :=
  match h, fDecode (codeFmt tf) (fmtMax (codeFmt tf)) with
  | .fin _ n e, .fin _ m k =>
    if n = 0 then none
    else some (max (-127) (min 127 (log2Ratio (decide (spr ≠ 0)) m k n e - mg)))
  | _, _ => none

/-- The larger of two magnitudes; a NaN or infinity counts as nothing. -/
def maxMag (a b : FVal) : FVal := maxFinite [a, b]

/-- The newest vc entries of a ring. -/
def newest (v : Slot) : List W32 :=
  (List.range v.vc.toNat).map fun i => v.ring.getD ((v.hd.toNat + 16 - i % 16) % 16) 0

/-- recompute (07 R173). -/
def recompute (v : Slot) (spr : BitVec 2) : Slot :=
  let h := maxFinite ((v.acc :: newest v).map f32)
  match policy h v.tf.toNat v.mg.toNat spr with
  | some e => { v with e := BitVec.ofInt 9 e }
  | none => v

/-- Push a maximum into the ring. -/
def pushRing (v : Slot) (x : W32) : Slot :=
  let hd := v.hd + 1
  { v with hd := hd, ring := v.ring.set hd.toNat x, vc := if v.vc.toNat < 16 then v.vc + 1 else 16 }

/-- What a push of a maximum and a recompute write of a slot's record: its first eight bytes, the newest ring entry and, of an advance, the
current step. -/
def pushCover (v : Slot) (step : Bool) (w : Nat) : Nat :=
  coverOf 0 8 w + coverOf (8 + 4 * v.hd.toNat) 4 w + (if step then coverOf 72 8 w else 0)

/-- The advance of one slot (07 R174). -/
def advanceSlot (s : State) (k : Nat) (spr : BitVec 2) : State :=
  let s := meetSlot s k
  let v := slotGet s k
  if v.st = 2 ∧ v.used then
    let v := pushRing v v.acc
    slotMerge s k (pushCover v true) (recompute { v with acc := 0, used := false } spr)
  else s

/-- The advance that a MARK starts: used warm slots in ascending number, eight per clk. -/
def startAdvance (s : State) (spr : BitVec 2) : State :=
  s.slots.foldl (fun t e =>
    if e.2.st = 2 ∧ e.2.used then schedule t (t.cnt.clk + 1 + e.1 / 8) 0 0 [] (.scaleAdvance e.1 spr) else t) s

/-- Whether a slot still waits for its turn in an advance. -/
def advancePending (s : State) (k : Nat) : Bool :=
  s.work.any fun w => match w.act with
    | .scaleAdvance k' _ => decide (k' = k)
    | _ => false

/-! ### Repeat and back-off (07 R180, R181) -/

/-- The clearing of every slot's current step when a repeat is announced. -/
def clearSteps (s : State) : State := slotsUpdate s (fun _ => coverOf 72 8) fun v => { v with acc := 0, used := false }

/-- The magnitude whose policy is exactly e; one past the range of FP32 is +infinity there, which later recomputes pass over (DESIGN CHOICE, log
entry 124). -/
def backoffMag (v : Slot) (e : Int) : W32 :=
  toF32 (fvScale (fDecode (codeFmt v.tf.toNat) (fmtMax (codeFmt v.tf.toNat))) (-((v.mg.toNat : Int) + e)))

/-- Back-off of one slot. -/
def backoffSlot (v : Slot) : Slot :=
  if v.st = 2 ∧ v.bk ≠ 0 then
    let e := max (signedOf 9 v.e.toNat - v.bk.toNat) (-127)
    { pushRing v (backoffMag v e) with e := BitVec.ofInt 9 e, nf := false }
  else { v with nf := false }

/-- Whether back-off reaches a slot: class gradient, or NF set (an unregistered slot may keep it). -/
def backoffApplies (v : Slot) : Bool := decide (v.cls = 2) || v.nf

/-- Back-off of every slot it reaches; each warm one counts in 7250h:09. -/
def backoffAll (s : State) : State :=
  let warm := fun (v : Slot) => backoffApplies v && decide (v.st = 2) && decide (v.bk ≠ 0)
  let n := (s.slots.filter fun e => warm (slotSeen e.2)).length
  let cov := fun (v : Slot) w =>
    if warm v then pushCover (pushRing v 0) false w else if backoffApplies v then coverOf 0 8 w else 0
  objAdd (slotsUpdate s cov fun v => if backoffApplies v then backoffSlot v else v) 0x7250 9 n

/-! ### Restored and registered slots (07 R182) -/

/-- A slot as a restore leaves it (07 R182). -/
def restoredSlot (v : Slot) (warm : Bool) : Slot :=
  let v := { v with acc := 0, used := false }
  if v.st = 0 then v else { v with st := if warm && decide (v.vc ≠ 0) then 2 else 1 }

/-- The counts of objects 2500h:04 and :05. -/
def registeredSlots (s : State) : Nat := (s.slots.filter fun e => decide (e.2.st ≠ 0)).length
def nfSlots (s : State) : Nat := (s.slots.filter fun e => e.2.nf).length

end Sys2Proof.Machine
end

