-- ==== Sys2Proof/Machine/Links.lean ====
section
/-! DEFINITION. Routing and sending flits: the torus and the express ring, datelines, detours, dark devices, credits,
frames and replay (11 R276 to R293). -/

namespace Sys2Proof.Machine

/-! ### Places (11 R289, 01 R19) -/

/-- This device's ID. -/
def myId (s : State) : Nat := objGet s 0x2300 1

/-- The size of a dimension: 0 X, 1 Y, 2 Z. -/
def torusSize (s : State) (dim : Nat) : Nat := max 1 (objGet s 0x2300 (2 + dim))

/-- A coordinate of a device ID. -/
def coordOf (id dim : Nat) : Nat := if dim = 0 then id % 16 else if dim = 1 then id / 16 % 16 else id / 256

/-- The ID of coordinates. -/
def idOf (x y z : Nat) : Nat := x + 16 * y + 256 * z

/-- Whether an ID names a device (DEDUCED, log entry 50). -/
def idExists (s : State) (id : Nat) : Bool := (List.range 3).all fun d => decide (coordOf id d < torusSize s d)

/-- An ID with one coordinate moved by a signed step, wrapping. -/
def moveId (s : State) (id dim : Nat) (plus : Bool) (by' : Nat) : Nat :=
  let n := torusSize s dim
  let c := (coordOf id dim + (if plus then by' else n * by' - by')) % n
  idOf (if dim = 0 then c else coordOf id 0) (if dim = 1 then c else coordOf id 1) (if dim = 2 then c else coordOf id 2)

/-- Whether the express ring is in use (11 R289). -/
def expressOn (s : State) : Bool := decide (objGet s 0x2300 5 = 1) && decide (3 ≤ torusSize s 2)

/-- The device at the far end of a port. -/
def peerOf (s : State) (id k : Nat) : Nat :=
  if k < 6 then moveId s id (k / 2) (decide (k % 2 = 0)) 1 else moveId s id 2 (decide (k = 6)) 2

/-- The port on which the far end answers (11 R279). -/
def answerPort (k : Nat) : Nat := if k % 2 = 0 then k + 1 else k - 1

/-- Whether the hop through a port crosses the dateline of its dimension (11 R290). -/
def crossesDateline (s : State) (id k : Nat) : Bool :=
  let dim := if k < 6 then k / 2 else 2
  let c := coordOf id dim
  let n := torusSize s dim
  if k < 6 then (if k % 2 = 0 then decide (c + 1 = n) else decide (c = 0))
  else if k = 6 then decide (n ≤ c + 2) else decide (c < 2)

/-! ### The route (11 R291) -/

/-- What the route of a flit is. -/
inductive Hop where
  | deliver
  /-- through a port, in a dimension, with that many hops to go -/
  | port (k dim togo : Nat)
deriving DecidableEq, Repr

/-- Whether an express port carries a flit. -/
def expressActive (s : State) (k : Nat) : Bool := expressOn s && portActive s k && decide (objGet s 0x2301 (k + 1) = 1)

/-- One dimension of the route: none if the coordinates agree. -/
def routeDim (s : State) (c d dim : Nat) : Option Hop :=
  let n := torusSize s dim
  if coordOf c dim = coordOf d dim then none
  else
    let k := (coordOf d dim + n - coordOf c dim % n) % n
    let plus := decide (k ≤ n - k)
    let togo := min k (n - k)
    let ex := if plus then 6 else 7
    if dim = 2 ∧ expressActive s ex = true ∧ 2 ≤ togo then some (.port ex 2 togo)
    else some (.port (2 * dim + b2n (!plus)) dim togo)

/-- The route from c to d. -/
def route (s : State) (c d : Nat) : Hop :=
  match routeDim s c d 0 with
  | some h => h
  | none =>
    match routeDim s c d 1 with
    | some h => h
    | none => (routeDim s c d 2).getD .deliver

/-! ### Detours (11 R292) -/

/-- What becomes of a flit: delivered here, sent through a port with a new VCD and DET, dropped by the detour limit, or
dropped as a dark destination. -/
inductive Fate where
  | deliver
  | send (k vcd det : Nat)
  | limit
  | dark
deriving DecidableEq, Repr

/-- The sidestep's port: the next dimension of the cycle X, Y, Z, X whose size is above 1, plus before minus. -/
def sidestepPort (s : State) (dim : Nat) : Option Nat :=
  match [(dim + 1) % 3, (dim + 2) % 3].find? fun d => decide (1 < torusSize s d) with
  | none => none
  | some d => [2 * d, 2 * d + 1].find? fun k => portActive s k

/-- The dimension of the port a flit came in on. -/
def dimOfPort (k : Nat) : Option Nat := if 8 ≤ k then none else if k < 6 then some (k / 2) else some 2

/-- Whether a flit that came in on a port and goes on in a dimension begins to route that dimension (11 R290). X is routed before Y and Y
before Z, so one that came in on a later dimension was sidestepped, and resumes its own; one that came in on the same dimension goes on in
it, unless it turns back or has a whole ring of two behind it: then a sidestep brought it in (DEDUCED, log entry 114). -/
def beginsDim (s : State) (origin k dim : Nat) : Bool :=
  match dimOfPort origin with
  | none => true
  | some d => decide (d < dim) || (decide (d = dim) && (decide (k % 2 = origin % 2) || decide (torusSize s dim = 2)))

/-- The VCD of a flit that came in on a port and leaves by another (11 R290). -/
def nextVcd (s : State) (id origin k dim : Nat) (vcd : Nat) : Nat :=
  if crossesDateline s id k then 1 else if beginsDim s origin k dim then 0 else vcd

/-- The fate of a flit for device d that is here at c, having come in on a port. -/
def fateOf (s : State) (origin d vcd det : Nat) : Fate :=
  let c := myId s
  if d = c then .deliver
  else if !(idExists s d) then .dark
  else
    match route s c d with
    | .deliver => .deliver
    | .port k dim togo =>
      let go := fun k' => Fate.send k' (nextVcd s c origin k' dim vcd) det
      if portActive s k then go k
      else
        let ex := if k = 4 then 6 else 7
        let torusZ := if k = 6 then 4 else 5
        if 6 ≤ k ∧ portActive s torusZ = true then go torusZ
        else if (k = 4 ∨ k = 5) ∧ expressActive s ex = true ∧ 2 ≤ togo then go ex
        else if peerOf s c k = d then .dark
        else
          match sidestepPort s dim with
          | some k' => if det < 2 then .send k' vcd (det + 1) else .limit
          | none => .limit

/-- A flit dropped by the detour limit (11 R292): counted and named in a record. -/
def dropByLimit (s : State) (f : Flit) : State :=
  fileToll (objAdd s 0x7300 7 1) (tollOf 0x42 2 (field (headOf f) 127 114))

/-- A completion for a remote write: to its source, refused or done (11 Table 11-3). -/
def completionFor (s : State) (f : Flit) (refused : Bool) : Flit :=
  makeFlit (flitHeader (field (headOf f) 113 100) (myId s) 1 0 0 1 0
    (field (headOf f) 38 23 * 2 ^ 23 + b2n refused * 2 ^ 21)) []

/-- The record of an Ethernet peer (11 R287, object 2309h). -/
def ethRecord (s : State) (dst : Nat) : List Byte :=
  (((storeGet [] s.dict.blobs (objKey 0x2309 0)).drop ((dst - 0x3F00) * 8)).take 8 ++ List.replicate 8 0).take 8

/-- The Ethernet port of a device ID 3F00h to 3FFFh. -/
def ethPort (s : State) (dst : Nat) : Nat := 6 + ((ethRecord s dst).getD 6 0).toNat % 2

/-- The interface of a device ID 3F00h to 3FFFh. -/
def ethIface (s : State) (dst : Nat) : Nat := ((ethRecord s dst).getD 6 0).toNat / 2 % 4

/-- The interfaces of an Ethernet port: two of eight lanes, or four of four (11 R286, objects 2301h:09 and :0A). -/
def ethIfaces (s : State) (k : Nat) : Nat := if objGet s 0x2301 (k + 3) = 1 then 4 else 2

/-- What became of a flit that was to be sent: it waits at a port, it is for this device, it was dropped by the detour limit or because
its destination is dark. -/
inductive Sent where
  | queued
  | here
  | limit
  | dark
deriving DecidableEq, Repr

/-- The header of a flit with another VCD and DET. -/
def reHead (f : Flit) (vcd det : Nat) : Flit :=
  let h := headOf f
  withHead f (BitVec.ofNat 128 (h.toNat - field h 97 97 * 2 ^ 97 - field h 96 95 * 2 ^ 95 + vcd % 2 * 2 ^ 97 + det % 4 * 2 ^ 95))

/-- Send a flit on its way from this device: `origin` is the port it came in on, `held` whether it holds a place there. A flit for an Ethernet
peer leaves through its interface; of one that names no interface of its port the destination is dark (DESIGN CHOICE, log entry
113). A collective flit of this device that is lost to a dark destination is noted for its collective (12 R332). -/
def launchFlit (s : State) (origin : Nat) (held : Bool) (f : Flit) : State × Sent :=
  let h := headOf f
  let dst := field h 127 114
  let dark := fun (s : State) =>
    let s := objAdd s 0x7300 8 1
    if field h 94 91 = 2 ∧ field h 113 100 = myId s then s.onFab fun x => { x with inbox := x.inbox ++ [(true, f)] } else s
  if 0x3F00 ≤ dst then
    let k := ethPort s dst
    if portActive s k ∧ objGet s 0x2301 (k + 1) = 2 ∧ ethIface s dst < ethIfaces s k then (enqueueFlit s k ⟨origin, held, f, f⟩, .queued)
    else (dark s, .dark)
  else
    match fateOf s origin dst (field h 97 97) (field h 96 95) with
    | .deliver => (s, .here)
    | .send k vcd det =>
      let s := if det = field h 96 95 then s else objAdd s 0x7300 6 1
      (enqueueFlit s k ⟨origin, held, f, reHead f vcd det⟩, .queued)
    | .limit => (dropByLimit s f, .limit)
    | .dark => (dark s, .dark)

/-- The channel of a flit. -/
def channelOf (f : Flit) : Nat := 2 * flitCls f + field (headOf f) 97 97

/-- The priority of a class on Ethernet (11 R286): C 3, M 4, K 6. -/
def ethPriority (cls : Nat) : Nat := if cls = 0 then 3 else if cls = 1 then 4 else 6

/-- The places that a class takes up on an Ethernet port have become n: its peer is asked to pause the class, or to go on (11 R286). -/
def placeEth (s : State) (k cls n : Nat) : State :=
  let p := portGet s k
  let out := p.pausing.contains cls
  let q := { p with placed := storeSet 0 p.placed cls n }
  if Config.pauseFrom ≤ n ∧ out = false then
    (portSet s k { q with pausing := cls :: p.pausing }).emit (.pause k (ethPriority cls) 0xFFFF)
  else if n < Config.pauseFrom ∧ out = true then
    (portSet s k { q with pausing := p.pausing.erase cls }).emit (.pause k (ethPriority cls) 0)
  else portSet s k q

/-- A flow-control frame of the peer: a class of an interface is paused for so many times 512 bits (11 R286). -/
def takePause (s : State) (k iface cls quanta : Nat) : State :=
  let p := portGet s k
  let rate := 1000 * (if ethIfaces s k = 4 then 800 else 1600)
  let clks := (quanta * 512 * pointMhz s.power.dvfs + rate - 1) / rate
  portSet s k { p with paused := storeSet 0 p.paused (iface * 4 + cls) (realClk s + clks) }

/-- Count places that flits of a channel have freed at a port. -/
def freePlace (s : State) (k ch n : Nat) : State :=
  if 8 ≤ k then s
  else if objGet s 0x2301 (k + 1) = 2 then placeEth s k (ch / 2) (storeGet 0 (portGet s k).placed (ch / 2) - n)
  else
    let p := portGet s k
    portSet s k { p with freed := storeSet 0 p.freed ch (storeGet 0 p.freed ch + n) }

/-- A flit that leaves its receive buffer frees its place there, in the channel it came in on (11 R283). -/
def leavePlace (s : State) (origin : Nat) (held : Bool) (f : Flit) : State := if held then freePlace s origin (channelOf f) 1 else s

/-- Send a flit on, or name one to deliver here: itself, or the refused completion that a dark destination returns for a remote write of
class M (11 R292). A flit that does not wait at a port has freed its place. -/
def forwardFrom (s : State) (origin : Nat) (held : Bool) (f : Flit) : State × Option Flit :=
  match launchFlit s origin held f with
  | (s, .queued) => (s, none)
  | (s, .here) => (leavePlace s origin held f, some f)
  | (s, .limit) => (leavePlace s origin held f, none)
  | (s, .dark) =>
    let s := leavePlace s origin held f
    if flitCls f = 1 ∧ field (headOf f) 94 91 = 0 then
      let c := completionFor s f true
      if field (headOf c) 127 114 = myId s then (s, some c) else ((launchFlit s 8 false c).1, none)
    else (s, none)

/-- Send on a flit that came in on a port (8: this device's own). -/
def forwardFlit (s : State) (origin : Nat) (f : Flit) : State × Option Flit := forwardFrom s origin (decide (origin < 8)) f

/-! ### Credits and frames (11 R275, R276, R282 to R284) -/

/-- Whether the port holds a credit for a flit. -/
def hasCredit (p : Port) (f : Flit) : Bool := decide (0 < storeGet 32 p.credits (channelOf f)) || decide (0 < p.shared)

/-- Spend a credit: the channel's own, else a shared one. -/
def spendCredit (p : Port) (f : Flit) : Port :=
  let c := storeGet 32 p.credits (channelOf f)
  if 0 < c then { p with credits := storeSet 32 p.credits (channelOf f) (c - 1) } else { p with shared := p.shared - 1 }

/-- Return n freed places of a channel. -/
def returnCredits (p : Port) (ch n : Nat) : Port :=
  let c := storeGet 32 p.credits ch
  let own := min (32 - c) n
  { p with credits := storeSet 32 p.credits ch (c + own), shared := min 1628 (p.shared + (n - own)) }

/-- The flit of a class that is next: the inputs and this device are served in rotation, each oldest first; only one that may go
is ready: with a credit, or on Ethernet with its class not paused (11 R282, R284, R286). -/
def nextOfClass (p : Port) (mayGo : Flit → Bool) (cls : Nat) : Option Queued :=
  let start := storeGet 0 p.turn cls
  let ready := p.queue.filter fun q => decide (flitCls q.flit = cls)
  ((List.range 9).map fun i => (start + i) % 9).findSome? fun o =>
    match ready.find? fun q => decide (q.origin = o) with
    | some q => if mayGo q.flit then some q else none
    | none => none

/-- The flit that goes next from a port, and the round of R284 it leaves: K first, then C and M by their weights
(DESIGN CHOICE, log entry 90). -/
def pickFlit (s : State) (k : Nat) : Option (Queued × (Nat × Nat)) :=
  let p := portGet s k
  let mayGo := fun f : Flit =>
    if objGet s 0x2301 (k + 1) = 1 then hasCredit p f
    else decide (storeGet 0 p.paused (ethIface s (field (headOf f) 127 114) * 4 + flitCls f) ≤ realClk s)
  match nextOfClass p mayGo 2 with
  | some q => some (q, p.served)
  | none =>
    let wc := objGet s 0x2307 1
    let wm := objGet s 0x2307 2
    let served := if wc ≤ p.served.1 ∧ wm ≤ p.served.2 then (0, 0) else p.served
    let takeC := fun (q : Queued) => some (q, (served.1 + 1, served.2))
    let takeM := fun (q : Queued) => some (q, (served.1, served.2 + 1))
    match nextOfClass p mayGo 0, nextOfClass p mayGo 1 with
    | some c, some m => if served.1 < wc then takeC c else takeM m
    | some c, none => if served.1 < wc then takeC c else some (c, (1, 0))
    | none, some m => if served.2 < wm then takeM m else some (m, (0, 1))
    | none, none => none

/-- Flits that a frame holds (11 R275, R281). -/
def frameSize (p : Port) : Nat := if p.half then 8 else 16

/-- Put a flit into the frame that is being sent, opening one where none has room (DEDUCED, log entry 39). -/
def frameFlit (s : State) (k : Nat) (q : Queued) : State :=
  let room := match (portGet s k).replay.getLast? with
    | some fr => decide (fr.1 = (portGet s k).txSeq) && decide (fr.2.length < frameSize (portGet s k))
    | none => false
  let s := if room then s else openFrame s k false []
  let p := portGet s k
  let rp := match p.replay.reverse with
    | last :: r => ((last.1, last.2 ++ [{ q with held := false }]) :: r).reverse
    | [] => []
  (portSet s k { p with replay := rp }).emit (.flit k q.flit)

/-- Send an Ethernet frame (11 R286, R287): the flit that is next, with those of its class and peer that wait, at most 31; the header gives this
device, the count and the sequence number. -/
def sendEthernet (s : State) (k : Nat) (q : Queued) : State :=
  let dst := fun x : Queued => field (headOf x.flit) 127 114
  let same := fun x : Queued => decide (dst x = dst q) && decide (flitCls x.flit = flitCls q.flit)
  let batch := q :: (((portGet s k).queue.erase q).filter same).take 30
  let seq := (portGet s k).ethSeq
  let s := batch.foldl (fun s x =>
    let p := portGet s k
    leavePlace (portSet s k { p with queue := p.queue.erase x }) x.origin x.held x.came) s
  let p := portGet s k
  (portSet s k { p with ethSeq := seq + 1 }).emit
    (.ethernet k (ethIface s (dst q)) ((ethRecord s (dst q)).take 6) (objGet s 0x2308 1) (ethPriority (flitCls q.flit))
      (BitVec.ofNat 64 (myId s % 2 ^ 16 * 2 ^ 48 + batch.length * 2 ^ 32 + seq.toNat)) (batch.map fun x => x.flit))

/-- Send from a port (11 R282 to R284, R287). -/
def sendOne (s : State) (k : Nat) : State :=
  if !(portActive s k) then s
  else
    match pickFlit s k with
    | none => s
    | some (q, served) =>
      let p := portGet s k
      let p := { p with served := served, turn := storeSet 0 p.turn (flitCls q.flit) ((q.origin + 1) % 9) }
      if objGet s 0x2301 (k + 1) = 2 then sendEthernet (portSet s k p) k q
      else
        let s := portSet s k (spendCredit { p with queue := p.queue.erase q } q.flit)
        frameFlit (leavePlace s q.origin q.held q.came) k q

/-! ### Dark ports (11 R293) -/

/-- A flit routed anew; one that is for this device waits in the inbox. -/
def detourFlit (s : State) (q : Queued) : State :=
  match forwardFrom s q.origin q.held q.came with
  | (s, none) => s
  | (s, some g) => s.onFab fun x => { x with inbox := x.inbox ++ [(false, g)] }

/-- A port leaves ACTIVE for another state: every flit that waits for it, and every flit of its replay buffer not yet
acknowledged, is routed anew. -/
def leaveActive (s : State) (k : Nat) (st : PortState) : State :=
  let p := portGet s k
  let waiting := p.queue
  let unacked := p.replay.flatMap fun fr => fr.2
  let s := portSet s k { p with
    st := st, step := 1, queue := [], replay := [], sentCtl := [], replays := 0, discarding := false, nak := false, freed := [],
    served := (0, 0), marker := false, peerHop := 63, credits := [], shared := 1628, gen := 0, placed := [], pausing := [], paused := [] }
  (unacked ++ waiting).foldl detourFlit s

/-- A lit port that goes dark: an ACTIVE one detours its flits. -/
def darkenPort (s : State) (k : Nat) : State :=
  let p := portGet s k
  if p.st = .off then s
  else if p.st = .active then leaveActive s k .dark
  else portSet s k { p with st := .dark, step := 1, gen := 0, peerHop := 63 }

end Sys2Proof.Machine
end

