-- ==== Sys2Proof/Machine/DmaUnit.lean ====
section
/-! DEFINITION. The slices' DMA engines: the issue queue, acceptance and descriptors, addresses, requests, completion and
errors (10 R254 to R267). A request's data is read and written at its completion, which is one of the orders that 10 R259
allows (DESIGN CHOICE, log entry 19). -/

namespace Sys2Proof.Machine

/-! ### Descriptor fields (10 Tables 10-2, 10-3) -/

/-- A field of the header. -/
def dHdr (d : BitVec 512) (hi lo : Nat) : Nat := field d hi lo
/-- A field of the body. -/
def dBody (d : BitVec 512) (hi lo : Nat) : Nat := field d (256 + hi) (256 + lo)

def dKind (d : BitVec 512) : Nat := dHdr d 255 250
def dCh (d : BitVec 512) : Nat := dHdr d 249 248
def dRem (d : BitVec 512) : Bool := decide (dHdr d 247 247 = 1)
def dDev (d : BitVec 512) : Nat := dHdr d 246 233
def dSrc (d : BitVec 512) : Nat := dHdr d 223 172
def dDst (d : BitVec 512) : Nat := dHdr d 171 120
def dLen (d : BitVec 512) : Nat := dHdr d 119 96
def dRows (d : BitVec 512) : Nat := dHdr d 95 80 + 1
def dSpt (d : BitVec 512) : Nat := dHdr d 79 48
def dDpt (d : BitVec 512) : Nat := dHdr d 47 16
def dGss (d : BitVec 512) : Int := signedOf 40 (dBody d 255 216)
def dGsd (d : BitVec 512) : Int := signedOf 40 (dBody d 215 176)

/-! ### Stash descriptor fields (09 Table 9-3) -/

def tHome (d : BitVec 512) : Nat := dBody d 255 204
def tLoc (d : BitVec 512) : Nat := dBody d 203 180
def tSize (d : BitVec 512) : Nat := dBody d 179 166
def tLayer (d : BitVec 512) : Nat := dBody d 165 150
def tEnt (d : BitVec 512) : Nat := dBody d 149 142
def tRec (d : BitVec 512) : Bool := decide (dBody d 141 141 = 1)
def tKeep (d : BitVec 512) : Bool := decide (dBody d 140 140 = 1)

/-- The conditions common to the stash kinds (09 R229): reserved bits, LOC unless it is ignored. -/
def stashBad (d : BitVec 512) (loc : Bool) (size : Nat) : Bool :=
  decide (dHdr d 247 0 ≠ 0) || decide (dBody d 139 0 ≠ 0)
    || (loc && (decide (tLoc d % 64 ≠ 0) || decide (0x1000000 < tLoc d + size * 1024)))

/-- Whether a local span below M reaches the reserved region (10 R244). -/
def locReserved (level : BitVec 2) (d : BitVec 512) (size : Nat) : Bool :=
  decide (level ≠ 3) && decide (0xFF0000 < tLoc d + size * 1024)

/-- Whether every number of a list is a multiple of 16. -/
def all16 (l : List Nat) : Bool := l.all fun x => decide (x % 16 = 0)

/-- The check of a descriptor (10 R255, R257, R262, R263; 09 R229; 14 R378): a cause, or none (DEDUCED, log entry 43). -/
def descCheck (level : BitVec 2) (d : BitVec 512) : Option Nat :=
  let kind := dKind d
  let below := decide (level ≠ 3)
  let rest := decide (dHdr d 232 224 ≠ 0) || decide (dHdr d 15 0 ≠ 0)
  let devBad := !(dRem d) && decide (dDev d ≠ 0)
  let bad (b : Bool) : Option Nat := if b then some 1 else none
  if dCh d = 3 then some 1
  else if kind = 0 then
    if dRem d && below then some 4
    else bad (rest || devBad || decide (dBody d 175 0 ≠ 0)
      || !(all16 [dSrc d, dDst d, dLen d, dSpt d, dDpt d, dBody d 255 216, dBody d 215 176]))
  else if kind = 1 then
    bad (rest || devBad || dRem d || decide (dSrc d ≠ 0) || decide (dBody d 191 0 ≠ 0) || !(all16 [dDst d, dLen d, dDpt d]))
  else if kind = 2 then
    bad (rest || devBad || dRem d || decide (dBody d 197 0 ≠ 0) || decide (2 < dBody d 255 252) || !(all16 [dSrc d, dDst d]))
  else if kind = 3 then
    bad (rest || devBad || dRem d || decide (dDst d ≠ 0) || decide (dDpt d ≠ 0) || decide (dBody d 215 0 ≠ 0)
      || !(all16 [dSrc d, dLen d, dSpt d, dBody d 255 216]))
  else if 8 ≤ kind ∧ kind ≤ 10 then none
  else if 0x10 ≤ kind ∧ kind ≤ 0x12 then
    let op := dBody d 255 252
    let sl := dBody d 251 250
    let dev := dBody d 249 236
    let opOk := if kind = 0x10 then decide (1 ≤ op ∧ op ≤ 3) else if kind = 0x11 then decide (op = 4)
      else decide (5 ≤ op ∧ op ≤ 7)
    let fieldsOk := (decide (sl = 0) || (decide (sl = 1) && decide (op = 4 ∨ op = 6))) && (decide (dev = 0) || decide (op = 4))
      && (decide (dBody d 235 184 = 0) || decide (op ≤ 3))
    if below then some 4 else bad (decide (dHdr d 247 0 ≠ 0) || decide (dBody d 183 0 ≠ 0) || !opOk || !fieldsOk)
  else some 1

/-! ### The issue queue (10 R254) -/

/-- Whether a DM operation finds the DMA issue queue full: DMA actions that wait stand ahead of it (11 R310). -/
def dmaFull (s : State) : Bool := decide (16 ≤ s.dma.queue.length) || !s.fab.cueWait.isEmpty

/-- Bytes moved by an action that a cue started are counted for its queue (15 R399). -/
def noteCue (s : State) (q : Option Nat) (n : Nat) : State :=
  match q with
  | none => s
  | some q => s.onPower fun p => { p with cueWork := storeSet 0 p.cueWork q (storeGet 0 p.cueWork q + n) }

/-- A DM issue: an empty group does nothing. -/
def dmaIssue (s : State) (xd : W64) (mask : BitVec 160) (tag : BitVec 6) (level spr : BitVec 2) : State :=
  if mask = 0 then s
  else s.onDma fun d => { d with
    queue := d.queue ++ [⟨xd, mask, tag, level, spr, s.cnt.op, s.cnt.clk, none, none⟩] }

/-- Whether a transfer of a tag is in the issue queue, or in flight in a slice of a mask (10 R260). -/
def tagBusy (s : State) (mask : BitVec 160) (tag : BitVec 6) : Bool :=
  decide (mask ≠ 0) &&
    (s.dma.queue.any (fun x => decide (x.tag = tag))
      || s.dma.held.any (fun h => decide (h.x.tag = tag) && mask.getLsbD h.slice)
      || s.dma.convs.any (fun c => decide (c.tag = tag) && decide (c.mask &&& mask ≠ 0))
      || s.fab.cueWait.any (fun x => decide (x.tag = tag))
      || s.ckpt.job.any (fun j => decide (j.tag = tag)) || s.ckpt.returns.any (fun j => decide (j.tag = tag)))

/-! ### Addresses (10 R241 to R244, R256) -/

/-- The cause of a translation that fails: no target at a table entry, an error of the die-to-die link or no completion on the walk, or
anything else (10 Table 10-5). -/
def walkCause (c u : Nat) : Nat := if c ≠ 3 then 2 else if u = 2 then 0xA else if u = 3 then 6 else 3

/-- A data address of a transfer as a device physical address, or the cause of its failure. -/
def dmaAddr (s : State) (slice : Nat) (level : BitVec 2) (va : W64) (write : Bool) : State × (Nat ⊕ Nat) :=
  match translate s (1 + slice) level va write with
  | (s, .fail c u _) => (s, .inr (walkCause c u))
  | (s, .ok pa) =>
    match regionOf pa with
    | .localScratch off => if 0xFF0000 ≤ off ∧ level ≠ 3 then (s, .inr 4) else (s, .inl (scratchAddr slice off))
    | .program _ => if level ≠ 3 then (s, .inr 4) else (s, .inl pa)
    | _ => if inReserved pa ∧ level ≠ 3 then (s, .inr 4) else if hasTarget s pa then (s, .inl pa) else (s, .inr 3)

/-- A data address that a request goes to: over the die-to-die link, where it lies on the other die, with what the link does to it (10 Table
10-5, 0Ah; DESIGN CHOICE, log entry 104). -/
def dmaReach (s : State) (slice : Nat) (level : BitVec 2) (va : W64) (write : Bool) : State × (Nat ⊕ Nat) :=
  match dmaAddr s slice level va write with
  | (s, .inr cause) => (s, .inr cause)
  | (s, .inl pa) => (crossDie s (slice / 80) pa, if linkSub s (slice / 80) pa = 2 then .inr 0xA else .inl pa)

/-- Whether a base address names the local-scratch window. -/
def baseLocal (s : State) (slice : Nat) (level : BitVec 2) (va : W64) (write : Bool) : State × Bool :=
  match translate s (1 + slice) level va write with
  | (s, .ok pa) => (s, match regionOf pa with
    | .localScratch _ => true
    | _ => false)
  | (s, _) => (s, false)

/-- A base address moved by the group stride, unless it is local (10 R256). -/
def strideBase (s : State) (h : Held) (va : W64) (stride : Int) (write : Bool) : State × W64 :=
  let (s, loc) := baseLocal s h.slice h.x.level va write
  (s, if loc then va else va + BitVec.ofInt 64 (stride * h.k))

/-- The descriptor address: scratch, a multiple of 64 (10 R254). -/
def descAddr (s : State) (slice : Nat) (x : Xfer) : State × (Nat ⊕ Nat) :=
  if x.level = 3 ∧ 2 ^ 48 ≤ x.xd.toNat then (s, .inr 1)
  else
    match translate s (1 + slice) x.level x.xd false with
    | (s, .fail c u _) => (s, .inr (walkCause c u))
    | (s, .ok pa) =>
      match regionOf pa with
      | .localScratch off =>
        if x.xd.toNat % 64 ≠ 0 then (s, .inr 1)
        else if 0xFF0000 ≤ off ∧ x.level ≠ 3 then (s, .inr 4) else (s, .inl (scratchAddr slice off))
      | .scratch _ off =>
        if x.xd.toNat % 64 ≠ 0 then (s, .inr 1)
        else if 0xFF0000 ≤ off ∧ x.level ≠ 3 then (s, .inr 4)
        else (crossDie s (slice / 80) pa, match linkSub s (slice / 80) pa with
          | 2 => .inr 0xA
          | 3 => .inr 6
          | _ => .inl pa)
      | _ => (s, .inr 1)

/-! ### Controller queues (10 R265, R267) -/

/-- The clay or marl bank of a physical address, as one number. -/
def bankOf (pa : Nat) : Option Nat :=
  match regionOf pa with
  | .clay d off => let p := clayPlace d off; some ((p.1 * 32 + p.2.1) * 64 + p.2.2.1)
  | .marl d off => let p := marlPlace d off; some (2 ^ 20 + (p.1 * 8 + p.2.1) * 16 + p.2.2.1)
  | _ => none

/-- The banks an end holds a slot against. -/
def endBanks (e : End) : List Nat :=
  match e with
  | .phys pa => (bankOf pa).toList
  | _ => []

/-- The banks of a request in flight. -/
def reqBanks (r : Req) : List Nat := (endBanks r.src ++ endBanks r.dst).eraseDups

/-- The controller queue of a bank, and how many requests it holds: a pseudo-channel's 64, an LPDDR channel's 32. -/
def queueOf (bank : Nat) : Nat := if bank < 2 ^ 20 then bank / 64 else 2 ^ 20 + (bank - 2 ^ 20) / 16
def queueCap (q : Nat) : Nat := if q < 2 ^ 20 then 64 else 32

/-- The queue entry that an end needs: none where the cache holds every line, or takes whole lines without a fill. -/
def endPlace (s : State) (e : End) (len : Nat) (write : Bool) (hint : Nat) : List (Nat × Nat) :=
  match e with
  | .phys pa =>
    let free := fun l => (lineGet s l).held || (write && decide (hint ≠ 1) && decide (spanInLine pa len l = 128))
    if (linesOf pa len).all free then [] else (bankOf pa).toList.map fun b => (queueOf b, b)
  | _ => []

/-- The queue entries that a request needs. -/
def reqPlaces (s : State) (r : Req) (hint : Nat) : List (Nat × Nat) :=
  (endPlace s r.src r.len false hint ++ endPlace s r.dst r.len true hint).eraseDups

/-- Every request in flight. -/
def flights (s : State) : List Flight := s.dma.held.flatMap fun h => h.out

/-- Whether a controller queue has room. -/
def queueRoom (s : State) (q : Nat) : Bool :=
  decide (((flights s).countP fun f => f.admitted && f.places.any fun p => decide (p.1 = q)) < queueCap q)

/-- Change one request in flight. -/
def onFlight (s : State) (num : Nat) (g : Flight → Flight) : State :=
  s.onDma fun d => { d with held := d.held.map fun h => { h with out := h.out.map fun f => if f.num = num then g f else f } }

/-- A request enters the queues that it waits for if each has room and no older request waits for one of them. -/
def admitOne (s : State) (f : Flight) : State :=
  let older := (flights s).any fun g => decide (g.num < f.num) && !g.admitted
    && g.places.any fun p => f.places.any fun q => decide (p.1 = q.1)
  if f.places.all (fun p => queueRoom s p.1) && !older then onFlight s f.num fun g => { g with admitted := true } else s

/-- A request put in its place by number. -/
def insertFlight (f : Flight) (l : List Flight) : List Flight :=
  match l with
  | [] => [f]
  | g :: r => if f.num < g.num then f :: g :: r else g :: insertFlight f r

/-- Requests that wait enter the queues as room comes, oldest first across all slices (10 R267). -/
def admitAll (s : State) : State :=
  let waiting := (flights s).filter fun f => !f.admitted
  (waiting.foldl (fun l f => insertFlight f l) []).foldl admitOne s

/-- Whether a request must let an older one be served first: one in the same queue for the same bank (10 R267; which banks are busy is not
modelled, DESIGN CHOICE, log entry 19). -/
def behindOlder (s : State) (f : Flight) : Bool :=
  (flights s).any fun g => decide (g.num < f.num) && g.admitted && g.places.any fun p => f.places.contains p

/-! ### Busy entries of the stash (09 R229, R230, R232, R234) -/

/-- A free entry. -/
def freeEntry : StashEnt :=
  { st := 0, next := 0, op := 0, last := 0, recomp := false, keep := false, size := 0, layer := 0, home := 0, level := 0,
    mask := 0, seqNo := 0, run := [] }

def entGet (s : State) (e : Nat) : StashEnt := storeGet freeEntry s.dma.stash e
def entSet (s : State) (e : Nat) (v : StashEnt) : State := s.onDma fun d => { d with stash := storeSet freeEntry d.stash e v }

/-- A put that R229 does not refuse: its descriptor is well formed and its span lies where its level may read (09 R229; 10 R244). -/
def putGood (level : BitVec 2) (d : BitVec 512) : Bool :=
  decide (dKind d = 8) && (descCheck level d).isNone && !(stashBad d true (tSize d)) && decide (0 < tSize d) && decide (tSize d ≤ 9830)
    && !(locReserved level d (tSize d))

/-- The descriptor that a slice would read now for a transfer of the queue; none where its address is refused. -/
def peekDesc (s : State) (x : Xfer) (slice : Nat) : Option (BitVec 512) :=
  match (descAddr s slice x).2 with
  | .inl pa => some (BitVec.ofNat 512 (ofLe (peekBytes s pa 64)))
  | .inr _ => none

/-- The descriptors of an operation's parts that have not begun: those that its slices have read, and those of slices that have still to
accept it, as they stand in scratch. -/
def partDescs (s : State) (x : Xfer) : List (BitVec 512) :=
  ((s.dma.held.filter fun h => decide (h.x.op = x.op) && !h.begun).map fun h => h.desc)
    ++ ((members x.mask).filter fun sl => !(storeGet false s.dma.accepted (x.op * 256 + sl))).filterMap fun sl => peekDesc s x sl

/-- The descriptor by which an operation puts an entry, if every put of it on that entry is good. -/
def putOf (ds : List (BitVec 512)) (level : BitVec 2) (e : Nat) : Option (BitVec 512) :=
  let mine := ds.filter fun d => decide (dKind d = 8) && decide (tEnt d = e)
  if mine.all (putGood level) then mine.head? else none

/-- The oldest operation in the issue queue that puts an entry, with its descriptor (09 R230). One issued before the last stream start takes
none (R228). -/
def queuedPut (s : State) (e : Nat) : Option (Nat × BitVec 512) :=
  s.dma.queue.findSome? fun x =>
    if x.op < s.dma.born then none else (putOf (partDescs s x) x.level e).map fun d => (x.op, d)

/-- Whether an entry is taken by a put of another operation that has not begun: one that the engines hold, or an older one that is still in
the issue queue. -/
def claimedByOther (s : State) (op e : Nat) : Bool :=
  (s.dma.claims.any fun c => decide (c.1 ≠ op) && decide (c.2.1 = e))
    || (match queuedPut s e with
      | some p => decide (p.1 < op)
      | none => false)

/-- Whether a descriptor is of a stash kind. -/
def stashKind (d : BitVec 512) : Bool := decide (8 ≤ dKind d) && decide (dKind d ≤ 10)

/-- Whether a stash transfer issued before the last announcement of a repeat, or before the last start, is still in flight (09 R234; 10
R260). -/
def stashDraining (s : State) : Bool :=
  (s.dma.held.any fun h => decide (h.x.op < s.dma.cut) && stashKind h.desc)
    || s.dma.queue.any fun x => decide (x.op < s.dma.cut) && (partDescs s x).any stashKind

/-- An entry of an announced repeat or of an earlier stream becomes free. -/
def freeOld (cut : Nat) (e : StashEnt) : StashEnt := if e.st ≠ 4 ∧ e.seqNo < cut then { e with st := 0, run := [] } else e

/-- Busy entries whose transfer has ended in every slice take the state that follows, a put that no engine holds any longer gives its
entry up, and the entries that a repeat frees become free once every earlier transfer on the stash has ended (09 R234). -/
def stashSettle (s : State) : State :=
  let moving := fun (op : Nat) => s.dma.held.any fun h => decide (h.x.op = op) && stashKind h.desc
  let next := fun (_ : Nat) (e : StashEnt) =>
    if e.st = 4 ∧ moving e.op = false then
      { e with st := e.next, run := if e.next = 1 then e.run else [] }
    else e
  let waits := fun (op : Nat) => s.dma.held.any fun h => decide (h.x.op = op) && !h.begun
  let s := s.onDma fun d => { d with stash := storeMap freeEntry next d.stash, claims := d.claims.filter fun c => waits c.1 }
  if stashDraining s then s
  else s.onDma fun d => { d with stash := storeMap freeEntry (fun _ e => freeOld d.cut e) d.stash }

/-! ### Ending and failing -/

/-- Replace a held transfer. -/
def putHeld (s : State) (h : Held) : State :=
  s.onDma fun d => { d with held := d.held.map fun g => if g.x.op = h.x.op ∧ g.slice = h.slice then h else g }

/-- The held transfer of an operation in a slice. -/
def heldOf (s : State) (op slice : Nat) : Option Held :=
  s.dma.held.find? fun g => decide (g.x.op = op ∧ g.slice = slice)

/-- A held transfer that has nothing more to do leaves its engine; what waited for it goes on. -/
def settle (s : State) (op slice : Nat) : State :=
  admitAll (stashSettle (s.onDma fun d => { d with held := d.held.filter fun g =>
    !(decide (g.x.op = op ∧ g.slice = slice) && g.begun && !g.conv && g.todo.isEmpty && g.out.isEmpty) }))

/-- The record of a failure (10 R261, Table 10-4): the tag ends with error status, interrupt 12h. -/
def dmaError (s : State) (op : Nat) (tag : BitVec 6) (slice cause : Nat) (addr : W64) : State :=
  let s := s.onCtl fun c => { c with
    dmerr := setBit c.dmerr tag.toNat true,
    dmelog := BitVec.ofNat 64 (cause + tag.toNat * 2 ^ 8 + slice * 2 ^ 14),
    dmea := BitVec.ofNat 64 (field addr 51 0) }
  let s := raiseInt s 0x12
  if s.dma.erred.contains op then s
  else (objAdd s 0x7220 9 1).onDma fun d => { d with erred := op :: d.erred }

/-- The same for a held transfer; a stash descriptor that ends in error is counted once for its operation (09 Table 9-6). -/
def xferError (s : State) (h : Held) (cause : Nat) (addr : W64) : State :=
  let stash := stashKind h.desc && !(s.dma.erred.contains h.x.op)
  dmaError (if stash then objAdd s 0x7270 8 1 else s) h.x.op h.x.tag h.slice cause addr

/-- A transfer fails in a slice: no later request of it is issued (10 R261). -/
def failXfer (s : State) (h : Held) (cause : Nat) (addr : W64) : State :=
  let s := xferError s h cause addr
  let s := putHeld s { h with begun := true, conv := false, todo := [], cause := if h.cause = 0 then cause else h.cause }
  settle s h.x.op h.slice

/-! ### Claimed banks of scratch (10 R246) -/

/-- The banks of a span of scratch. -/
def scratchBanks (off n : Nat) : List Nat :=
  if n = 0 then [] else ((List.range ((off + n - 1) / 64 - off / 64 + 1)).map fun i => (off / 64 + i) % 32).eraseDups

/-- Whether a timed read of the stream claims a bank of a slice's read port. -/
def readsBank (slice bank : Nat) (w : Work) : Bool :=
  match w.act with
  | .rowRead m r =>
    decide (m.kind ≠ 1) && decide (m.slice = slice) && (List.range (mvBc m)).any fun c =>
      let o := memOff m r c
      mvValid m r c && ((scratchBanks ((m.addr.toNat + o.1 / 8) % 2048) (ceilDiv (codeWidth m.fmt.toNat) 8)).contains bank
        || (isBlockFmt m.fmt.toNat && decide ((m.addr.toNat + o.2) / 64 % 32 = bank)))
  | .veLoad m parts =>
    ((if m.kind = 2 then m.lanes.take 1 else m.lanes).any fun l => decide (l.slice = slice))
      && parts.any fun p => (scratchBanks p.1 p.2).contains bank
  | .gathRead m sl _ addr => decide (sl = slice) && (scratchBanks (addr % 2 ^ 24) (vmSize m)).contains bank
  | _ => false

/-- Whether work of the stream claims a bank of a slice's read port in a clk: a timed read in its own clk, and an MVM every bank through the
D clk in which it streams its weights, from its issue + 6 on (DESIGN CHOICE, log entry 16). -/
def claimsRead (clk slice bank : Nat) (w : Work) : Bool :=
  match w.act with
  | .mvmLand j vals => decide (j.base + 6 ≤ clk) && decide (clk + 18 < w.due) && vals.any fun v => decide (v.1 = slice)
  | _ => decide (w.due = clk) && decide (w.phase = 1) && readsBank slice bank w

/-- Whether the stream claims, in the current clk, a bank that a request's end needs. -/
def endClaimed (s : State) (e : End) (n : Nat) (write : Bool) : Bool :=
  match e with
  | .phys pa =>
    match regionOf pa with
    | .scratch slice off =>
      let banks := scratchBanks off n
      if write then
        s.cnt.writes.any fun x => decide (x.2.2 = 1001) && (match regionOf x.1 with
          | .scratch sl o => decide (sl = slice) && (scratchBanks o x.2.1).any fun b => banks.contains b
          | _ => false)
      else
        s.work.any fun w => banks.any fun b => claimsRead s.cnt.clk slice b w
    | _ => false
  | _ => false

/-- Whether a request finds a bank claimed. -/
def reqClaimed (s : State) (r : Req) : Bool := endClaimed s r.src r.len false || endClaimed s r.dst r.len true

/-- An access that finds its bank claimed waits one clk and tries again, which is counted for the slice's quarter (10 R246). -/
def countConflict (s : State) (slice : Nat) : State := objAdd s 0x7201 (slice / 20 + 1) 1

/-! ### Acceptance (10 R254) -/

/-- The transfers a slice holds, oldest accepted first. -/
def heldIn (s : State) (slice : Nat) : List Held := s.dma.held.filter fun h => decide (h.slice = slice)

/-- The oldest queued transfer that a slice has still to accept and may accept now. -/
def acceptable (s : State) (slice : Nat) : Option Xfer :=
  match s.dma.queue.find? fun x =>
      x.mask.getLsbD slice && !(storeGet false s.dma.accepted (x.op * 256 + slice)) with
  | some x => if x.issued + 6 ≤ s.cnt.clk ∧ (heldIn s slice).length < 16 then some x else none
  | none => none

/-- Good puts of an operation that has left the queue take their entries, where these are free and no older put of the queue has them (09
R230; DEDUCED, log entry 45). -/
def claimEntries (s : State) (op : Nat) : State :=
  let puts := s.dma.held.filter fun h => decide (h.x.op = op) && !h.begun && decide (dKind h.desc = 8)
  puts.foldl (fun s h =>
    let e := tEnt h.desc
    let good := (putOf (puts.map fun h => h.desc) h.x.level e).isSome
    let older := match queuedPut s e with
      | some p => decide (p.1 < op)
      | none => false
    if good && !older && decide (s.dma.born ≤ op) && decide ((entGet s e).st = 0) && s.dma.claims.all (fun c => decide (c.2.1 ≠ e)) then
      s.onDma fun d => { d with claims := d.claims ++ [(op, e, h.desc)] }
    else s) s

/-- A slice takes a transfer of the queue; the transfer leaves the queue when every slice of its group has taken it. -/
def takeXfer (s : State) (slice : Nat) (x : Xfer) : State :=
  let s := s.onDma fun d => { d with accepted := storeSet false d.accepted (x.op * 256 + slice) true }
  let all := (members x.mask).all fun sl => storeGet false s.dma.accepted (x.op * 256 + sl)
  if all then s.onDma fun d => { d with
      queue := d.queue.erase x, accepted := storeFilter (fun k => decide (k / 256 ≠ x.op)) d.accepted }
  else s

/-- A transfer as a slice holds it before its descriptor is read. -/
def blankHeld (x : Xfer) (slice : Nat) : Held :=
  ⟨x, slice, ((members x.mask).filter fun sl => decide (sl < slice)).length, 0, false, [], [], 0, 0, false, 0⟩

/-- What follows an acceptance: a transfer that has left the queue takes its entries of the stash. -/
def afterAccept (s : State) (op : Nat) : State :=
  stashSettle (if s.dma.queue.any fun y => decide (y.op = op) then s else claimEntries s op)

/-- A slice accepts its next transfer and reads the descriptor; a cue action of code 4h has none (14 R378). While the stream claims a bank that the descriptor lies in, the engine waits
(10 R246, R254). -/
def acceptXfer (s : State) (slice : Nat) : State :=
  match acceptable s slice with
  | none => s
  | some x =>
    if x.ck.isSome then takeXfer s slice x else
    let hold := fun (s : State) (h : Held) => (takeXfer s slice x).onDma fun d => { d with held := d.held ++ [h] }
    let blank := blankHeld x slice
    match descAddr s slice x with
    | (s, .inr cause) => afterAccept (failXfer (hold s blank) blank cause x.xd) x.op
    | (s, .inl pa) =>
      if endClaimed s (.phys pa) 64 false then countConflict s slice
      else
        let kind := dKind (BitVec.ofNat 512 (ofLe (peekBytes s pa 64)))
        let (s, bs, bad) := withOpAnd (0x4000 + kind) (fun s => readBytes s pa 64) s
        let h := { blank with desc := BitVec.ofNat 512 (ofLe bs) }
        let s := hold s h
        if bad then afterAccept (failXfer s h 1 x.xd) x.op
        else
          match descCheck x.level h.desc with
          | some cause => afterAccept (failXfer s h cause x.xd) x.op
          | none => afterAccept s x.op

/-! ### Requests (10 R258) -/

/-- The lengths of the requests of one row: at most 1 KiB, within one 1 KiB block of each end. `n` is fuel. -/
def splitRow (n : Nat) (src dst : Option W64) (len : Nat) : List Req :=
  match n with
  | 0 => []
  | k + 1 =>
    if len = 0 then []
    else
      let room := fun (a : Option W64) => match a with
        | some a => 1024 - a.toNat % 1024
        | none => 1024
      let m := min len (min (room src) (room dst))
      let e := fun (a : Option W64) => match a with
        | some a => End.named a
        | none => End.none
      ⟨e src, e dst, m⟩ :: splitRow k (src.map (· + BitVec.ofNat 64 m)) (dst.map (· + BitVec.ofNat 64 m)) (len - m)

/-- The requests of a transfer's rows, in ascending row. -/
def rowReqs (d : BitVec 512) (src dst : Option W64) : List Req :=
  (List.range (dRows d)).flatMap fun r =>
    splitRow (dLen d / 16 + 1) (src.map (· + BitVec.ofNat 64 (r * dSpt d))) (dst.map (· + BitVec.ofNat 64 (r * dDpt d))) (dLen d)

/-- Whether two spans of addresses overlap (10 R257). -/
def spansOverlap (a la b lb : Nat) : Bool := decide (0 < la) && decide (0 < lb) && decide (a < b + lb) && decide (b < a + la)

/-- The bytes of a transfer from its first row's first byte to its last row's last byte. -/
def spanLen (d : BitVec 512) (pitch : Nat) : Nat := if dLen d = 0 then 0 else (dRows d - 1) * pitch + dLen d

/-- The oldest held transfer of a slice of a kind that its kind's step has not begun. -/
def unbegun (s : State) (slice : Nat) (kinds : List Nat) : Option Held :=
  s.dma.held.find? fun h => decide (h.slice = slice) && !h.begun && kinds.contains (dKind h.desc)

/-- Begin a transfer with its requests; one with none ends. -/
def beginWith (s : State) (h : Held) (reqs : List Req) : State :=
  settle (putHeld s { h with begun := true, todo := reqs }) h.x.op h.slice

/-- Where a span begins in memory, for the comparison of R257: its physical address, or none where it has none. -/
def spanPhys (s : State) (h : Held) (va : W64) (write : Bool) : State × Option Nat :=
  match dmaAddr s h.slice h.x.level va write with
  | (s, .inl pa) => (s, some pa)
  | (s, .inr _) => (s, none)

/-- Whether the spans of a copy overlap in its slice: as they are named, or as they lie in memory from where they begin (10 R257; DESIGN
CHOICE, log entry 109). -/
def copyOverlaps (s : State) (h : Held) (src dst : W64) : State × Bool :=
  let ls := spanLen h.desc (dSpt h.desc)
  let ld := spanLen h.desc (dDpt h.desc)
  let a := spanPhys s h src false
  let b := spanPhys a.1 h dst true
  (b.1, spansOverlap src.toNat ls dst.toNat ld || (match a.2, b.2 with
    | some x, some y => spansOverlap x ls y ld
    | _, _ => false))

/-- Begin a copy (10 R255 to R257). -/
def beginCopy (s : State) (h : Held) : State :=
  let (s, src) := strideBase s h (BitVec.ofNat 64 (dSrc h.desc)) (dGss h.desc) false
  let (s, dst) := if dRem h.desc then (s, BitVec.ofNat 64 (dDst h.desc) + BitVec.ofInt 64 (dGsd h.desc * h.k))
    else strideBase s h (BitVec.ofNat 64 (dDst h.desc)) (dGsd h.desc) true
  if dRem h.desc then beginWith s h (rowReqs h.desc (some src) (some dst))
  else
    let o := copyOverlaps s h src dst
    if o.2 then failXfer o.1 h 1 (BitVec.ofNat 64 (dDst h.desc)) else beginWith o.1 h (rowReqs h.desc (some src) (some dst))

/-- Begin a fill: the destination has no group stride, since the fill's body has none. -/
def beginFill (s : State) (h : Held) : State :=
  beginWith s h (rowReqs h.desc none (some (BitVec.ofNat 64 (dDst h.desc))))

/-- Begin a cache prefetch. -/
def beginPrefetch (s : State) (h : Held) : State :=
  let (s, src) := strideBase s h (BitVec.ofNat 64 (dSrc h.desc)) (dGss h.desc) false
  beginWith s h (rowReqs h.desc (some src) none)

/-! ### Issue of a request -/

/-- Whether an end lies on the other die than a slice. -/
def endCrosses (slice : Nat) (e : End) : Bool :=
  match e with
  | .phys pa => decide (dieOfAddr pa ≠ slice / 80)
  | _ => false

/-- An end resolved, or the cause and the address named. -/
def resolveEnd (s : State) (h : Held) (e : End) (write : Bool) : State × (End ⊕ (Nat × W64)) :=
  match e with
  | .named a =>
    if write && dRem h.desc && decide (dKind h.desc = 0) then
      if a.toNat < 2 ^ 48 then (s, .inl (.remote (dDev h.desc) a.toNat)) else (s, .inr (3, a))
    else
      match dmaReach s h.slice h.x.level a write with
      | (s, .inl pa) => (s, .inl (.phys pa))
      | (s, .inr c) => (s, .inr (c, a))
  | .home level a =>
    match dmaReach s h.slice level a write with
    | (s, .inl pa) => (s, .inl (.phys pa))
    | (s, .inr c) => (s, .inr (c, a))
  | other => (s, .inl other)

/-- Both ends resolved. -/
def resolveReq (s : State) (h : Held) (r : Req) : State × (Req ⊕ (Nat × W64)) :=
  match resolveEnd s h r.src false with
  | (s, .inr f) => (s, .inr f)
  | (s, .inl src) =>
    match resolveEnd s h r.dst true with
    | (s, .inr f) => (s, .inr f)
    | (s, .inl dst) => (s, .inl ⟨src, dst, r.len⟩)

/-- Read words with their poison under a cache hint, as a copy carries them: data and mark of each (10 R251, R264). -/
def copyRead (hint : Nat) (s : State) (pa n : Nat) : State × List (W128 × Mark) :=
  let (s, _) := decodeWords (useCache s pa n false hint) (wordsOf pa n) 0
  (s, (wordsOf pa n).map fun w =>
    let bad := badMark (markGet s w)
    (if bad then 0 else BitVec.ofNat 128 (ofLe (peekBytes s (16 * w) 16)), if bad then .poison else .good))

/-- One word of a copy lands: the bytes that no other write of the clk prevails over (10 R247, R252). -/
def copyWord (w : Option Writer) (s : State) (word : Nat) (v : W128 × Mark) : State :=
  let live := (((leBytes 16 v.1.toNat).zipIdx).map fun b => (16 * word + b.2, b.1)).filter fun b => match w with
    | some w => !(beaten s w b.1)
    | none => true
  if live.isEmpty then s
  else if badMark v.2 then spoilWord s word (decide (live.length = 16))
  else writeWord s word live

/-- Write whole words with their poison under a cache hint; `w` is the writer whose order within a clk the spec gives. -/
def copyWrite (w : Option Writer) (hint : Nat) (s : State) (pa : Nat) (ws : List (W128 × Mark)) : State :=
  let s := (ws.zipIdx).foldl (fun s x => copyWord w s (pa / 16 + x.2) x.1) (useCache s pa (16 * ws.length) true hint)
  match w with
  | some w => noteWrites s w ((List.range (16 * ws.length)).map fun i => pa + i)
  | none => s

/-- The number of poisoned words of a copy. -/
def poisonCount (ws : List (W128 × Mark)) : Nat := (ws.filter fun w => badMark w.2).length

/-- A list cut into parts of n. `fuel` bounds the parts. -/
def cutEvery {α : Type} (fuel n : Nat) (l : List α) : List (List α) :=
  match fuel with
  | 0 => []
  | k + 1 => if l.isEmpty then [] else l.take n :: cutEvery k n (l.drop n)

/-- The flits of a remote write (11 Table 11-3): up to 15 words each. -/
def remoteFlits (s : State) (dev pa reqId : Nat) (ws : List (W128 × Mark)) : List Flit :=
  ((cutEvery (ws.length + 1) 15 ws).zipIdx).map fun c =>
    makeFlit (flitHeader dev (myId s) 1 0 0 0 c.1.length
      ((pa + 240 * c.2) % 2 ^ 48 * 2 ^ 39 + reqId % 65536 * 2 ^ 23)) c.1

/-- Whether a remote write from a device may land at an address (14 R375): into G0 or G1 from the guest, or into L from the
partner while the stream is stopped and no drain reads L. -/
def windowTakes (s : State) (src pa len : Nat) : Bool :=
  let base := objGet s 0x4102 1
  let size := objGet s 0x4102 2
  (decide (src = objGet s 0x4102 3) && decide (base ≤ pa) && decide (pa + len ≤ base + 2 * size))
    || (decide (src = objGet s 0x4100 1) && decide (base + 2 * size ≤ pa) && decide (pa + len ≤ base + 3 * size)
      && !s.seq.running && s.ckpt.drain.isNone)

/-- A remote write arrives here: accepted, or refused and counted (DEDUCED, log entry 44). -/
def acceptRemote (s : State) (f : Flit) : State × Bool :=
  let h := headOf f
  let pa := field h 86 39
  let n := field h 90 87
  if windowTakes s (field h 113 100) pa (16 * n) && hasTarget s pa then
    (copyWrite none 0 s pa (((f.words.zip f.marks).drop 1).take n), true)
  else (objAdd s 0x7420 7 1, false)

/-- Send the flits of a remote write. Each that is answered at once gives its cause: 0 done, 07h refused here, 0Ah dark. -/
def sendFlits (s : State) (fs : List Flit) : State × List Nat :=
  fs.foldl (fun st f =>
    match forwardFlit st.1 8 f with
    | (s, some back) =>
      if field (headOf back) 94 91 = 0 then
        let r := acceptRemote s back
        (r.1, st.2 ++ [if r.2 then 0 else 7])
      else (s, st.2 ++ [0xA])
    | (s, none) => (s, st.2)) (s, [])

/-- The address of an end as the descriptor names it. -/
def namedAddr (e : End) : W64 :=
  match e with
  | .named a => a
  | .home _ a => a
  | _ => 0

/-- The address of a request, for DMEA: its source, or its destination where it has none. -/
def reqAddr (r : Req) : W64 :=
  match r.src with
  | .named a => a
  | .home _ a => a
  | _ => namedAddr r.dst

/-- Put an issued request into its transfer. It enters the controller queues that it needs, or waits for them in its slot (10 R265). -/
def launch (s : State) (h : Held) (named req : Req) : State :=
  let num := s.dma.nextReq
  let f : Flight := ⟨num, req, named, realClk s, false, 0, reqPlaces s req (dCh h.desc), false, 0⟩
  let s := s.onDma fun d => { d with nextReq := d.nextReq + 1 }
  let s := if endCrosses h.slice req.src || endCrosses h.slice req.dst then objAdd s 0x7220 0xB 1 else s
  match req.src, req.dst with
  | .phys src, .remote dev dst =>
    let (s, ws) := withOpAnd (0x4000 + dKind h.desc) (fun s => copyRead (dCh h.desc) s src req.len) s
    let s := if poisonCount ws = 0 then s else objAdd s 0x7220 8 (poisonCount ws)
    let fl := remoteFlits s dev dst num ws
    let s := putHeld s { h with
      todo := h.todo.drop 1, out := h.out ++ [{ f with owed := fl.length, places := [], admitted := true }], drawn := num + 1 }
    let (s, back) := sendFlits s fl
    match heldOf s h.x.op h.slice with
    | none => s
    | some g =>
      match back.find? fun c => decide (c ≠ 0) with
      | some cause =>
        let g := { g with out := g.out.filter fun f => decide (f.num ≠ num) }
        failXfer (putHeld s g) g cause (namedAddr named.dst)
      | none =>
        if back.isEmpty then s
        else putHeld s { g with out := g.out.map fun f => if f.num = num then { f with owed := f.owed - back.length } else f }
  | _, _ =>
    admitOne (putHeld s { h with todo := h.todo.drop 1, out := h.out ++ [f], drawn := num + 1 }) f

/-- The order in which a slice's engine draws on its four oldest transfers: those longest not drawn on first. -/
def drawOrder (hs : List Held) : List Held :=
  let ins := fun (l : List Held) (h : Held) =>
    (l.takeWhile fun g => decide (g.drawn ≤ h.drawn)) ++ [h] ++ (l.dropWhile fun g => decide (g.drawn ≤ h.drawn))
  hs.foldl ins []

/-- Whether a slice already holds 16 slots against a bank that a request needs (10 R266). -/
def bankFull (s : State) (slice : Nat) (req : Req) : Bool :=
  let used := (heldIn s slice).flatMap fun g => g.out.flatMap fun f => reqBanks f.req
  (reqBanks req).any fun b => decide (16 ≤ used.count b)

/-- Try the candidates in order: the first whose banks have room is issued; a failing address ends its transfer. A remote write reads its
source here, and waits while the stream claims its bank (10 R246). -/
def issueFirst (s : State) (slice : Nat) (cands : List Held) : State :=
  match cands with
  | [] => s
  | h :: rest =>
    match h.todo with
    | [] => issueFirst s slice rest
    | r :: _ =>
      match withOpAnd (0x4000 + dKind h.desc) (fun s => resolveReq s h r) s with
      | (s, .inr (cause, addr)) => failXfer s h cause addr
      | (s, .inl req) =>
        let remote := match req.dst with
          | .remote _ _ => true
          | _ => false
        if bankFull s slice req then issueFirst (putHeld s { h with hot := realClk s + 1 }) slice rest
        else if remote && endClaimed s req.src req.len false then countConflict s slice
        else launch s h r req

/-- The transfers of a slice that have a request to issue, of the four that its engine draws on, in the order in which it draws. -/
def issuable (s : State) (slice : Nat) : List Held := drawOrder (((heldIn s slice).take 4).filter fun h => h.begun && !h.todo.isEmpty)

/-- Whether a slice's 48 slots are taken. -/
def slotsFull (s : State) (slice : Nat) : Bool := decide (48 ≤ ((heldIn s slice).map fun h => h.out.length).sum)

/-- One request of a slice's engine (10 R254, R258, R266). -/
def issueRequest (s : State) (slice : Nat) : State := if slotsFull s slice then s else issueFirst s slice (issuable s slice)

/-! ### Completion (10 R259, R264) -/

/-- The request of a number in a slice, with its transfer. -/
def flightOf (s : State) (slice num : Nat) : Option (Held × Flight) :=
  (heldIn s slice).findSome? fun h => (h.out.find? fun f => decide (f.num = num)).map fun f => (h, f)

/-- A request leaves its slot; a transfer that is over leaves its engine. -/
def freeSlot (s : State) (h : Held) (num : Nat) : State :=
  settle (putHeld s { h with out := h.out.filter fun f => decide (f.num ≠ num) }) h.x.op h.slice

/-- The pattern of a fill at an address. -/
def fillWord (pat : Nat) : W128 := BitVec.ofNat 128 (pat + pat * 2 ^ 64)

/-! ### Service (10 R259) -/

/-- What a request does when it completes: a copy moves its words, a fill writes its pattern (`DST` is a multiple of 16, so each
word begins with the pattern's first byte), and a prefetch brings its lines into the owning die's cache under its hint (10 R255). -/
def serveReq (s : State) (h : Held) (r : Req) : State :=
  match r.src, r.dst with
  | .phys src, .phys dst =>
    let (s, ws) := copyRead (dCh h.desc) s src r.len
    let s := if poisonCount ws = 0 then s else objAdd s 0x7220 8 (poisonCount ws)
    copyWrite (some (.slice h.slice)) (dCh h.desc) s dst ws
  | .none, .phys dst => copyWrite (some (.slice h.slice)) (dCh h.desc) s dst (List.replicate (r.len / 16) (fillWord (dBody h.desc 255 192), .good))
  | .phys src, .none => useCache s src r.len false (dCh h.desc)
  | _, _ => s

/-- Whether a request may complete now: every flit of a remote write has, it has its queue entries, and no older request goes before it. -/
def mayComplete (s : State) (f : Flight) : Bool := decide (f.owed = 0) && f.admitted && !(behindOlder s f)

/-- A request completes: its last byte lands. One that finds a bank of scratch claimed by the stream waits one clk, which is counted (10
R246). -/
def completeRequest (s : State) (slice num : Nat) : State :=
  match flightOf s slice num with
  | none => s
  | some (h, f) =>
    if !(mayComplete s f) then s
    else if reqClaimed s f.req then
      onFlight (countConflict s slice) num fun g => { g with blocked := realClk s + 1 }
    else
      let s := noteCue (withOp (0x4000 + dKind h.desc) (fun s => serveReq s h f.req) s) h.x.cueQ f.req.len
      match heldOf s h.x.op slice with
      | none => s
      | some h => freeSlot s h num

/-- No completion within 65,536 clk of issue: cause 06h (10 Table 10-5). -/
def timeoutRequest (s : State) (slice num : Nat) : State :=
  match flightOf s slice num with
  | none => s
  | some (h, f) =>
    if realClk s < f.since + 65536 then s
    else
      let h := { h with out := h.out.filter fun g => decide (g.num ≠ num) }
      failXfer (putHeld s h) h 6 (reqAddr f.named)

/-- A request in a clay or LPDDR queue passes its service bound: it is counted once and stays in service (10 R267). -/
def lateRequest (s : State) (slice num : Nat) : State :=
  match flightOf s slice num with
  | none => s
  | some (h, f) =>
    if f.late || f.places.isEmpty || !f.admitted then s
    else
      putHeld (objAdd s 0x7220 0xA 1)
        { h with out := h.out.map fun g => if g.num = num then { g with late := true } else g }

/-! ### The state of a request (10 R269) -/

/-- Whether a flit of a remote write waits at a port for a credit. -/
def waitsCredit (s : State) (num : Nat) : Bool :=
  (List.range 8).any fun k => (portGet s k).queue.any fun q =>
    decide (q.origin = 8) && decide (flitCls q.flit = 1) && decide (field (headOf q.flit) 94 91 = 0)
      && decide (field (headOf q.flit) 38 23 = num % 65536) && !(hasCredit (portGet s k) q.flit)

/-- The stall cause of a request in flight; none where it is simply moving. -/
def flightCause (s : State) (f : Flight) : Option Nat :=
  if f.blocked = realClk s + 1 then some 1
  else if !f.admitted then
    some (match f.places.find? fun p => !(queueRoom s p.1) with
      | some p => if p.1 < 2 ^ 20 then 4 else 5
      | none => 4)
  else if 0 < f.owed then (if waitsCredit s f.num then some 7 else none)
  else if f.places.isEmpty then none else some 3

/-- The oldest of some requests. -/
def oldestFlight (l : List Flight) : Option Flight :=
  match l with
  | [] => none
  | f :: r => some (r.foldl (fun a b => if b.num < a.num then b else a) f)

/-- The cause of a clk held for some transfers (10 R269, 07 R178): scale pre-scan, the state of their oldest request, DMA slot exhaustion
where none has been issued, or what keeps the next from being issued. -/
def xferCause (s : State) (xs : Held → Bool) (convs : Conv → Bool) : Nat :=
  let parts := s.dma.held.filter xs
  if s.dma.convs.any fun c => convs c && decide (c.pass ≠ 2) then 8
  else
    match oldestFlight (parts.flatMap fun h => h.out) with
    | some f => (flightCause s f).getD 0xB
    | none =>
      if s.dma.convs.any convs then 0xB
      else if parts.any fun h => decide (h.drawn ≠ 0) && decide (h.hot = realClk s + 1) then 6 else 2

/-- Whether the next request of a transfer would be its slice's 17th against a bank (10 R266). -/
def hotNext (s : State) (slice : Nat) (h : Held) : Bool :=
  match h.todo with
  | [] => false
  | r :: _ => match (resolveReq s h r).2 with
    | .inl req => bankFull s slice req
    | .inr _ => false

/-- What keeps a slice's engine from issuing a request that is ready: no free slot, or no bank with room (10 R258, R266). -/
def issueCauses (s : State) (slice : Nat) : List Nat :=
  let cands := issuable s slice
  if cands.isEmpty then [] else if slotsFull s slice then [2] else if cands.all (hotNext s slice) then [6] else []

/-- The causes by which a slice's engine has a request that cannot issue or proceed in this clk (10 R269): those of its requests in flight,
what keeps the next from being issued, and a pre-scan under way. Conflicts are counted where they are met. -/
def engineCauses (s : State) (slice : Nat) : List Nat :=
  let scan := s.dma.convs.any fun c => decide (c.pass ≠ 2) && c.parts.any fun p => decide (p.1 = slice)
  let waits := ((heldIn s slice).flatMap fun h => h.out).filterMap (flightCause s)
  ((waits.filter fun c => decide (c ≠ 1)) ++ issueCauses s slice ++ (if scan then [8] else [])).eraseDups

/-- One clk of a slice's engine, counted once under each of its causes (10 R269). -/
def engineStall (s : State) (slice : Nat) : State :=
  (engineCauses s slice).foldl (fun t c => objAdd t (0x7200 + c) (slice / 20 + 1) 1) s

/-- The stalls of every engine in a clk. -/
def engineStalls (s : State) : State := ((s.dma.held.map fun h => h.slice).eraseDups).foldl engineStall s

/-- A completion of a remote write comes back (11 Table 11-3, 10 R262): done, or refused, with cause 07h where the destination
itself answers and 0Ah where the neighbour of a dark destination does. -/
def remoteCompletion (s : State) (reqId : Nat) (refused : Bool) (cause : Nat) : State :=
  match s.dma.held.findSome? fun h =>
      (h.out.find? fun f => decide (f.num % 65536 = reqId) && decide (0 < f.owed)).map fun f => (h, f) with
  | none => s
  | some (h, f) =>
    if refused then
      let h := { h with out := h.out.filter fun g => decide (g.num ≠ f.num) }
      failXfer (putHeld s h) h cause (namedAddr f.named.dst)
    else if f.owed = 1 then freeSlot s h f.num
    else putHeld s { h with out := h.out.map fun g => if g.num = f.num then { g with owed := g.owed - 1 } else g }

end Sys2Proof.Machine
end

