-- ==== Sys2Proof/Machine/Stash.lean ====
section
/-! DEFINITION. The stash unit (09 R227 to R234): put, get, release, eviction, drop and the end of a busy entry. -/

namespace Sys2Proof.Machine

/-- The granules of each slice's region (09 R227). -/
def stashGranules (s : State) : Nat := objGet s 0x2031 1

/-- The scratch offset of a granule. -/
def granuleOff (s : State) (g : Nat) : Nat := 0xFF0000 - stashGranules s * 1024 + g * 1024

/-- The runs that a slice holds: first granule and length. -/
def runsIn (s : State) (slice : Nat) : List (Nat × Nat) :=
  s.dma.stash.filterMap fun e =>
    let r := storeGet 0 e.2.run slice
    if r = 0 then none else some (r - 1, e.2.size)

/-- The lowest granule at which a run of n fits in a slice (09 R228). -/
def firstFit (s : State) (slice n : Nat) : Option Nat :=
  let runs := runsIn s slice
  -- a first fit begins at granule 0 or at the end of a run
  let starts := 0 :: runs.map fun r => r.1 + r.2
  let fits := starts.filter fun g =>
    decide (g + n ≤ stashGranules s) && runs.all fun r => decide (g + n ≤ r.1) || decide (r.1 + r.2 ≤ g)
  match fits with
  | [] => none
  | g :: r => some (r.foldl min g)

/-- Granules in use over the chip (object 2031h:02). -/
def granulesUsed (s : State) : Nat := (s.dma.stash.map fun e => e.2.run.length * e.2.size).sum

/-! ### Moving -/

/-- The 1 KiB pieces of an entry's share. -/
def pieces (size : Nat) : List Nat := (List.range size).map (· * 1024)

/-- The requests between local offsets of a slice. -/
def localReqs (slice src dst size : Nat) : List Req :=
  (pieces size).map fun o => ⟨.phys (scratchAddr slice (src + o)), .phys (scratchAddr slice (dst + o)), 1024⟩

/-- The home address of a slice's share (09 Table 9-3). -/
def homeAddr (home : Nat) (slice size : Nat) : W64 := BitVec.ofNat 64 (home + slice * size * 1024)

/-- The requests between a local offset and the home of a slice, one way or the other; the home is named at the level of the put. Each is
cut at the home's 1 KiB blocks. -/
def homeReqs (level : BitVec 2) (slice loc home size : Nat) (toHome : Bool) : List Req :=
  let a : W64 := homeAddr home slice size
  (splitRow (size * 64 + 1) (some (BitVec.ofNat 64 (scratchAddr slice loc))) (some a) (size * 1024)).map fun r =>
    let sc := End.phys (match r.src with
      | .named x => x.toNat
      | _ => 0)
    let far := match r.dst with
      | .named x => End.home level x
      | e => e
    if toHome then ⟨sc, far, r.len⟩ else ⟨far, sc, r.len⟩

/-- Copy one piece of an evicted run to its home at once; a failing home address is recorded under the put's tag. The write has the cache
hint 00b and lands within the put's own command (DESIGN CHOICE, log entry 130). -/
def evictPiece (s : State) (h : Held) (slice : Nat) (r : Req) : State :=
  match r.src, r.dst with
  | .phys src, .home level a =>
    match dmaReach s slice level a true with
    | (s, .inr cause) => xferError s { h with slice := slice } cause a
    | (s, .inl pa) =>
      let (s, ws) := withOpAnd (0x4000 + dKind h.desc) (fun s => copyRead 0 s src r.len) s
      let s := if poisonCount ws = 0 then s else objAdd s 0x7220 8 (poisonCount ws)
      copyWrite (some (.slice slice)) 0 (countCross s (slice / 80) pa) pa ws
  | _, _ => s

/-- Evict an entry to its home (09 R231): its run is read and freed. -/
def evict (s : State) (h : Held) (e : Nat) : State :=
  let v := entGet s e
  let s := (members v.mask).foldl (fun s slice =>
    let r := storeGet 0 v.run slice
    if r = 0 then s
    else (homeReqs v.level slice (granuleOff s (r - 1)) v.home.toNat v.size true).foldl (fun s q => evictPiece s h slice q) s) s
  let s := objAdd (objAdd s 0x7270 1 1) 0x7270 2 (v.size * (members v.mask).length)
  entSet s e { v with st := 2, run := [] }

/-- Drop an entry (09 R231). -/
def dropEntry (s : State) (e : Nat) : State := entSet (objAdd s 0x7270 3 1) e { entGet s e with st := 3, run := [] }

/-- The oldest resident entry that shares a slice with a group. -/
def victim (s : State) (mask : BitVec 160) : Option Nat :=
  let c := s.dma.stash.filter fun e => decide (e.2.st = 1) && decide (e.2.mask &&& mask ≠ 0)
  match c with
  | [] => none
  | e :: r => some (r.foldl (fun b x => if x.2.seqNo < b.2.seqNo then x else b) e).1

/-- Whether every slice of a group has room. -/
def roomFor (s : State) (mask : BitVec 160) (size : Nat) : Bool := (members mask).all fun sl => (firstFit s sl size).isSome

/-- Make room for a put, taking the oldest entries in turn (09 R230); `n` is fuel. -/
def makeRoom (s : State) (h : Held) (mask : BitVec 160) (size : Nat) (n : Nat) : State × Bool :=
  if roomFor s mask size then (s, true)
  else
    match n with
    | 0 => (s, false)
    | k + 1 =>
      match victim s mask with
      | none => (s, false)
      | some e => makeRoom (if (entGet s e).recomp then dropEntry s e else evict s h e) h mask size k

/-! ### A transfer of a group that acts as one -/

/-- Whether an operation has left the issue queue. -/
def leftQueue (s : State) (op : Nat) : Bool := !(s.dma.queue.any fun x => decide (x.op = op))

/-- The parts of an operation that the engines hold and have not begun, in ascending slice: those whose own descriptors agree with one in
what makes them one transfer (10 R254). -/
def groupParts (s : State) (op : Nat) (same : BitVec 512 → Bool) : List Held :=
  let hs := s.dma.held.filter fun h => decide (h.x.op = op) && !h.begun && same h.desc
  (List.range 160).filterMap fun sl => hs.find? fun h => decide (h.slice = sl)

/-- Every part of an operation fails with one cause. -/
def failGroup (s : State) (hs : List Held) (cause : Nat) (addr : W64) : State :=
  hs.foldl (fun s h => failXfer s h cause addr) s

/-- Every part of an operation begins with its requests. -/
def beginGroup (s : State) (hs : List Held) (reqs : Nat → List Req) : State :=
  hs.foldl (fun s h => beginWith s h (reqs h.slice)) s

/-- A stash error: cause 09h for every part (09 R229). -/
def stashError (s : State) (hs : List Held) : State :=
  failGroup s hs 9 (match hs with
    | h :: _ => h.x.xd
    | [] => 0)

/-- The offset that a part's own descriptor names. -/
def partLoc (hs : List Held) (sl : Nat) : Nat :=
  match hs.find? fun h => decide (h.slice = sl) with
  | some h => tLoc h.desc
  | none => match hs with
    | h :: _ => tLoc h.desc
    | [] => 0

/-- A stash put (09 R230) (DEDUCED, log entry 45). -/
def stashPut (s : State) (hs : List Held) (h : Held) : State :=
  let d := h.desc
  let e := tEnt d
  let size := tSize d
  let bad := hs.any fun h => stashBad h.desc true size
  if bad || decide ((entGet s e).st ≠ 0) || claimedByOther s h.x.op e || decide (size = 0) || decide (9830 < size) then stashError s hs
  else if hs.any fun h => locReserved h.x.level h.desc size then failGroup s hs 4 (BitVec.ofNat 64 (tLoc d))
  else
    let ent : StashEnt :=
      { st := 4, next := 1, op := h.x.op, last := 0, recomp := tRec d, keep := false, size := size,
        layer := BitVec.ofNat 16 (tLayer d), home := BitVec.ofNat 64 (tHome d), level := h.x.level, mask := h.x.mask,
        seqNo := h.x.op, run := [] }
    let (s, ok) := makeRoom s h h.x.mask size 256
    if ok then
      let run := (members h.x.mask).foldl (fun r sl => storeSet 0 r sl ((firstFit s sl size).getD 0 + 1)) []
      let s := entSet s e { ent with run := run }
      beginGroup s hs fun sl => localReqs sl (partLoc hs sl) (granuleOff s (storeGet 0 run sl - 1)) size
    else if tRec d then beginGroup (entSet (objAdd s 0x7270 3 1) e { ent with next := 3 }) hs fun _ => []
    else
      beginGroup (entSet (objAdd s 0x7270 4 1) e { ent with next := 2 }) hs
        fun sl => homeReqs h.x.level sl (partLoc hs sl) (tHome d) size true

/-- The requests of a get for one part: its own slice's; the first part also moves those of slices outside the group of the
get. -/
def getReqs (s : State) (v : StashEnt) (hs : List Held) (sl : Nat) : List Req :=
  let first := match hs with
    | h :: _ => h.slice
    | [] => 0
  let mine := (members v.mask).filter fun x =>
    decide (x = sl) || (decide (sl = first) && !(hs.any fun h => decide (h.slice = x)))
  mine.flatMap fun x =>
    if v.st = 1 then localReqs x (granuleOff s (storeGet 0 v.run x - 1)) (partLoc hs x) v.size
    else if v.st = 2 then homeReqs v.level x (partLoc hs x) v.home.toNat v.size false
    else []

/-- A stash get (09 R232). -/
def stashGet (s : State) (hs : List Held) (h : Held) : State :=
  let d := h.desc
  let e := tEnt d
  let v := entGet s e
  let bad := hs.any fun h => stashBad h.desc true v.size
  if bad || decide (v.st = 0) || decide (v.st = 4) || claimedByOther s h.x.op e then stashError s hs
  else if hs.any fun h => locReserved h.x.level h.desc v.size then failGroup s hs 4 (BitVec.ofNat 64 (tLoc d))
  else
    let last : BitVec 2 := if v.st = 1 then 1 else if v.st = 2 then 2 else 3
    let s := objAdd s 0x7270 (if v.st = 1 then 5 else if v.st = 2 then 6 else 7) 1
    let reqs := fun sl => getReqs s v hs sl
    let s := entSet s e { v with
      st := 4, next := if tKeep d then v.st else 0, op := h.x.op, last := last, keep := tKeep d }
    beginGroup s hs reqs

/-- A stash release (09 R233). -/
def stashRelease (s : State) (hs : List Held) (h : Held) : State :=
  let e := tEnt h.desc
  let v := entGet s e
  let bad := hs.any fun h => stashBad h.desc false 0
  if bad || decide (v.st = 0) || decide (v.st = 4) || claimedByOther s h.x.op e then stashError s hs
  else beginGroup (entSet s e { v with st := 0, run := [] }) hs fun _ => []

/-- Begin the oldest stash transfer of a kind in a slice, once its operation has left the issue queue. -/
def stashRun (s : State) (slice kind : Nat) (f : State → List Held → Held → State) : State :=
  match unbegun s slice [kind] with
  | none => s
  | some h =>
    if !(leftQueue s h.x.op) then s
    else
      match groupParts s h.x.op (fun d => decide (dKind d = kind) && decide (tEnt d = tEnt h.desc)) with
      | [] => s
      | g :: r => f s (g :: r) g

/-- A step repeat frees every entry, once each put, eviction and get that is in flight has completed (09 R234). -/
def stashRepeat (s : State) : State := stashSettle (s.onDma fun d => { d with cut := s.cnt.op })

/-- Every entry free, at a stream start and after a restore (09 R228, R234): a put issued before leaves its entry free as well. -/
def stashReset (s : State) : State :=
  s.onDma fun d => { d with stash := [], claims := [], cut := s.cnt.op, born := s.cnt.op }

/-- What a put's descriptor shows of a busy entry. -/
def busyShown (d : BitVec 512) : StashEnt :=
  { freeEntry with st := 4, recomp := tRec d, size := tSize d, layer := BitVec.ofNat 16 (tLayer d) }

/-- An entry as it shows: one that a put has taken is busy, with what its descriptor gives, from the put's issue on (09 R230). -/
def entShown (s : State) (e : Nat) : StashEnt :=
  match s.dma.claims.find? fun c => decide (c.2.1 = e) with
  | some c => busyShown c.2.2
  | none =>
    let v := entGet s e
    if v.st ≠ 0 then v
    else
      match queuedPut s e with
      | some p => busyShown p.2
      | none => v

/-- STSTAT of an entry (09 Table 9-4). -/
def ststatWord (e : StashEnt) : W64 :=
  BitVec.ofNat 64 (e.st.toNat * 2 ^ 61 + e.last.toNat * 2 ^ 59 + b2n e.recomp * 2 ^ 58 + b2n e.keep * 2 ^ 57
    + e.size % 2 ^ 14 * 2 ^ 43 + e.layer.toNat * 2 ^ 27)

end Sys2Proof.Machine
end

