-- ==== Sys2Proof/Machine/Convert.lean ====
section
/-! DEFINITION. Scaled conversions (07 R174 to R179, 10 R263, R264): admission to the slot, the pre-scan, convert and redo
passes, and the end of the conversion. A pass reads its whole source at the clk in which it ends (DESIGN CHOICE, log entry 19). -/

namespace Sys2Proof.Machine

/-! ### The descriptor (10 R263) -/

def cvSfmt (d : BitVec 512) : Nat := dBody d 255 252
def cvSlot (d : BitVec 512) : Nat := dBody d 251 238
def cvCount (d : BitVec 512) : Nat := dBody d 237 198

/-- The share size over a group of g slices. -/
def cvShare (n g : Nat) : Nat := 256 * ceilDiv n (256 * g)

/-- The elements of the k-th slice: the first and how many. -/
def cvPart (n g k : Nat) : Nat × Nat :=
  let s := cvShare n g
  (k * s, min ((k + 1) * s) n - min (k * s) n)

/-! ### Spans -/

/-- The physical pieces of a span: translated at each 1 KiB block by `look` (`n` is fuel); a cause and its address on
failure. -/
def spanVia (look : State → W64 → State × (Nat ⊕ Nat)) (s : State) (va : W64) (len : Nat) (n : Nat) :
    State × (List (Nat × Nat) ⊕ (Nat × W64)) :=
  match n with
  | 0 => (s, .inl [])
  | k + 1 =>
    if len = 0 then (s, .inl [])
    else
      let m := min len (1024 - va.toNat % 1024)
      match look s va with
      | (s, .inr c) => (s, .inr (c, va))
      | (s, .inl pa) =>
        match spanVia look s (va + BitVec.ofNat 64 m) (len - m) k with
        | (s, .inr f) => (s, .inr f)
        | (s, .inl l) => (s, .inl ((pa, m) :: l))

/-- The pieces of a span that a slice's engine reaches. -/
def spanPieces (s : State) (slice : Nat) (level : BitVec 2) (va : W64) (len : Nat) (write : Bool) (n : Nat) :
    State × (List (Nat × Nat) ⊕ (Nat × W64)) :=
  spanVia (fun s va => dmaReach s slice level va write) s va len n

/-- The bytes of pieces with the poison of each, read under a cache hint (10 R251). -/
def readPieces (hint : Nat) (s : State) (ps : List (Nat × Nat)) : State × List (Byte × Bool) :=
  match ps with
  | [] => (s, [])
  | (pa, n) :: r =>
    let (s, _) := decodeWords (useCache s pa n false hint) (wordsOf pa n) 0
    let here := (List.range n).map fun i => (memGet s (pa + i), badMark (markGet s ((pa + i) / 16)))
    let (s, rest) := readPieces hint s r
    (s, here ++ rest)

/-- Count the pieces that lie on the other die than a slice. -/
def countPieces (s : State) (slice : Nat) (ps : List (Nat × Nat)) : State := ps.foldl (fun s p => countCross s (slice / 80) p.1) s

/-- The addresses of the bytes of pieces, in order. -/
def pieceBytes (ps : List (Nat × Nat)) : List Nat := ps.flatMap fun p => (List.range p.2).map fun i => p.1 + i

/-- The elements of a slice's share: value and poison. -/
def shareElems (bs : List (Byte × Bool)) (w fmt : Nat) : List (FVal × Bool) :=
  (cutEvery (bs.length + 1) w bs).map fun e =>
    (elemValue fmt (ofLe (e.map (·.1))), e.any fun b => b.2)

/-- The base of a slice's source or destination. -/
def cvBase (s : State) (c : Conv) (slice k n : Nat) (va bits : Nat) (write : Bool) : State × W64 :=
  let v : W64 := BitVec.ofNat 64 va
  let first := (cvPart n (members c.mask).length k).1
  let (s, loc) := baseLocal s slice c.level v write
  (s, if loc then v else v + BitVec.ofNat 64 (first * bits / 8))

/-- One slice's part of a conversion: the slice, its position in the group, its own descriptor (10 R254, R263). -/
abbrev ConvPart := Nat × Nat × BitVec 512

/-- A conversion ends in error in one slice: its other slices go on. -/
def convError (s : State) (c : Conv) (slice cause : Nat) (addr : W64) : State :=
  match heldOf s c.op slice with
  | some h => failXfer s h cause addr
  | none => dmaError s c.op c.tag slice cause addr

/-- The source of one slice's share with its base, or the failure. -/
def shareRead (s : State) (c : Conv) (p : ConvPart) : State × (W64 × List (FVal × Bool) ⊕ (Nat × W64)) :=
  let d := p.2.2
  let fmt := cvSfmt d
  let w := codeWidth fmt / 8
  let cnt := (cvPart (cvCount d) (members c.mask).length p.2.1).2
  let (s, base) := cvBase s c p.1 p.2.1 (cvCount d) (dSrc d) (8 * w) false
  match spanPieces s p.1 c.level base (cnt * w) false (cnt * w / 16 + 2) with
  | (s, .inr f) => (s, .inr f)
  | (s, .inl ps) =>
    let (s, bs) := readPieces (dCh d) (countPieces s p.1 ps) ps
    (s, .inl (base, shareElems bs w fmt))

/-- The address of the request that reads byte i of a share from a base: the base itself, or the 1 KiB block that the byte lies in (10
R258). -/
def requestAt (base : W64) (i : Nat) : W64 :=
  let a := base.toNat + i
  if a / 1024 = base.toNat / 1024 then base else BitVec.ofNat 64 (a / 1024 * 1024)

/-- What a pass gathers over the group: the largest finite magnitude, saturations, flushes, non-finite inputs. -/
structure PassNote where
  hown : FVal
  ns : Nat
  nz : Nat
  nf : Nat
deriving DecidableEq, Repr

def emptyNote : PassNote := ⟨.fin false 0 0, 0, 0, 0⟩

/-- Merge the elements and conversion notes of a share. -/
def mergeNote (p : PassNote) (els : List (FVal × Bool)) (notes : List ConvNote) : PassNote :=
  let good := (els.filter fun e => !e.2).map (·.1)
  { hown := maxFinite (p.hown :: good.map fvAbs), ns := p.ns + notes.count .saturated, nz := p.nz + notes.count .flushed,
    nf := p.nf + (good.filter fvNonFinite).length }

/-- The pattern an element takes under an exponent (07 R175). -/
def cvElem (tf : Nat) (e0 : Int) (x : FVal × Bool) : Nat × ConvNote :=
  if x.2 then (0, .plain) else convElem tf (fvScale x.1 e0)

/-- The destination bytes of a share of n elements of w bits: each with its poison; the unused bits of the last byte keep what
stands there. -/
def packShare (s : State) (pas : List Nat) (w : Nat) (vals : List (Nat × Bool)) : List (Nat × Byte × Bool) :=
  let old := ofLe (pas.map fun a => memGet s a)
  let total := w * vals.length
  let bits := vPack w (vals.map (·.1)) + old / 2 ^ total * 2 ^ total
  let bad := fun (i : Nat) => (vals.zipIdx).any fun v => v.1.2 && decide (v.2 * w < 8 * i + 8) && decide (8 * i < (v.2 + 1) * w)
  (pas.zipIdx).map fun p => (p.1, BitVec.ofNat 8 (bits / 2 ^ (8 * p.2)), bad p.2)

/-- What a pass has gathered so far: the merged note, the slices that met poison with the address of the request, and the slices that
failed. -/
structure PassState where
  note : PassNote
  bad : List (Nat × W64)
  failed : List Nat
deriving DecidableEq, Repr

def emptyPass : PassState := ⟨emptyNote, [], []⟩

/-- One slice's part of a measuring pass. -/
def measureSlice (c : Conv) (st : State × PassState) (p : ConvPart) : State × PassState :=
  match withOpAnd 0x4002 (fun s => shareRead s c p) st.1 with
  | (s, .inr (cause, a)) => (convError s c p.1 cause a, { st.2 with failed := p.1 :: st.2.failed })
  | (s, .inl (_, els)) => (s, { st.2 with note := mergeNote st.2.note els [] })

/-- One slice's part of a convert or redo pass (10 R264: a poisoned source word poisons what it feeds, and is consumed). -/
def convertSlice (c : Conv) (e0 : Int) (st : State × PassState) (p : ConvPart) : State × PassState :=
  match withOpAnd 0x4002 (fun s => shareRead s c p) st.1 with
  | (s, .inr (cause, a)) => (convError s c p.1 cause a, { st.2 with failed := p.1 :: st.2.failed })
  | (s, .inl (src, els)) =>
    let d := p.2.2
    let tf := c.cap.tf.toNat
    let w := codeWidth tf
    let outs := els.map fun x => cvElem tf e0 x
    let st2 := { st.2 with note := mergeNote st.2.note els (outs.map (·.2)) }
    let (s, base) := cvBase s c p.1 p.2.1 (cvCount d) (dDst d) w true
    let len := (w * els.length + 7) / 8
    match spanPieces s p.1 c.level base len true (len / 16 + 2) with
    | (s, .inr (cause, a)) => (convError s c p.1 cause a, { st2 with failed := p.1 :: st2.failed })
    | (s, .inl ps) =>
      let s := countPieces s p.1 ps
      let s := withOp 0x4002 (fun s => writeMarkedAs (.slice p.1) (dCh d) s <|
        packShare s (pieceBytes ps) w ((outs.map (·.1)).zip (els.map (·.2)))) s
      (s, match els.findIdx? fun e => e.2 with
        | some i => { st2 with bad := st2.bad ++ [(p.1, requestAt src (i * (codeWidth (cvSfmt d) / 8)))] }
        | none => st2)

/-! ### Admission (07 R174, R177) -/

/-- Replace a conversion in flight: the slices of one issue whose descriptors name several slots are as many conversions (10 R254). -/
def putConv (s : State) (c : Conv) : State :=
  s.onDma fun d => { d with convs := d.convs.map fun x => if x.op = c.op ∧ x.slot = c.slot then c else x }

/-- Take a conversion off the list. -/
def endConv (s : State) (c : Conv) : State :=
  s.onDma fun d => { d with convs := d.convs.filter fun x => !(decide (x.op = c.op) && decide (x.slot = c.slot)) }

/-- Whether a conversion must wait (07 R174, R177): another through its slot runs, an earlier one waits or is held by an engine, or its slot
awaits its advance (DEDUCED, log entry 108). -/
def convWaits (s : State) (c : Conv) : Bool :=
  s.dma.convs.any (fun x => decide (x.slot = c.slot) && decide (x.op ≠ c.op) && (decide (x.op < c.op) || decide (x.pass ≠ 0)))
    || s.dma.held.any (fun h => !h.begun && decide (dKind h.desc = 2) && decide (cvSlot h.desc = c.slot) && decide (h.x.op < c.op))
    || advancePending s c.slot

/-- A conversion ends in error for every slice. -/
def convFailAll (s : State) (c : Conv) (cause : Nat) : State :=
  endConv (c.parts.foldl (fun s p => convError s c p.1 cause (BitVec.ofNat 64 (dSrc p.2.2))) s) c

/-- Capture the slot and enter the first pass. -/
def convAdmit (s : State) (c : Conv) : State :=
  if convWaits s c then s
  else
    let s := meetSlot s c.slot
    let v := slotGet s c.slot
    if v.st = 0 then convFailAll s c 8
    else
      let s := if v.st = 1 then objAdd s 0x7250 1 1 else s
      putConv s { c with cap := v, e0 := signedOf 9 v.e.toNat, pass := if v.st = 1 then 1 else 2 }

/-- The oldest of the conversions of a slot that wait. -/
def oldestConv (l : List Conv) : Option Conv :=
  match l with
  | [] => none
  | c :: r => some (r.foldl (fun a b => if b.op < a.op then b else a) c)

/-- The conversion that waits longest for a slot is tried again. -/
def admitNext (s : State) (slot : Nat) : State :=
  match oldestConv (s.dma.convs.filter fun c => decide (c.slot = slot)) with
  | some c => if c.pass = 0 then convAdmit s c else s
  | none => s

/-- SCALED_CONVERSION of a slice: the oldest held conversion whose operation has left the queue begins, for every slice of its operation that
read a descriptor of a conversion through the same slot. -/
def beginConv (s : State) (slice : Nat) : State :=
  match unbegun s slice [2] with
  | none => s
  | some h =>
    if !(leftQueue s h.x.op) then s
    else
      match groupParts s h.x.op (fun d => decide (dKind d = 2) && decide (cvSlot d = cvSlot h.desc)) with
      | [] => s
      | g :: r =>
        if (slotGet s (cvSlot g.desc)).st = 0 then
          (g :: r).foldl (fun s h => failXfer s h 8 (BitVec.ofNat 64 (dSrc h.desc))) s
        else
          let c : Conv :=
            { slot := cvSlot g.desc, op := h.x.op, mask := h.x.mask, tag := h.x.tag, desc := g.desc,
              parts := (g :: r).map fun h => (h.slice, h.k, h.desc), level := h.x.level, spr := h.x.spr, cap := blankSlot, e0 := 0,
              hown := 0, nonFinite := 0, bad := [], pass := 0 }
          let s := (g :: r).foldl (fun s h => putHeld s { h with begun := true, conv := true }) s
          convAdmit (s.onDma fun d => { d with convs := d.convs ++ [c] }) c

/-! ### The end of a conversion (07 R175) -/

/-- A slot that still waits for its turn in an advance has it now: what a conversion that ends brings belongs to the new step (07 R177). -/
def advanceNow (s : State) (k : Nat) : State :=
  match s.work.find? fun w => (match w.act with
      | .scaleAdvance k' _ => decide (k' = k)
      | _ => false) with
  | some w => match w.act with
    | .scaleAdvance _ spr => advanceSlot { s with work := s.work.erase w } k spr
    | _ => s
  | none => s

/-- The engines let go of a conversion. -/
def releaseConv (s : State) (c : Conv) : State :=
  c.parts.foldl (fun s p =>
    match heldOf s c.op p.1 with
    | some h => settle (putHeld s { h with conv := false }) c.op p.1
    | none => s) s

/-- The slot's updates, the tag's end, and the consumption of poison if any slice met it. A conversion that no slice has carried to its end
leaves its slot as it was (DEDUCED, log entry 108). -/
def convFinish (s : State) (c : Conv) : State :=
  let s := endConv (advanceNow s c.slot) c
  if c.parts.isEmpty then admitNext s c.slot
  else
    let s := meetSlot s c.slot
    let v := slotGet s c.slot
    let v := { v with
      lae := BitVec.ofInt 9 c.e0, lv := true, acc := toF32 (maxMag (f32 v.acc) (f32 c.hown)), used := true, st := 2,
      nf := v.nf || decide (0 < c.nonFinite) }
    let s := slotMerge s c.slot (fun w => coverOf 0 8 w + coverOf 72 8 w) (recompute v c.spr)
    let s := if c.nonFinite = 0 then s else objAdd s 0x7250 5 c.nonFinite
    let s := c.bad.foldl (fun s b => convError s c b.1 5 b.2) s
    let s := admitNext (releaseConv s c) c.slot
    if c.bad.isEmpty then s else consumePoison s 0x4002 5

/-- A conversion after a pass: the slices that failed are out of it. -/
def afterPass (c : Conv) (p : PassState) : Conv :=
  { c with parts := c.parts.filter (fun x => !(p.failed.contains x.1)), bad := p.bad }

/-- The counts of a pass go to the slot (07 R175). -/
def recordPass (s : State) (c : Conv) (p : PassNote) : State :=
  let v := slotGet s c.slot
  slotSet s c.slot { v with ns := v.ns + p.ns, nz := v.nz + p.nz }

/-- The magnitude of a pass as FP32. -/
def noteMag (p : PassNote) : W32 := toF32 p.hown

/-- Whether the stream claims a bank that a slice's part of a pass reads or writes. -/
def partClaimed (s : State) (c : Conv) (p : ConvPart) : Bool :=
  let d := p.2.2
  let cnt := (cvPart (cvCount d) (members c.mask).length p.2.1).2
  let claimed := fun (va bits : Nat) (write : Bool) =>
    let base := (cvBase s c p.1 p.2.1 (cvCount d) va bits write).2
    let len := (cnt * bits + 7) / 8
    match (spanPieces s p.1 c.level base len write (len / 16 + 2)).2 with
    | .inl ps => ps.any fun q => endClaimed s (.phys q.1) q.2 write
    | .inr _ => false
  claimed (dSrc d) (codeWidth (cvSfmt d)) false || (decide (c.pass ≠ 1) && claimed (dDst d) (codeWidth c.cap.tf.toNat) true)

/-- The slices of a conversion whose pass finds a bank claimed. -/
def claimedParts (s : State) (c : Conv) : List ConvPart :=
  if s.work.isEmpty && s.cnt.writes.isEmpty then [] else c.parts.filter (partClaimed s c)

/-- The end of the pass that a conversion is in (07 R175, R178, R179; 10 R264). -/
def runPass (s : State) (c : Conv) : State :=
  let n := cvCount c.desc
  let tf := c.cap.tf.toNat
  let mg := c.cap.mg.toNat
  match c.pass with
  | 0 => convAdmit s c
  | 1 =>
    let (s, p) := c.parts.foldl (measureSlice c) (s, emptyPass)
    let c := afterPass c p
    if c.parts.isEmpty then convFinish s c
    else
      let e0 := (policy p.note.hown tf mg c.spr).getD 0
      putConv s { c with e0 := e0, hown := noteMag p.note, nonFinite := p.note.nf, pass := 2 }
  | 2 =>
    let (s, p) := c.parts.foldl (convertSlice c c.e0) (s, emptyPass)
    let s := recordPass s c p.note
    let c := afterPass c p
    if c.cap.st = 1 || c.parts.isEmpty then convFinish s c
    else
      let c := { c with hown := noteMag p.note, nonFinite := p.note.nf }
      let sat := decide (n < p.note.ns * 2 ^ (8 + c.cap.sl.toNat))
      let flush := decide (n < p.note.nz * 2 ^ (2 + c.cap.fl.toNat))
      if sat || flush then
        match policy p.note.hown tf mg c.spr with
        | some e1 =>
          if e1 = c.e0 then convFinish (objAdd s 0x7250 4 1) c
          else putConv (objAdd s 0x7250 (if sat then 2 else 3) 1) { c with e0 := e1, pass := 3 }
        | none => convFinish (objAdd s 0x7250 4 1) c
      else convFinish s c
  | _ =>
    let (s, p) := c.parts.foldl (convertSlice c c.e0) (s, emptyPass)
    convFinish (recordPass s c p.note) (afterPass c p)

/-- The end of a pass; it waits while the stream claims a bank that it needs (10 R246). -/
def convPass (s : State) (c : Conv) : State :=
  if (claimedParts s c).isEmpty then runPass s c else (claimedParts s c).foldl (fun t p => countConflict t p.1) s

/-- SCALED_CONVERSION_PASS_END of a slot: the conversion that runs, else the one that waits longest. -/
def convPassEnd (s : State) (slot : Nat) : State :=
  match s.dma.convs.find? fun c => decide (c.slot = slot) && decide (c.pass ≠ 0) with
  | some c => convPass s c
  | none => admitNext s slot

end Sys2Proof.Machine
end

