-- ==== Sys2Proof/Machine/Collective.lean ====
section
/-! DEFINITION. The collective engine: peer sets, descriptors, block fixed-point, tallies and digests, phases, deadlines and
the end of a collective (12 R313 to R332). -/

namespace Sys2Proof.Machine

/-! ### Peer sets (12 R313, Table 12-1) -/

/-- A peer set record: bases, strides and counts by dimension, and the two keys. -/
structure PeerSet where
  valid : Bool
  base : List Nat
  stride : List Nat
  cnt : List Nat
  tk : W128
  dk : W128
deriving DecidableEq, Repr

/-- The bytes of record n of the peer set table. -/
def psBytes (s : State) (n : Nat) : List Byte := ((storeGet [] s.dict.blobs (objKey 0x2340 0)).drop (48 * n)).take 48

/-- One byte of a record. -/
def psByte (bs : List Byte) (i : Nat) : Nat := (bs.getD i 0).toNat

/-- The record of a peer set. -/
def psOf (s : State) (n : Nat) : PeerSet :=
  let bs := psBytes s n
  { valid := decide (psByte bs 0 = 1), base := [psByte bs 1, psByte bs 2, psByte bs 3],
    stride := [psByte bs 4, psByte bs 5, psByte bs 6], cnt := [psByte bs 7, psByte bs 8, psByte bs 9],
    tk := BitVec.ofNat 128 (ofLe ((bs.drop 16).take 16)), dk := BitVec.ofNat 128 (ofLe ((bs.drop 32).take 16)) }

/-- The count of a dimension. -/
def psCnt (p : PeerSet) (d : Nat) : Nat := p.cnt.getD d 1

/-- The coordinate of an index along a dimension. -/
def psCoord (s : State) (p : PeerSet) (d i : Nat) : Nat := (p.base.getD d 0 + i * p.stride.getD d 0) % torusSize s d

/-- The device of member indices. -/
def psDevice (s : State) (p : PeerSet) (i : List Nat) : Nat :=
  idOf (psCoord s p 0 (i.getD 0 0)) (psCoord s p 1 (i.getD 1 0)) (psCoord s p 2 (i.getD 2 0))

/-- The indices of every member, in rank order. -/
def psIndices (p : PeerSet) : List (List Nat) :=
  (List.range (psCnt p 0)).flatMap fun x => (List.range (psCnt p 1)).flatMap fun y =>
    (List.range (psCnt p 2)).map fun z => [x, y, z]

/-- Whether a record is usable: V, counts within the torus, distinct members, a digest key. -/
def psUsable (s : State) (p : PeerSet) : Bool :=
  p.valid && (List.range 3).all (fun d => decide (1 ≤ psCnt p d) && decide (psCnt p d ≤ torusSize s d))
    && decide (p.dk ≠ 0)
    && (let l := (psIndices p).map (psDevice s p); decide (l.eraseDups.length = l.length))

/-- This device's indices in a peer set, if it is a member. -/
def myIndex (s : State) (p : PeerSet) : Option (List Nat) := (psIndices p).find? fun i => decide (psDevice s p i = myId s)

/-- The dimensions whose count is above 1, in the order X, Y, Z. -/
def psDims (p : PeerSet) : List Nat := (List.range 3).filter fun d => decide (1 < psCnt p d)

/-! ### The descriptor (12 Table 12-2) -/

def kOp (d : BitVec 512) : Nat := field d 511 508
def kPs (d : BitVec 512) : Nat := field d 507 504
def kSf (d : BitVec 512) : Nat := field d 503 502
def kPr (d : BitVec 512) : Nat := field d 501 500
def kCmp (d : BitVec 512) : Bool := bit d 499
def kWd (d : BitVec 512) : Bool := bit d 498
def kBid (d : BitVec 512) : Nat := field d 497 482
def kDl (d : BitVec 512) : Nat := field d 481 470
def kPh (d : BitVec 512) : Nat := field d 469 462
def kMbc (d : BitVec 512) : Nat := field d 461 446
def kNe (d : BitVec 512) : Nat := field d 445 418
def kSrc (d : BitVec 512) : Nat := field d 417 366
def kDst (d : BitVec 512) : Nat := field d 365 314
def kRes (d : BitVec 512) : Nat := field d 313 262
def kWa (d : BitVec 512) : Nat := field d 261 210

/-- P: 16, 24, 32 or 48. -/
def kPrec (d : BitVec 512) : Nat := match kPr d with
  | 0 => 16 | 1 => 24 | 2 => 32 | _ => 48

/-- Blocks in the bucket. -/
def kNb (d : BitVec 512) : Nat := (kNe d + 255) / 256

/-- Whether a descriptor breaks 12 R315. -/
def kBad (d : BitVec 512) : Bool :=
  let z := fun (hi lo : Nat) => decide (field d hi lo ≠ 0)
  let m16 := fun (x : Nat) => decide (x % 16 ≠ 0)
  z 209 0 ||
    (if kOp d = 0 then
      z 461 446 || decide (kSf d = 3) || decide (kNe d = 0) || m16 (kSrc d) || m16 (kDst d) || m16 (kRes d)
        || decide (kWa d % 64 ≠ 0) || (kCmp d && decide (kSf d ≠ 0))
    else if kOp d = 1 then
      z 501 498 || z 461 446 || z 313 210 || decide (kSf d = 3) || decide (kNe d = 0) || m16 (kSrc d) || m16 (kDst d)
    else if kOp d = 2 then z 503 482 || z 445 210
    else true)

/-! ### Block fixed-point (12 R318 to R321) -/

/-- The block top of a block's values. -/
def blockTop (vs : List FVal) : Int :=
  if vs.any fvNonFinite then 0x7FFF
  else match maxFinite vs with
    | .fin _ n e => if n = 0 then -0x8000 else floorLog2 n 1 + e + 1
    | _ => -0x8000

/-- The mantissa of a value on the grid of exponent E and precision P; none of a block without a nonzero value. -/
def mantissa (prec : Nat) (e : Int) (v : FVal) : Int :=
  if e = -0x8000 then 0
  else match v with
    | .fin s n k => fvRoundInt s n (k - (e - prec + 2))
    | _ => 0

/-- The bytes of one block of a first-phase message. -/
def blockBytes (d : BitVec 512) : Nat :=
  if kCmp d then 48 else if kSf d = 0 then 272 else if kSf d = 1 then 512 else 1024

/-- The element kind of MXFP8 (object 2500h:02): format code 10 or 11. -/
def mxKind (s : State) : Nat := if objGet s 0x2500 2 = 4 then 11 else 10

/-- The values of a block in message form. -/
def blockVals (kind : Nat) (d : BitVec 512) (bs : List Byte) : List FVal :=
  if kCmp d then
    let sc := BitVec.ofNat 32 (ofLe ((bs.drop 32).take 4))
    (List.range 256).map fun i =>
      if ((bs.getD (i / 8) 0).toNat / 2 ^ (i % 8)) % 2 = 1 then fvNeg (f32 sc) else f32 sc
  else if kSf d = 0 then
    (List.range 256).map fun i => mxValue kind (bs.getD i 0).toNat (bs.getD (256 + i / 32) 0).toNat
  else
    let w := if kSf d = 1 then 2 else 4
    (List.range 256).map fun i => elemValue (if kSf d = 1 then 1 else 0) (ofLe ((bs.drop (w * i)).take w))

/-! ### Words -/

/-- Bytes as words of 16, the last padded with zeros. -/
def toWords (bs : List Byte) : List W128 := (cutEvery (bs.length + 1) 16 bs).map fun w => BitVec.ofNat 128 (ofLe w)

/-- Words as bytes. -/
def ofWords (ws : List W128) : List Byte := ws.flatMap fun w => leBytes 16 w.toNat

/-- The width of the partial sums of c contributions (12 R324). -/
def sumWidth (prec c : Nat) : Nat :=
  let need := prec + (if c ≤ 1 then 0 else Nat.log2 (c - 1) + 1)
  ([16, 24, 32, 40, 48, 56].find? fun w => decide (need ≤ w)).getD 64

/-- Integers packed at W bits from bit 0. -/
def packInts (w : Nat) (ms : List Int) : List W128 :=
  (cutEvery (ms.length + 1) 256 ms).flatMap fun b => toWords (leBytes (32 * w) (vPack w (b.map (patternOf w))))

/-- The integers of a body of W-bit fields. -/
def unpackInts (w n : Nat) (ws : List W128) : List Int :=
  let v := ofLe (ofWords ws)
  (List.range n).map fun i => signedOf w (v / 2 ^ (w * i) % 2 ^ w)

/-! ### Tallies and digests (12 R326, R328) -/

def tallyMod : Nat := 2 ^ 127 - 1

/-- The tally weight: four rattle words of index a, b, c, d. -/
def tallyWeight (key : W128) (a b c d : Nat) : Nat :=
  let r := fun (j : Nat) => (rattle key (BitVec.ofNat 32 a) (BitVec.ofNat 32 (b + j)) (BitVec.ofNat 32 c) (BitVec.ofNat 32 d)).toNat
  let v := (r 0 + r 1 * 2 ^ 32 + r 2 * 2 ^ 64 + r 3 % 2 ^ 31 * 2 ^ 96) % tallyMod
  if v = 0 then 1 else v

/-- The tally of mantissas from element `first` on. -/
def tallyOf (s : State) (p : PeerSet) (d : BitVec 512) (first : Nat) (ms : List Int) : Nat :=
  (ms.zipIdx).foldl (fun t x =>
    (t + tallyWeight p.tk (first + x.2) (4 * kBid d) (kPs d) (s.cnt.step.toNat % 2 ^ 32)
      * (x.1 % (tallyMod : Int)).toNat) % tallyMod) 0

/-- The product of two polynomials over GF(2) modulo x^128 + x^7 + x^2 + x + 1. -/
def gfMul (a h : Nat) : Nat :=
  (List.range 128).foldl (fun acc i =>
    let sh := acc * 2
    let red := if 2 ^ 128 ≤ sh then (sh - 2 ^ 128) ^^^ 0x87 else sh
    if (a / 2 ^ (127 - i)) % 2 = 1 then red ^^^ h else red) 0

/-- The digest of words (12 R328). -/
def digestOf (h : W128) (ws : List W128) : W128 :=
  let d := ws.foldl (fun d w => gfMul (d ^^^ w.toNat) h.toNat) 0
  BitVec.ofNat 128 (gfMul (d ^^^ ws.length) h.toNat)

/-! ### Addresses -/

/-- An address of a collective as a device physical address, or the cause of its failure (12 Table 12-7) (DEDUCED, log entry 51). -/
def collAddr (level : BitVec 2) (write : Bool) (s : State) (va : W64) : State × (Nat ⊕ Nat) :=
  match translate s 0 level va write with
  | (s, .fail c _ _) => (s, .inr (if c = 3 then 3 else 2))
  | (s, .ok pa) =>
    let isProg := match regionOf pa with
      | .program _ => true
      | _ => false
    if (inReserved pa && decide (level ≠ 3)) || (isProg && (write || decide (level ≠ 3))) then (s, .inr 3)
    else if hasTarget s pa then (s, .inl pa) else (s, .inr 3)

/-- Read a span: the bytes, or a cause (05h where a word is poisoned). -/
def collRead (s : State) (c : Coll) (va : W64) (n : Nat) : State × (List Byte ⊕ Nat) :=
  match spanVia (collAddr c.level false) s va n (n / 16 + 2) with
  | (s, .inr f) => (s, .inr f.1)
  | (s, .inl ps) =>
    let (s, bs) := withOpAnd (0x8000 + kOp c.desc) (fun s => readPieces 0 s ps) s
    (s, if bs.any (fun b => b.2) then .inr 5 else .inl (bs.map (·.1)))

/-- Write bytes to a span, or a cause. -/
def collWrite (s : State) (c : Coll) (va : W64) (bs : List Byte) : State × Option Nat :=
  match spanVia (collAddr c.level true) s va bs.length (bs.length / 16 + 2) with
  | (s, .inr f) => (s, some f.1)
  | (s, .inl ps) => (withOp (0x8000 + kOp c.desc) (fun s => writeAs .collective s ((pieceBytes ps).zip bs)) s, none)

/-! ### The end of a collective (12 R317, Table 12-7) -/

/-- Replace a held collective. -/
def putColl (s : State) (c : Coll) : State :=
  s.onColl fun e => { e with held := e.held.map fun x => if x.op = c.op then c else x }

/-- Take a collective off the engine, once. -/
def dropColl (s : State) (c : Coll) : State := s.onColl fun e =>
  if e.held.all fun x => decide (x.op ≠ c.op) then e
  else { e with
    held := e.held.filter fun x => decide (x.op ≠ c.op), ended := e.ended ++ [(kBid c.desc, kPs c.desc, kOp c.desc)] }

/-- The half of the engine, of one die, that a dimension's ports lie with (01 R13): X and Y in die 0, Z in die 1 (DEDUCED, log entry 53). -/
def engineHalf (dim : Nat) : Nat := if dim < 2 then 0 else 1

/-- A hop of a collective whose check failed: its dimension, and the places in this device's line along it of the peers concerned. -/
structure HopFault where
  dim : Nat
  places : List Nat
deriving DecidableEq, Repr

/-- The toll record of a failed check, naming the bucket and the first block of its range; of a hop, the peer that CLELOG names and the
dimension, where Table 13-5 leaves bits, and in ADDR, of no kind, the places of the peers concerned in the line of that dimension, a bit each,
and the number of blocks (DESIGN CHOICE, log entry 115). -/
def collToll (s : State) (c : Coll) (type peer : Nat) (blocks : Nat × Nat) (hop : Option HopFault) : State :=
  let d := kBid c.desc + blocks.1 * 65536
  let t := match hop with
    | none => tollOf type 2 d
    | some h => { tollOf type 2 (d + peer % 2 ^ 14 * 2 ^ 48 + h.dim % 4 * 2 ^ 62) with
        ucls := 0xB, unit := BitVec.ofNat 16 (engineHalf h.dim), flags := 1
        addr := BitVec.ofNat 64 ((h.places.eraseDups.map fun j => 2 ^ j).sum % 2 ^ 40 + blocks.2 % 2 ^ 24 * 2 ^ 40) }
  fileToll s { t with op := BitVec.ofNat 16 (0x8000 + kOp c.desc) }

/-- A collective ends in error with a peer, and of a failed check with the blocks and the hop. -/
def collFailOn (s : State) (c : Coll) (cause peer : Nat) (blocks : Nat × Nat) (hop : HopFault) : State :=
  let s := s.onCtl fun k => { k with
    clerr := setBit k.clerr c.tag.toNat true,
    clelog := BitVec.ofNat 64 (cause + c.tag.toNat * 2 ^ 8 + kBid c.desc * 2 ^ 14 + peer % 2 ^ 14 * 2 ^ 30) }
  let s := if cause ≤ 5 then raiseInt s 0x12 else if cause = 8 ∨ cause = 9 then raiseInt s 0x13 else s
  let s := s.onColl fun e => { e with
    voteL := e.voteL || decide (cause = 6) || decide (cause = 7),
    voteN := e.voteN || decide (cause = 0xA),
    voteT := e.voteT || decide (cause = 8),
    voteD := e.voteD || decide (cause = 9) }
  let s := if cause = 6 then objAdd s 0x7310 2 1 else if cause = 7 then objAdd s 0x7310 3 1
    else if cause = 8 then objAdd s 0x7310 4 1 else if cause = 9 then objAdd s 0x7310 5 1
    else if cause = 0xA then objAdd s 0x7310 6 1 else s
  let s := if cause = 8 then addSuspect (collToll s c 0x11 peer blocks (some hop)) 0xB (engineHalf hop.dim)
    else if cause = 9 then collToll s c 0x12 peer blocks (some hop) else s
  let s := dropColl s c
  if cause = 5 then consumePoison s (0x8000 + kOp c.desc) 5 else s

/-- A collective ends in error with a peer. -/
def collFail (s : State) (c : Coll) (cause peer : Nat) : State := collFailOn s c cause peer (0, 0) ⟨0, []⟩

/-! ### Phases (12 R322, R323) -/

/-- The range after the first k phases of a reduce: first block and how many. -/
def rangeAfter (p : PeerSet) (mine : List Nat) (nb : Nat) : List Nat → Nat × Nat
  | [] => (0, nb)
  | d :: r =>
    -- the dimensions are given last first
    let q := rangeAfter p mine nb r
    let c := psCnt p d
    let i := mine.getD d 0
    (q.1 + i * q.2 / c, (i + 1) * q.2 / c - i * q.2 / c)

/-- Part j of a range cut along dimension d. -/
def partOf (p : PeerSet) (d : Nat) (r : Nat × Nat) (j : Nat) : Nat × Nat :=
  let c := psCnt p d
  (r.1 + j * r.2 / c, (j + 1) * r.2 / c - j * r.2 / c)

/-- The phases of a collective: PK, dimension, and how many dimensions are reduced before and after it. -/
def planOf (p : PeerSet) (d : BitVec 512) : List (Nat × Nat × Nat × Nat) :=
  let ds := psDims p
  let up := fun (pk : Nat) => (ds.zipIdx).map fun x => (pk, x.1, x.2, x.2 + 1)
  let down := fun (pk : Nat) => (((ds.zipIdx).map fun x => (pk, x.1, x.2 + 1, x.2))).reverse
  if kOp d = 0 then up 0 ++ down 1 ++ up 2 else if kOp d = 1 then down 3 else up 4 ++ down 5

/-- The range with k dimensions reduced. -/
def rangeAt (p : PeerSet) (mine : List Nat) (nb k : Nat) : Nat × Nat := rangeAfter p mine nb ((psDims p).take k).reverse

/-- Blocks that the collective's ranges run over: one for a vote. -/
def collBlocks (d : BitVec 512) : Nat := if kOp d = 2 then 1 else kNb d

/-- The other members of this device's line along d: index in d and device. -/
def lineOf (s : State) (p : PeerSet) (mine : List Nat) (d : Nat) : List (Nat × Nat) :=
  ((List.range (psCnt p d)).filter fun j => decide (j ≠ mine.getD d 0)).map fun j => (j, psDevice s p (mine.set d j))

/-- The vote's words merged (12 R333): the maximum of OB, the sum of WC, the flags together. -/
def mergeVote (a b : Nat) : Nat :=
  max (a % 2 ^ 48) (b % 2 ^ 48) + (a / 2 ^ 48 % 2 ^ 32 + b / 2 ^ 48 % 2 ^ 32) % 2 ^ 32 * 2 ^ 48
    + (a / 2 ^ 80 % 16 ||| b / 2 ^ 80 % 16) * 2 ^ 80

/-- The body of the items of blocks: exponents eight to a word, a vote one word. -/
def itemBody (d : BitVec 512) (its : List Int) : List W128 :=
  if kOp d = 2 then its.map fun i => BitVec.ofNat 128 i.toNat
  else toWords (leBytes (2 * its.length) (vPack 16 (its.map (patternOf 16))))

/-- The items of a body. -/
def bodyItems (d : BitVec 512) (n : Nat) (ws : List W128) : List Int :=
  if kOp d = 2 then (ws.take n).map fun w => (w.toNat : Int) else unpackInts 16 n ws

/-- Two items combined. -/
def mergeItem (d : BitVec 512) (a b : Int) : Int := if kOp d = 2 then (mergeVote a.toNat b.toNat : Int) else max a b

/-- A sub-range of a list that runs over a range. -/
def slicePart {α : Type} (r part : Nat × Nat) (w : Nat) (l : List α) : List α := (l.drop ((part.1 - r.1) * w)).take (part.2 * w)

/-! ### Sending -/

/-- The type-specific field of a collective flit (12 Table 12-4). -/
def collField (s : State) (d : BitVec 512) (pk dim fi : Nat) : Nat :=
  kBid d * 2 ^ 71 + s.cnt.step.toNat % 65536 * 2 ^ 55 + s.coll.attempt.toNat % 8 * 2 ^ 52 + kPs d * 2 ^ 48 + pk % 8 * 2 ^ 45
    + dim % 4 * 2 ^ 43 + fi % 2 ^ 24

/-- The words of a message (12 R324): body, tally, status, digest. -/
def msgWords (p : PeerSet) (body : List W128) (tally : Nat) (status : W128) : List W128 :=
  let ws := body ++ [BitVec.ofNat 128 tally, status]
  ws ++ [digestOf p.dk ws]

/-- Send a message to a device; the result says whether the destination was dark (12 R332). -/
def sendMsg (s : State) (p : PeerSet) (d : BitVec 512) (dst pk dim : Nat) (body : List W128) (tally : Nat) (status : W128) :
    State × Bool :=
  if fateOf s 8 dst 0 0 = .dark then (objAdd s 0x7300 8 1, true)
  else
    let ws := msgWords p body tally status
    let s := objAdd s 0x7310 0xD (16 * ws.length)
    let s := ((cutEvery (ws.length + 1) 15 ws).zipIdx).foldl (fun s c =>
      (forwardFlit s 8 (makeFlit (flitHeader dst (myId s) 0 0 0 2 c.1.length (collField s d pk dim c.2))
        (c.1.map fun w => (w, Mark.good)))).1) s
    (s, false)

/-- The status word: FAIL and the contribution count. -/
def statusWord (fail : Bool) (c : Nat) : W128 := BitVec.ofNat 128 (b2n fail + c % 65536 * 2 ^ 8)

/-- What this device sends in a phase to the member of index j: body, tally, contributions. -/
def phaseMsg (s : State) (p : PeerSet) (mine : List Nat) (c : Coll) (ph : Nat × Nat × Nat × Nat) (j : Nat) :
    List W128 × Nat × Nat :=
  let nb := collBlocks c.desc
  let r := rangeAt p mine nb ph.2.2.1
  let d := ph.2.1
  let part := partOf p d r j
  if ph.1 = 0 ∨ ph.1 = 4 then (itemBody c.desc (slicePart r part 1 c.items), 0, c.count)
  else if ph.1 = 1 ∨ ph.1 = 5 then (itemBody c.desc c.items, 0, c.count)
  else if ph.1 = 2 then
    let ms := slicePart r part 256 c.sums
    let t := tallyOf s p c.desc (256 * part.1) ms
    if ph.2.2.1 = 0 then (toWords ((slicePart r part 1 c.blocks).flatMap id), t, c.count)
    else (packInts (sumWidth (kPrec c.desc) c.count) ms, t, c.count)
  else (toWords (c.blocks.flatMap id), 0, c.count)

/-- A vote's sum so far, with L set (12 R333): what this device has merged and what the phase has brought. -/
def voteSoFar (p : PeerSet) (c : Coll) : Nat :=
  let got : List Msg := match (planOf p c.desc)[c.phase]? with
    | some ph => if ph.1 = 4 then c.got.filter fun g => decide (g.pk = ph.1 ∧ g.dim = ph.2.1) else []
    | none => []
  mergeVote (got.foldl (fun a g => mergeVote a (g.body.headD 0).toNat) (c.items.headD 0).toNat) (2 ^ 80)

/-- Send every message this device still owes, to `left` in the phase it is in and to every peer of the later ones: of an exchange with FAIL
set and an empty body (12 R332), of a vote the sum so far with L set (R333; DEDUCED, log entry 114). -/
def sendFails (s : State) (p : PeerSet) (mine : List Nat) (c : Coll) (left : List Nat) : State :=
  let vote := decide (kOp c.desc = 2)
  let body : List W128 := if vote then [BitVec.ofNat 128 (voteSoFar p c)] else []
  let plan := planOf p c.desc
  let now := match plan[c.phase]? with
    | some ph => left.map fun dev => (dev, ph)
    | none => []
  let later := (plan.drop (if c.running then c.phase + 1 else 0)).flatMap fun ph => (lineOf s p mine ph.2.1).map fun m => (m.2, ph)
  (now ++ later).foldl (fun s x => (sendMsg s p c.desc x.1 x.2.1 x.2.2.1 body 0 (statusWord (!vote) 0)).1) s

/-- End a collective as missing a contribution: cause 06h or 07h, with FAIL passed on. -/
def collMissing (s : State) (p : PeerSet) (mine : List Nat) (c : Coll) (cause peer : Nat) (left : List Nat) : State :=
  sendFails (collFail s c cause peer) p mine c left

/-- A collective flit of this device that found its destination dark, for its collective to take up (12 R332). -/
def noteLost (s : State) (d : BitVec 512) (dst pk dim : Nat) : State :=
  s.onFab fun x => { x with inbox := x.inbox ++ [(true, makeFlit (flitHeader dst (myId s) 0 0 0 2 0 (collField s d pk dim 0)) [])] }

/-- A message of a collective as it is sent, for a resend. -/
def sentMsg (d : BitVec 512) (dst pk dim : Nat) (body : List W128) (tally : Nat) (status : W128) : Msg :=
  { bid := kBid d, ps := kPs d, peer := dst, pk := pk, dim := dim, body := body, tally := BitVec.ofNat 128 tally, status := status,
    digest := 0 }

/-- What a phase sends that may be refused for coming early: exponents and votes on their way to the owner (12 R325). -/
def keepSent (s : State) (p : PeerSet) (mine : List Nat) (c : Coll) (ph : Nat × Nat × Nat × Nat) : State :=
  if ph.1 ≠ 0 ∧ ph.1 ≠ 4 then s
  else
    let msgs := (lineOf s p mine ph.2.1).map fun m =>
      let msg := phaseMsg s p mine c ph m.1
      sentMsg c.desc m.2 ph.1 ph.2.1 msg.1 msg.2.1 (statusWord false msg.2.2)
    putColl s { c with sent := c.sent ++ msgs }

/-- Send the messages of the phase a collective has reached. At the first destination that is dark an exchange ends, and the peers still to
come get FAIL (12 R332); a vote's other peers get its word. -/
def sendPhase (s : State) (p : PeerSet) (mine : List Nat) (c : Coll) : State :=
  match (planOf p c.desc)[c.phase]? with
  | none => s
  | some ph =>
    let s := keepSent s p mine c ph
    let vote := decide (kOp c.desc = 2)
    let st := (lineOf s p mine ph.2.1).foldl (fun (st : State × Option Nat × List Nat) m =>
      if st.2.1.isSome && !vote then (st.1, st.2.1, st.2.2 ++ [m.2])
      else
        let msg := phaseMsg st.1 p mine c ph m.1
        let r := sendMsg st.1 p c.desc m.2 ph.1 ph.2.1 msg.1 msg.2.1 (statusWord false msg.2.2)
        (r.1, st.2.1.or (if r.2 then some m.2 else none), st.2.2)) (s, none, [])
    match st.2.1 with
    | none => st.1
    | some dev => if vote then noteLost st.1 c.desc dev ph.1 ph.2.1 else collMissing st.1 p mine c 6 dev st.2.2

/-! ### Own contribution (12 R319, R330) -/

/-- The bytes of the source: MXFP8 blocks are records of 320 bytes, as the moments are stored (08 R212; DEDUCED, log entry 22). -/
def srcBytes (d : BitVec 512) : Nat := if kSf d = 0 then 320 * kNb d else (if kSf d = 1 then 2 else 4) * kNe d

/-- The source as blocks in message form; elements at or beyond NE are zero. -/
def srcBlocks (d : BitVec 512) (bs : List Byte) : List (List Byte) :=
  (List.range (kNb d)).map fun b =>
    let live := min 256 (kNe d - 256 * b)
    if kSf d = 0 then
      let rec' := (bs.drop (320 * b)).take 264
      rec'.take live ++ List.replicate (256 - live) 0 ++ (rec'.drop 256) ++ List.replicate 8 0
    else
      let w := if kSf d = 1 then 2 else 4
      (bs.drop (256 * w * b)).take (w * live) ++ List.replicate (w * (256 - live)) 0

/-- The address of a residue half (12 R330). -/
def resAddr (d : BitVec 512) (half : Nat) : W64 := BitVec.ofNat 64 (kRes d + 4 * kNe d * half)

/-- A block compressed: signs, scale and zeros. -/
def compressBlock (vs : List W32) : List Byte :=
  let sc := f32Scale (reduceLanes .rsum (vs.map fun v => v &&& 0x7FFFFFFF)) (-8)
  leBytes 32 (vPack 1 (vs.map fun v => v.toNat / 2 ^ 31)) ++ leBytes 4 sc.toNat ++ List.replicate 12 0

/-- v of every element: gradient plus residue in FP32. -/
def residueSum (kind : Nat) (d : BitVec 512) (blocks : List (List Byte)) (res : List Byte) : List W32 :=
  let plain : BitVec 512 := d &&& ~~~(BitVec.ofNat 512 (2 ^ 499))
  let g := (blocks.flatMap fun b => blockVals kind plain b)
  (g.zipIdx).map fun x =>
    if x.2 < kNe d then toF32 (fvAdd x.1 (f32 (BitVec.ofNat 32 (ofLe ((res.drop (4 * x.2)).take 4))))) else 0

/-- Whether this device withdraws its contribution: WD, and of a replacement in the first step after its restore every reduce-scatter (14
R385). -/
def withdraws (s : State) (d : BitVec 512) : Bool := kWd d || decide (s.cnt.dropStep = some s.cnt.step)

/-- The contribution of a reduce-scatter: its blocks in message form and v, or a cause (DEDUCED, log entry 52). -/
def contribution (s : State) (c : Coll) : State × ((List (List Byte) × List W32) ⊕ Nat) :=
  let d := c.desc
  if withdraws s d then (s, .inl (List.replicate (kNb d) (List.replicate (blockBytes d) 0), []))
  else
    match collRead s c (BitVec.ofNat 64 (kSrc d)) (srcBytes d) with
    | (s, .inr cause) => (s, .inr cause)
    | (s, .inl bs) =>
      let blocks := srcBlocks d bs
      if !(kCmp d) then (s, .inl (blocks, []))
      else
        match collRead s c (resAddr d ((s.cnt.step.toNat + 1) % 2)) (4 * kNe d) with
        | (s, .inr cause) => (s, .inr cause)
        | (s, .inl res) =>
          let vs := residueSum (mxKind s) d blocks res
          (s, .inl ((cutEvery (vs.length + 1) 256 vs).map compressBlock, vs))

/-- The mantissas of blocks under the shared exponents. -/
def mantissas (kind : Nat) (d : BitVec 512) (exps : List Int) (blocks : List (List Byte)) : List Int :=
  (exps.zip blocks).flatMap fun x => (blockVals kind d x.2).map (mantissa (kPrec d) x.1)

/-- The grid unit's exponent: u = 2^(E − P + 2). -/
def gridExp (d : BitVec 512) (e : Int) : Int := e - kPrec d + 2

/-- The residue after the exponent pass: r := v − m·u (12 R330). -/
def writeResidue (s : State) (c : Coll) : State × Option Nat :=
  if !(kCmp c.desc) || withdraws s c.desc then (s, none)
  else
    let u := fun (i : Nat) => c.exps.getD (i / 256) 0
    let r := ((c.vs.zip c.sums).zipIdx).map fun x =>
      let m := fvScale (fvOfInt x.1.2) (if u x.2 = -0x8000 then 0 else gridExp c.desc (u x.2))
      toF32 (fvAdd (f32 x.1.1) (fvNeg m))
    collWrite s c (resAddr c.desc (s.cnt.step.toNat % 2)) ((r.take (kNe c.desc)).flatMap fun x => leBytes 4 x.toNat)

/-- The bytes of the work area (12 R331). -/
def workSize (d : BitVec 512) : Nat := 2048 * (kNb d + 16)

/-- The bytes of a message: its body and trailer. -/
def msgBytes (m : Msg) : Nat := 16 * (m.body.length + 3)

/-- Whether two messages are copies of one (12 R325). -/
def sameMsg (a b : Msg) : Bool := decide (a.bid = b.bid ∧ a.ps = b.ps ∧ a.peer = b.peer ∧ a.pk = b.pk ∧ a.dim = b.dim)

/-- Where a message of n bytes is put in the work area: the lowest place that no message there takes (DESIGN CHOICE, log entry 22). -/
def workPlace (c : Coll) (n : Nat) : Option Nat :=
  let free := fun (o : Nat) => decide (o + n ≤ workSize c.desc) && c.wa.all fun x => decide (o + n ≤ x.2) || decide (x.2 + msgBytes x.1 ≤ o)
  (0 :: c.wa.map fun x => x.2 + msgBytes x.1).foldl (fun (best : Option Nat) o =>
    if free o then some (match best with
      | some b => min b o
      | none => o)
    else best) none

/-- The engine writes its work area: the words of a new message at its place (12 R328); the messages that stand there stay. What else the
engine keeps there is its own, which the spec does not give: each other byte is left a free value (DESIGN CHOICE, log entry 22). -/
def writeWork (s : State) (c : Coll) (new : Option (Msg × Nat)) : State × Option Nat :=
  let n := workSize c.desc
  let f := s.cnt.free
  let s := s.onCnt fun k => { k with free := k.free + n / 8 }
  match spanVia (collAddr c.level true) s (BitVec.ofNat 64 (kWa c.desc)) n (n / 16 + 2) with
  | (s, .inr f) => (s, some f.1)
  | (s, .inl ps) =>
    let byteAt := fun (i : Nat) =>
      let own := (leBytes 8 (Config.freeValue (f + i / 8)).toNat).getD (i % 8) 0
      match new with
      | some (m, o) => if o ≤ i ∧ i < o + msgBytes m
          then (leBytes 16 ((m.body ++ [m.tally, m.status, m.digest]).getD ((i - o) / 16) 0).toNat).getD ((i - o) % 16) 0 else own
      | none => own
    let stands := fun (i : Nat) => c.wa.any fun x => decide (x.2 ≤ i) && decide (i < x.2 + msgBytes x.1)
    let bs := ((pieceBytes ps).zipIdx).filterMap fun x => if stands x.2 then none else some (x.1, byteAt x.2)
    (withOp (0x8000 + kOp c.desc) (fun s => writeAs .collective s bs) s, none)

/-- A message is read back from its place in the work area to be added: the digest is computed again over what is read (12 R328); a poisoned
word is cause 05h (R331). -/
def readWork (s : State) (p : PeerSet) (c : Coll) (m : Msg) : State × (Msg ⊕ Nat) :=
  match c.wa.find? fun x => sameMsg x.1 m with
  | none => (s, .inl m)
  | some x =>
    match collRead s c (BitVec.ofNat 64 (kWa c.desc + x.2)) (msgBytes m) with
    | (s, .inr cause) => (s, .inr cause)
    | (s, .inl bs) =>
      let ws := toWords bs
      let n := m.body.length
      let r : Msg := { m with body := ws.take n, tally := ws.getD n 0, status := ws.getD (n + 1) 0, digest := ws.getD (n + 2) 0 }
      (s, if digestOf p.dk (r.body ++ [r.tally, r.status]) = r.digest then .inl r else .inr 9)

/-- The owner delivers its shard as FP32 (12 R321). -/
def deliverShard (s : State) (p : PeerSet) (mine : List Nat) (c : Coll) : State :=
  let r := rangeAt p mine (kNb c.desc) (psDims p).length
  let vals := ((c.sums.zipIdx).map fun x =>
    let e := c.exps.getD (r.1 + x.2 / 256) 0
    toF32 (fvScale (fvOfInt x.1) (if e = -0x8000 then 0 else gridExp c.desc e)))
  let bad := ((cutEvery (vals.length + 1) 256 vals).filter fun b => b.any fun v => fvNonFinite (f32 v)).length
  let s := if bad = 0 then s else (objAdd s 0x7310 7 bad).onColl fun e => { e with voteN := true }
  let live := vals.take (min vals.length (kNe c.desc - 256 * r.1))
  match collWrite s c (BitVec.ofNat 64 (kDst c.desc + 1024 * r.1)) (live.flatMap fun v => leBytes 4 v.toNat) with
  | (s, some cause) => collFail s c cause (myId s)
  | (s, none) => objAdd (dropColl s c) 0x7310 1 1

/-! ### Between the passes -/

/-- The start of the data phases, once every exponent is known (12 R319). -/
def startData (s : State) (p : PeerSet) (mine : List Nat) (c : Coll) : State :=
  let c := { c with exps := c.items }
  if c.items.any fun e => decide (e = 0x7FFF) then collFail s c 0xA (myId s)
  else
    let c := { c with sums := mantissas (mxKind s) c.desc c.items c.blocks, count := if withdraws s c.desc then 0 else 1 }
    match writeResidue s c with
    | (s, some cause) => collFail s c cause (myId s)
    | (s, none) =>
      let s := putColl s c
      if (psDims p).isEmpty then deliverShard s p mine c else sendPhase s p mine c

/-- Bytes of an all-gather's blocks, without the padding, written to DST. -/
def landBlocks (s : State) (c : Coll) (first : Nat) (blocks : List (List Byte)) : State × Option Nat :=
  let w := if kSf c.desc = 0 then 1 else if kSf c.desc = 1 then 2 else 4
  let bs := (blocks.flatMap id).take (w * (kNe c.desc - 256 * first))
  collWrite s c (BitVec.ofNat 64 (kDst c.desc + 256 * w * first)) bs

/-- Whether the exponent pass ends with this phase. -/
def lastExponent (p : PeerSet) (c : Coll) : Bool := decide (kOp c.desc = 0) && decide (c.phase = 2 * (psDims p).length)

/-- What a collective does when it has ended a phase: the next phase's messages, or its end. -/
def afterPhase (s : State) (p : PeerSet) (mine : List Nat) (c : Coll) : State :=
  let s := putColl s c
  if lastExponent p c then startData s p mine c
  else if c.phase < (planOf p c.desc).length then sendPhase s p mine c
  else if kOp c.desc = 0 then deliverShard s p mine c
  else if kOp c.desc = 1 then dropColl s c
  else s

/-- The messages of a phase, in order of the sender's index. -/
def phaseGot (s : State) (p : PeerSet) (mine : List Nat) (c : Coll) (ph : Nat × Nat × Nat × Nat) : List (Nat × Msg) :=
  (lineOf s p mine ph.2.1).filterMap fun m =>
    (c.got.find? fun g => decide (g.peer = m.2 ∧ g.pk = ph.1 ∧ g.dim = ph.2.1)).map fun g => (m.1, g)

/-- The contributions that a status word counts. -/
def statusCount (w : W128) : Nat := field w 23 8

/-- The messages of a phase taken into what this device holds (12 R319, R322, R323, R327). -/
def addPhase (s : State) (p : PeerSet) (mine : List Nat) (c : Coll) (ph : Nat × Nat × Nat × Nat) (got : List (Nat × Msg)) : State :=
  let nb := collBlocks c.desc
  let i := mine.getD ph.2.1 0
  let r := rangeAt p mine nb ph.2.2.1
  let r' := rangeAt p mine nb ph.2.2.2
  let c' := { c with phase := c.phase + 1 }
  if ph.1 = 0 ∨ ph.1 = 4 then
    let own := slicePart r r' 1 c.items
    let its := got.foldl (fun l g => List.zipWith (mergeItem c.desc) l (bodyItems c.desc r'.2 g.2.body)) own
    afterPhase s p mine { c' with items := its }
  else if ph.1 = 1 ∨ ph.1 = 5 then
    let its := (List.range (psCnt p ph.2.1)).flatMap fun j =>
      if j = i then c.items
      else match got.find? fun g => decide (g.1 = j) with
        | some g => bodyItems c.desc (partOf p ph.2.1 r' j).2 g.2.body
        | none => []
    afterPhase s p mine { c' with items := its }
  else if ph.1 = 2 then
    let own := slicePart r r' 256 c.sums
    let first := 256 * r'.1
    let add := fun (l : List Int) (g : Nat × Msg) =>
      let ms := if ph.2.2.1 = 0 then
          mantissas (mxKind s) c.desc (slicePart (0, nb) r' 1 c.exps) (cutEvery (r'.2 + 1) (blockBytes c.desc) (ofWords g.2.body))
        else unpackInts (sumWidth (kPrec c.desc) (statusCount g.2.status)) (256 * r'.2) g.2.body
      List.zipWith (· + ·) l ms
    let sums := got.foldl add own
    let want := (got.foldl (fun t g => t + g.2.tally.toNat) (tallyOf s p c.desc first own)) % tallyMod
    if tallyOf s p c.desc first sums ≠ want then
      let peer := match got with
        | [g] => g.2.peer
        | _ => myId s
      collFailOn s c 8 peer r' ⟨ph.2.1, got.map (·.1)⟩
    else
      afterPhase s p mine { c' with
        sums := sums, count := c.count + (got.map fun g => statusCount g.2.status).sum }
  else
    let w := if kSf c.desc = 0 then 1 else if kSf c.desc = 1 then 2 else 4
    let blk := fun (g : Nat × Msg) => cutEvery ((partOf p ph.2.1 r' g.1).2 + 1) (256 * w) (ofWords g.2.body)
    let all := (List.range (psCnt p ph.2.1)).flatMap fun j =>
      if j = i then c.blocks
      else match got.find? fun g => decide (g.1 = j) with
        | some g => blk g
        | none => []
    afterPhase s p mine { c' with blocks := all }

/-- The messages of a phase as they are read back, in order, or the cause and the message of the first that fails. -/
def readPhase (s : State) (p : PeerSet) (c : Coll) (got : List (Nat × Msg)) : State × (List (Nat × Msg) ⊕ (Nat × Nat × Msg)) :=
  match got with
  | [] => (s, .inl [])
  | g :: r =>
    match readWork s p c g.2 with
    | (s, .inr cause) => (s, .inr (cause, g))
    | (s, .inl m) =>
      match readPhase s p c r with
      | (s, .inr f) => (s, .inr f)
      | (s, .inl l) => (s, .inl ((g.1, m) :: l))

/-- A phase whose messages are all here is worked off: a reduce-scatter reads them back from its work area first (12 R328). -/
def workPhase (s : State) (p : PeerSet) (mine : List Nat) (c : Coll) (ph : Nat × Nat × Nat × Nat) (got : List (Nat × Msg)) : State :=
  if kOp c.desc ≠ 0 then addPhase s p mine c ph got
  else
    match readPhase s p c got with
    | (s, .inr (cause, j, m)) => collFailOn s c cause m.peer (rangeAt p mine (collBlocks c.desc) ph.2.2.2) ⟨ph.2.1, [j]⟩
    | (s, .inl got) => addPhase s p mine { c with wa := c.wa.filter fun x => got.all fun g => !(sameMsg x.1 g.2) } ph got

/-- Work off the phases whose messages are here already; `n` is fuel. -/
def advanceColl (s : State) (op : Nat) (n : Nat) : State :=
  match n with
  | 0 => s
  | k + 1 =>
    match s.coll.held.find? fun c => decide (c.op = op) && c.running with
    | none => s
    | some c =>
      let p := psOf s (kPs c.desc)
      match myIndex s p, (planOf p c.desc)[c.phase]? with
      | some mine, some ph =>
        let got := phaseGot s p mine c ph
        if got.length = psCnt p ph.2.1 - 1 then advanceColl (workPhase s p mine c ph got) op k else s
      | _, _ => s

end Sys2Proof.Machine
end

