-- ==== Sys2Proof/Machine/Vote.lean ====
section
/-! DEFINITION. The commands of the collective engine, and the close of a step: issue, acceptance, opening, the three kinds,
messages, deadlines, the vote's commit, repeats and fails (12 R314 to R337). -/

namespace Sys2Proof.Machine

/-! ### Issue and acceptance (12 R314, R315) -/

/-- Whether the collective issue queue is full. -/
def collFull (s : State) : Bool := decide (16 ≤ s.coll.queue.length)

/-- A collective issue. -/
def collIssue (s : State) (xd : W64) (tag : BitVec 6) : State :=
  s.onColl fun e => { e with queue := e.queue ++ [(xd, tag, s.seq.pl, s.cnt.op, s.cnt.clk)] }

/-- Whether a collective tag is in flight (12 R317). -/
def collTagBusy (s : State) (tag : BitVec 6) : Bool :=
  s.coll.queue.any (fun q => decide (q.2.1 = tag)) || s.coll.held.any (fun c => decide (c.tag = tag))

/-- A collective as it is accepted. -/
def freshColl (q : W64 × BitVec 6 × BitVec 2 × Nat × Nat) (desc : BitVec 512) : Coll :=
  { step := 0, att := 0, sent := [], wa := [], xd := q.1, tag := q.2.1, level := q.2.2.1, op := q.2.2.2.1, desc := desc, isOpen := false, openBeat := 0, running := false,
    phase := 0, items := [], exps := [], blocks := [], vs := [], sums := [], count := 0, got := [] }

/-- The descriptor's address: in scratch, a multiple of 64, the local window in slice 0 (12 R314). -/
def collDescAddr (s : State) (level : BitVec 2) (xd : W64) : State × (Nat ⊕ Nat) :=
  match translate s 0 level xd false with
  | (s, .fail c _ _) => (s, .inr (if c = 3 then (if level = 3 then 1 else 3) else 2))
  | (s, .ok pa) =>
    let go := fun (off a : Nat) =>
      if xd.toNat % 64 ≠ 0 then (Sum.inr 1 : Nat ⊕ Nat)
      else if 0xFF0000 ≤ off ∧ level ≠ 3 then .inr 3 else .inl a
    match regionOf pa with
    | .localScratch off => (s, go off (scratchAddr 0 off))
    | .scratch _ off => (s, go off pa)
    | _ => (s, .inr 1)

/-- Whether a collective's phase is open and, for a vote, the exchanges accepted before it have ended (12 R316). -/
def mayOpen (s : State) (c : Coll) : Bool :=
  (decide (kPh c.desc = 0) || storeGet false s.coll.phases (kPh c.desc))
    && (decide (kOp c.desc ≠ 2)
      || (s.coll.held.takeWhile fun x => decide (x.op ≠ c.op)).all fun x => decide (kOp x.desc = 2) || decide (x.step ≠ c.step))

/-- The check of a peer set: usable, with this device a member. -/
def psMember (s : State) (n : Nat) : Bool := psUsable s (psOf s n) && (myIndex s (psOf s n)).isSome

/-! ### Messages and deadlines (12 R324, R325, R332) -/

/-- The beats of a collective's deadline. -/
def deadlineOf (s : State) (c : Coll) : Nat :=
  c.openBeat.toNat + (if kDl c.desc = 0 then objGet s 0x2341 3 else kDl c.desc)

/-- The bytes that a half's early-arrival buffer holds. -/
def earlyBytes (s : State) (half : Nat) : Nat := ((s.coll.early.filter fun m => decide (engineHalf m.dim = half)).map msgBytes).sum

/-- The type-specific field of the flits of a message of this attempt, at flit index 0. -/
def msgField (s : State) (m : Msg) : Nat :=
  m.bid % 2 ^ 16 * 2 ^ 71 + s.cnt.step.toNat % 65536 * 2 ^ 55 + s.coll.attempt.toNat % 8 * 2 ^ 52 + m.ps % 16 * 2 ^ 48
    + m.pk % 8 * 2 ^ 45 + m.dim % 4 * 2 ^ 43

/-- The flits of a message that is refused are kept no longer, so that its resend is no copy (12 R325). -/
def forgetFlits (s : State) (m : Msg) : State :=
  s.onColl fun e => { e with seen := e.seen.filter fun k => decide (k.1 ≠ m.peer ∨ k.2.1 / 2 ^ 43 ≠ msgField s m / 2 ^ 43) }

/-- A message for a collective that is not yet open: exponent and vote messages are held, unless the buffer of 8 MiB of their half is full;
the refusal goes back by link control (DEDUCED, log entry 53). One of a collective that has ended comes too late. -/
def holdEarly (s : State) (m : Msg) : State :=
  if m.pk ≠ 0 ∧ m.pk ≠ 4 then s
  else if s.coll.ended.contains (m.bid, m.ps, if m.pk = 0 then 0 else 2) then s
  else if s.coll.early.any (sameMsg m) then objAdd s 0x7310 8 1
  else if 2 ^ 23 < earlyBytes s (engineHalf m.dim) + msgBytes m then
    (forwardFlit (objAdd (forgetFlits s m) 0x7310 9 1) 8 (makeFlit (flitHeader m.peer (myId s) 2 0 0 4 0 (msgField s m)) [])).1
  else (objAdd s 0x7310 0xE (msgBytes m)).onColl fun e => { e with early := e.early ++ [m] }

/-- The phase of a collective that a message is of: its bucket, peer set and PK are the collective's, and its sender stands in the phase's
line. -/
def msgPhase (s : State) (c : Coll) (m : Msg) : Option (Nat × Nat × Nat × Nat) :=
  let p := psOf s (kPs c.desc)
  if m.bid ≠ kBid c.desc ∨ m.ps ≠ kPs c.desc then none
  else
    match myIndex s p with
    | none => none
    | some mine =>
      (planOf p c.desc).find? fun ph =>
        decide (ph.1 = m.pk ∧ ph.2.1 = m.dim) && (lineOf s p mine ph.2.1).any fun l => decide (l.2 = m.peer)

/-- A vote message with FAIL set: a contribution missing from the reduced sum sets L; a missing reduced word is none. -/
def failedVote (m : Msg) : Option Msg :=
  match m.body with
  | [] => if m.pk = 4 then some { m with body := [BitVec.ofNat 128 (2 ^ 80)] } else none
  | w :: _ => some { m with body := [BitVec.ofNat 128 (mergeVote w.toNat (2 ^ 80))] }

/-- A message's first block and blocks, of those that its collective's ranges run over. -/
def msgBlocks (s : State) (c : Coll) (ph : Nat × Nat × Nat × Nat) (m : Msg) : Nat × Nat :=
  let p := psOf s (kPs c.desc)
  let mine := (myIndex s p).getD []
  let r := rangeAt p mine (collBlocks c.desc) ph.2.2.2
  if ph.1 = 3 then
    match (lineOf s p mine ph.2.1).find? fun l => decide (l.2 = m.peer) with
    | some l => partOf p ph.2.1 r l.1
    | none => r
  else r

/-- Where a message goes as it comes: all-gather data lands in DST (12 R323), a reduce-scatter's messages in the work area (R328). -/
def placeMsg (s : State) (c : Coll) (ph : Nat × Nat × Nat × Nat) (m : Msg) : State × Coll × Option Nat :=
  if kOp c.desc = 1 then
    let b := msgBlocks s c ph m
    let w := if kSf c.desc = 0 then 1 else if kSf c.desc = 1 then 2 else 4
    let r := landBlocks s c b.1 (cutEvery (b.2 + 1) (256 * w) (ofWords m.body))
    (r.1, c, r.2)
  else if kOp c.desc = 0 then
    match workPlace c (msgBytes m) with
    | some o =>
      let r := writeWork s c (some (m, o))
      (r.1, { c with wa := c.wa ++ [(m, o)] }, r.2)
    | none => (s, c, none)
  else (s, c, none)

/-- A message of an open collective: discarded after the deadline or as a further copy; FAIL and the digest are looked at; it goes to its
place; then the phases that are complete are worked off. `fresh` counts its bytes. -/
def admitMsg (s : State) (c : Coll) (ph : Nat × Nat × Nat × Nat) (fresh : Bool) (m : Msg) : State :=
  let p := psOf s (kPs c.desc)
  let mine := (myIndex s p).getD []
  if deadlineOf s c < s.fab.beat.count.toNat then s
  else if c.got.any (sameMsg m) then objAdd s 0x7310 8 1
  else
    let s := if fresh then objAdd s 0x7310 0xE (msgBytes m) else s
    let keep := fun (s : State) (c : Coll) (m : Msg) => advanceColl (putColl s { c with got := c.got ++ [m] }) c.op 16
    if bit m.status 0 then
      if kOp c.desc = 2 then
        match failedVote m with
        | some m => keep (objAdd s 0x7310 3 1) c m
        | none => objAdd s 0x7310 3 1
      else collMissing s p mine c 7 m.peer []
    else if digestOf p.dk (m.body ++ [m.tally, m.status]) ≠ m.digest then
      let places := ((lineOf s p mine ph.2.1).filter fun l => decide (l.2 = m.peer)).map (·.1)
      collFailOn s c 9 m.peer (msgBlocks s c ph m) ⟨m.dim, places⟩
    else
      match placeMsg s c ph m with
      | (s, _, some cause) => collFail s c cause (myId s)
      | (s, c, none) => keep s c m

/-- COLLECTIVE_MESSAGE_COMPLETE: a message for the collective that it is of, or one that has come early. -/
def takeMessage (s : State) (m : Msg) : State :=
  match s.coll.held.find? fun c => c.isOpen && (msgPhase s c m).isSome with
  | none => holdEarly s m
  | some c => match msgPhase s c m with
    | some ph => admitMsg s c ph true m
    | none => s

/-- Open a collective: its open beat is the beat count now, and the messages that came early for it are taken up. -/
def openColl (s : State) (c : Coll) : State :=
  let mine := s.coll.early.filter fun m => (msgPhase s c m).isSome
  let s := s.onColl fun e => { e with early := e.early.filter fun m => (msgPhase s c m).isNone }
  let s := putColl s { c with isOpen := true, openBeat := s.fab.beat.count }
  mine.foldl (fun s m =>
    match s.coll.held.find? (fun x => decide (x.op = c.op)), msgPhase s c m with
    | some c, some ph => admitMsg s c ph false m
    | _, _ => s) s

/-! ### Acceptance and opening (12 R314, R316) -/

/-- COLLECTIVE_ACCEPT (12 R314). -/
def acceptColl (s : State) : State :=
  match s.coll.queue with
  | [] => s
  | q :: rest =>
    if s.cnt.clk < q.2.2.2.2 + 6 ∨ 64 ≤ s.coll.held.length then s
    else
      let s := s.onColl fun e => { e with queue := rest }
      let hold := fun (s : State) (c : Coll) => s.onColl fun e => { e with held := e.held ++ [c] }
      let fail := fun (s : State) (c : Coll) (cause : Nat) => collFail (hold s c) c cause (myId s)
      match collDescAddr s q.2.2.1 q.1 with
      | (s, .inr cause) => fail s (freshColl q 0) cause
      | (s, .inl pa) =>
        let (s, bs, bad) := withOpAnd (0x8000 + kOp (BitVec.ofNat 512 (ofLe (peekBytes s pa 64)))) (fun s => readBytes s pa 64) s
        let c := { freshColl q (BitVec.ofNat 512 (ofLe bs)) with step := s.cnt.step, att := s.coll.attempt }
        if bad then fail s c 5
        else if kBad c.desc then fail s c 1
        else if !(psMember s (kPs c.desc)) then fail s c 4
        else
          let s := hold s c
          if decide (kPh c.desc = 0) && mayOpen s c then openColl s c else s

/-- The first held collective with a tag that passes a test. -/
def collOf (s : State) (tag : BitVec 6) (p : Coll → Bool) : Option Coll := s.coll.held.find? fun c => decide (c.tag = tag) && p c

/-- COLLECTIVE_OPEN (12 R316). -/
def openByTag (s : State) (tag : BitVec 6) : State :=
  match collOf s tag fun c => !c.isOpen && mayOpen s c with
  | none => s
  | some c => openColl s c

/-! ### The three kinds (12 R319, R323, R333) -/

/-- Begin a collective: `c` is open; its first messages go out, and what has come early is worked off. -/
def startColl (s : State) (c : Coll) : State :=
  let p := psOf s (kPs c.desc)
  match myIndex s p with
  | none => collFail s c 4 (myId s)
  | some mine => advanceColl (afterPhase s p mine { c with running := true }) c.op 16

/-- REDUCE_SCATTER: the contribution is read, its block tops formed, the exponent pass begins. -/
def runReduce (s : State) (tag : BitVec 6) : State :=
  match collOf s tag fun c => c.isOpen && !c.running && decide (kOp c.desc = 0) with
  | none => s
  | some c =>
    match writeWork s c none with
    | (s, some cause) => collFail s c cause (myId s)
    | (s, none) =>
      match contribution s c with
      | (s, .inr cause) => collFail s c cause (myId s)
      | (s, .inl (blocks, vs)) =>
        let tops := blocks.map fun b => if withdraws s c.desc then -0x8000 else blockTop (blockVals (mxKind s) c.desc b)
        let s := match tops.findIdx? (fun t => decide (t = 0x7FFF)) with
          | some i => collToll (s.onCtl fun k => { k with clnfl := 1 }) c 0x13 (myId s) (i, 1) none
          | none => s
        startColl s { c with blocks := blocks, vs := vs, items := tops, count := if withdraws s c.desc then 0 else 1 }

/-- ALL_GATHER: this device's shard is copied from SRC to DST, and its phases begin. -/
def runGather (s : State) (tag : BitVec 6) : State :=
  match collOf s tag fun c => c.isOpen && !c.running && decide (kOp c.desc = 1) with
  | none => s
  | some c =>
    let p := psOf s (kPs c.desc)
    let mine := (myIndex s p).getD []
    let r := rangeAt p mine (kNb c.desc) (psDims p).length
    let w := if kSf c.desc = 0 then 1 else if kSf c.desc = 1 then 2 else 4
    let live := min (256 * r.2) (kNe c.desc - 256 * r.1)
    match collRead s c (BitVec.ofNat 64 (kSrc c.desc + 256 * w * r.1)) (w * live) with
    | (s, .inr cause) => collFail s c cause (myId s)
    | (s, .inl bs) =>
      let blocks := cutEvery (r.2 + 1) (256 * w) (bs ++ List.replicate (256 * w * r.2 - bs.length) 0)
      match landBlocks s c r.1 blocks with
      | (s, some cause) => collFail s c cause (myId s)
      | (s, none) => startColl s { c with blocks := blocks, count := 1 }

/-- This device's vote word (12 R333); a replacement withdraws its micro-batches in the first step after its restore (14 R385). -/
def voteWord (s : State) (c : Coll) : Nat :=
  let wc := if (s.ctl.clnfl ≠ 0 ∧ objGet s 0x2341 1 = 1) ∨ s.cnt.dropStep = some s.cnt.step then kMbc c.desc else 0
  c.openBeat.toNat + wc * 2 ^ 48 + b2n s.coll.voteL * 2 ^ 80 + b2n s.coll.voteN * 2 ^ 81 + b2n s.coll.voteT * 2 ^ 82
    + b2n s.coll.voteD * 2 ^ 83

/-- CLOSE_VOTE. -/
def runVote (s : State) (tag : BitVec 6) : State :=
  match collOf s tag fun c => c.isOpen && !c.running && decide (kOp c.desc = 2) with
  | none => s
  | some c => startColl s { c with items := [(voteWord s c : Int)], count := 1 }

/-- EARLY_ARRIVAL_RESEND: the whole exponent or vote messages of a tag's collectives go to a peer again (12 R325); one that was not refused is a
further copy there. -/
def resendEarly (s : State) (tag : BitVec 6) (peer : Nat) : State :=
  (s.coll.held.filter fun c => decide (c.tag = tag) && c.running).foldl (fun s c =>
    let p := psOf s (kPs c.desc)
    (c.sent.filter fun m => decide (m.peer = peer)).foldl (fun s m =>
      let r := sendMsg s p c.desc peer m.pk m.dim m.body m.tally.toNat m.status
      if r.2 then noteLost r.1 c.desc peer m.pk m.dim else r.1) s) s

/-! ### The commit of a vote (12 R334 to R337, Table 12-5) -/

/-- Whether a vote has its reduced word. -/
def voteReduced (s : State) (c : Coll) : Bool :=
  c.running && decide ((planOf (psOf s (kPs c.desc)) c.desc).length ≤ c.phase)

/-- The verdicts: 0 proceed, 1 repeat, 2 re-exchange, 3 fail; and whether back-off comes first. -/
def verdictOf (s : State) (bad n : Bool) : Nat × Bool :=
  let rep := fun (backoff : Bool) => if objGet s 0x2341 2 ≤ s.coll.repeats then (3, backoff) else (1, backoff)
  if bad then rep n
  else if !n then (0, false)
  else if s.coll.reexchange then rep false
  else if objGet s 0x2341 1 = 1 then (2, true)
  else rep true

/-- Every cue keyed to the angle that fired in the failed attempt is armed again (11 R309). -/
def rearmCues (s : State) : State :=
  let again := fun (_ : Nat) (c : Cue) =>
    if field c.w0 62 61 = 1 ∧ c.fired then
      { c with w0 := setField (setBit c.w0 63 true) 49 47 1, fired := false }
    else c
  s.onFab fun f => { f with cues := storeMap idleCue again f.cues }

/-- Steps 2 and 3 of 12 R335: interrupt 11h with its effects, and the attempt's collectives end in cause 0Bh, those that are still queued too;
one accepted in an earlier step or attempt goes on. -/
def announceRepeat (s : State) : State :=
  let s := rearmCues (stashRepeat (clearSteps (raiseInt s 0x11)))
  let mine := s.coll.held.filter fun c => decide (c.step = s.cnt.step ∧ c.att = s.coll.attempt)
  let s := mine.foldl (fun s c => collFail s c 0xB (myId s)) s
  let s := s.coll.queue.foldl (fun s q => collFail s (freshColl q 0) 0xB (myId s)) s
  s.onColl fun e => { e with queue := [], early := [], ended := [], seen := [] }

/-- The record of a committed verdict (12 Table 12-6) (DEDUCED, log entry 54). -/
def writeVerdict (s : State) (v : Nat) (tocsin : Bool) (word : Nat) : State :=
  s.onCtl fun k => { k with clverd := BitVec.ofNat 64 (v + b2n tocsin * 2 ^ 3
    + (word / 2 ^ 83 % 2 + word / 2 ^ 82 % 2 * 2 + word / 2 ^ 81 % 2 * 4 + word / 2 ^ 80 % 2 * 8) * 2 ^ 4
    + s.coll.attempt.toNat * 2 ^ 8 + word / 2 ^ 48 % 2 ^ 32 * 2 ^ 16) }

/-- The flags and tocsins of an attempt are spent. -/
def clearVote (s : State) : State :=
  s.onColl fun e => { e with voteL := false, voteN := false, voteT := false, voteD := false, lateL := false, tocsin := [], ended := [], seen := [] }

/-- A verdict of fail (12 R337): the repeat is announced, the attempt number is 0 again, a repeat is pending, a fatal record and
a tocsin go out, and the stream stops. -/
def failVerdict (s : State) : State :=
  let s := announceRepeat (clearVote (objAdd s 0x7310 0xC 1))
  let s := (s.onColl fun e => { e with attempt := 0, reexchange := false }).onCnt fun k => { k with repeatPending := true }
  let s := fileToll s { tollOf 0x52 3 0 with flags := 8 }
  stopStream (sendTocsin s 0 0 0x52)

/-- Commit a vote with its word (12 R334 to R337). A verdict of proceed is what the optimiser runs on: object 4110h:07 shows the step from then on
(14 R382; DEDUCED, log entry 137). -/
def commitVote (s : State) (c : Coll) (reduced : Nat) (missing : Bool) : State :=
  let ps := kPs c.desc
  let word := if s.coll.lateL then mergeVote reduced (2 ^ 80) else reduced
  let toc := s.coll.tocsin.contains ps
  let l := decide (word / 2 ^ 80 % 2 = 1)
  let n := decide (word / 2 ^ 81 % 2 = 1)
  let td := decide (word / 2 ^ 82 % 4 ≠ 0)
  let v := verdictOf s (missing || l || td || toc) n
  let s := writeVerdict s v.1 toc word
  let s := dropColl s c
  let recent := s.coll.committed.filter fun x => decide (s.cnt.step.toNat < x.1 + 65536)
  let s := s.onColl fun e => { e with
    committed := if v.1 = 0 then recent ++ [(s.cnt.step.toNat, s.coll.attempt.toNat % 8, ps)] else recent }
  let s := if v.2 then backoffAll s else s
  let p := psOf s ps
  let lead := decide (psDevice s p [0, 0, 0] = myId s)
  match v.1 with
  | 0 => objSet (s.onColl fun e => { e with reexchange := false }) 0x4110 7 s.cnt.step.toNat
  | 1 =>
    let s := if missing || lead || s.coll.lateL then sendTocsin s 1 ps 0 else s
    let s := announceRepeat (clearVote (objAdd s 0x7310 0xA 1))
    (s.onColl fun e => { e with attempt := e.attempt + 1, repeats := e.repeats + 1, reexchange := false }).onCnt
      fun k => { k with repeatPending := true }
  | 2 =>
    (clearVote (objAdd s 0x7310 0xB 1)).onColl fun e => { e with attempt := e.attempt + 1, reexchange := true, early := [] }
  | _ => failVerdict (if missing then sendTocsin s 1 ps 0 else s)

/-- VOTE_COMMIT: at the beat OB + DL + TB. -/
def voteCommit (s : State) (tag : BitVec 6) : State :=
  match collOf s tag fun c => decide (kOp c.desc = 2) && voteReduced s c with
  | none => s
  | some c =>
    let word := (c.items.headD 0).toNat
    let dl := if kDl c.desc = 0 then objGet s 0x2341 3 else kDl c.desc
    if s.fab.beat.count.toNat < word % 2 ^ 48 + dl + objGet s 0x2341 4 then s else commitVote s c word false

/-- COLLECTIVE_DEADLINE (12 R332, R334): a collective ends late, and a vote without its reduced word commits repeat. -/
def passDeadline (s : State) (tag : BitVec 6) : State :=
  match collOf s tag fun c => c.isOpen && decide (deadlineOf s c ≤ s.fab.beat.count.toNat) with
  | none => s
  | some c =>
    let p := psOf s (kPs c.desc)
    let mine := (myIndex s p).getD []
    if kOp c.desc = 2 ∧ voteReduced s c = true then s
    else
      let t := collMissing s p mine c 6 (myId s) []
      if kOp c.desc = 2 then commitVote t c (voteSoFar p c) true else t

/-- A flit of a collective has found its destination dark: the collective ends in cause 06h at once (12 R332). A vote that ends so has no
reduced word, and its verdict is repeat (R334; DEDUCED, log entry 114). -/
def loseColl (s : State) (f : Flit) : State :=
  let h := headOf f
  match s.coll.held.find? fun c => decide (kBid c.desc = field h 86 71 ∧ kPs c.desc = field h 51 48) && c.running
      && (planOf (psOf s (kPs c.desc)) c.desc).any fun ph => decide (ph.1 = field h 47 45 ∧ ph.2.1 = field h 44 43) with
  | none => s
  | some c =>
    if field h 70 55 ≠ s.cnt.step.toNat % 65536 ∨ field h 54 52 ≠ s.coll.attempt.toNat % 8 then s
    else
      let p := psOf s (kPs c.desc)
      let word := voteSoFar p c
      let s := collMissing s p ((myIndex s p).getD []) c 6 (field h 127 114) []
      if kOp c.desc = 2 then commitVote s c word true else s

/-- A repeat tocsin (12 R334, R337): for an attempt that this device has committed as proceed the verdict is divergent; before the commit of
its attempt it makes the verdict repeat. -/
def repeatTocsin (s : State) (ps step att : Nat) : State :=
  if s.coll.committed.any fun x => decide (x.1 % 65536 = step ∧ x.2.1 = att ∧ x.2.2 = ps) then
    let s := fileToll s { tollOf 0x51 3 0 with flags := 8 }
    (sendTocsin s 3 ps 0x51).onCnt fun c => { c with stopAtMark := true }
  else if step = s.cnt.step.toNat % 65536 ∧ att = s.coll.attempt.toNat % 8 then
    s.onColl fun e => { e with tocsin := e.tocsin ++ [ps] }
  else s

/-- Set L in the device's next close vote, if the vote of the attempt is not yet committed (13 R364). A vote that has begun takes L into its
word, and so into the device's verdict; its peers may have the word without it, so that the commit sends a repeat tocsin (DESIGN CHOICE, log
entry 134). -/
def setVoteL (s : State) : State :=
  if s.coll.committed.any fun x => decide (x.1 = s.cnt.step.toNat ∧ x.2.1 = s.coll.attempt.toNat % 8) then s
  else
    let begun := fun (c : Coll) => decide (kOp c.desc = 2) && c.running
    let mark := fun (c : Coll) => if begun c then { c with items := c.items.map fun w => (mergeVote w.toNat (2 ^ 80) : Int) } else c
    s.onColl fun e => { e with voteL := true, lateL := e.lateL || e.held.any begun, held := e.held.map mark }

/-- A step count that advances: attempt 0, no repeats yet, the vote's flags, CLNFL and the phases' messages cleared (12 R334,
Table 12-6). -/
def stepExchange (s : State) : State :=
  let s := (clearVote s).onColl fun e => { e with attempt := 0, repeats := 0, reexchange := false, early := [] }
  s.onCtl fun k => { k with clnfl := 0 }

/-- The MARK to angle 0 closes every phase but 0 (12 R316). -/
def closePhases (s : State) : State := s.onColl fun e => { e with phases := [] }

/-- The OP whose messages have a PK (12 Table 12-4). -/
def opOfPk (pk : Nat) : Nat := if pk < 3 then 0 else if pk = 3 then 1 else 2

/-- Whether a flit that waits at a port is of a collective of a tag. -/
def flitOfTag (s : State) (tag : BitVec 6) (q : Queued) : Bool :=
  let h := headOf q.flit
  decide (q.origin = 8) && decide (field h 94 91 = 2)
    && s.coll.held.any fun c => decide (c.tag = tag)
      && decide (kBid c.desc = field h 86 71 ∧ kPs c.desc = field h 51 48 ∧ kOp c.desc = opOfPk (field h 47 45))

/-- Whether a collective has a message, or a vote its reduced word, still to come. One that has not begun has them all. -/
def expectsMsg (s : State) (c : Coll) : Bool :=
  let n := (planOf (psOf s (kPs c.desc)) c.desc).length
  if c.running then decide (c.phase < n) else decide (0 < n) || decide (kOp c.desc = 2)

/-- The stall cause of a clk that CLW holds (12 R339): link credit while flits of the tag wait for credit; peer wait while an expected message
or the vote's reduced word is missing, of a collective that is queued too, and nothing of the tag waits to be sent; else transfer. -/
def clwCause (s : State) (tag : BitVec 6) : Nat :=
  let waits := (List.range 8).map fun k => ((portGet s k).queue.filter (flitOfTag s tag)).map fun q => hasCredit (portGet s k) q.flit
  let expects := (s.coll.held.any fun c => decide (c.tag = tag) && expectsMsg s c) || s.coll.queue.any fun q => decide (q.2.1 = tag)
  if (waits.flatMap id).any (fun b => !b) then 7
  else if (waits.flatMap id).isEmpty && expects then 9
  else 0xB

end Sys2Proof.Machine
end

