-- ==== Sys2Proof/Machine/Reliab.lean ====
section
/-! DEFINITION. Reliability: received tocsins, the patrol scrubber, corrections, suspects, comparisons, the ledger,
retirement, peals and spot checks (13 R343 to R369). -/

namespace Sys2Proof.Machine

/-! ### Tocsins (13 R354) -/

/-- A tocsin arrives on a port: a new one is forwarded on every other ACTIVE Shuaskol port, raises interrupt 10h and signals vector 7
(17 Table 17-6); a repeat tocsin also reaches the vote. -/
def receiveTocsin (s : State) (port src : Nat) (ts : BitVec 87) : State :=
  let tseq : W32 := BitVec.ofNat 32 (field ts 59 28)
  let pair := (BitVec.ofNat 14 src, tseq)
  if s.rel.tocsins.contains pair then s
  else
    let s := s.onRel fun r => { r with tocsins := takeLast 1024 (r.tocsins ++ [pair]) }
    let s := signal (raiseInt (forwardTocsin s src ts.toNat port) 0x10) 7
    if field ts 86 83 = 1 then repeatTocsin s (field ts 82 79) (field ts 78 63) (field ts 62 60) else s

/-! ### Scrubbing and write-back (13 R343, R345) -/

/-- Words of scratch. -/
def nearWords : Nat := 160 * 2 ^ 20

/-- The populated words of clay and marl, die by die. -/
def farSpans (s : State) : List (Nat × Nat) :=
  [(0, objGet s 0x2201 1 / 16), (0x10000000000, objGet s 0x2201 2 / 16), (0x20000000000, objGet s 0x2204 1 / 16),
   (0x30000000000, objGet s 0x2204 2 / 16)]

/-- The address of populated word n. -/
def farWord (l : List (Nat × Nat)) (n : Nat) : Option Nat :=
  match l with
  | [] => none
  | (base, cnt) :: r => if n < cnt then some (base + 16 * n) else farWord r (n - cnt)

/-- The address of word n of scratch and then of the lines that the caches hold. -/
def nearWord (s : State) (n : Nat) : Nat :=
  if n < nearWords then scratchBase + 16 * n
  else 128 * ((s.cache.map (·.1)).getD ((n - nearWords) / 8) 0) + 16 * ((n - nearWords) % 8)

/-- A scrub read of an address: it decodes as any read (13 R342), by the scrubber. -/
def scrubAt (s : State) (a : Nat) : State :=
  if !(hasTarget s a) then s
  else
    let w := a / 16
    let fresh := match markGet s w with
      | .corrected _ _ => !(s.rel.fixes.contains w)
      | _ => false
    let s := if fresh then objAdd s 0x7410 4 1 else s
    (decodeWord s w 1).1

/-- The next word of scratch and the caches, or of clay and marl. -/
def patrolScrub (s : State) (far : Bool) : State :=
  if far then
    let total := ((farSpans s).map (·.2)).sum
    let n := if total = 0 then 0 else s.rel.scrubFar % total
    let s := s.onRel fun r => { r with scrubFar := n + 1 }
    match farWord (farSpans s) n with
    | some a => scrubAt s a
    | none => s
  else
    let n := s.rel.scrubNear % (nearWords + 8 * s.cache.length)
    scrubAt (s.onRel fun r => { r with scrubNear := n + 1 }) (nearWord s n)

/-- The write-back of a corrected word lands. -/
def writeBack (s : State) (a : Nat) : State :=
  let w := a / 16
  if s.rel.fixes.contains w then
    match markGet s w with
    | .corrected _ _ => (setMark s w .good).onRel fun r => { r with fixes := r.fixes.erase w }
    | _ => s.onRel fun r => { r with fixes := r.fixes.erase w }
  else s

/-- The 2^20 beats of a unit run out: a summary, if corrections were counted (13 R352). -/
def summaryExpiry (s : State) (ucls : BitVec 8) (unit : BitVec 16) : State :=
  match s.rel.reports.find? fun r => decide (r.ucls = ucls ∧ r.unit = unit) with
  | none => s
  | some rep =>
    if rep.count = 0 ∨ s.fab.beat.count.toNat < rep.beat.toNat + 2 ^ 20 then s
    else
      let s := summaryToll s rep
      let clear := fun (r : UnitRep) => if r.ucls = ucls ∧ r.unit = unit then { r with count := 0, distinct := [] } else r
      s.onRel fun r => { r with reports := r.reports.map clear }

/-! ### The ledger (13 R359) -/

/-- Write a ledger entry for the record filed last: kind 0 transient, 1 permanent, 2 retired, 3 repaired. -/
def ledgerAdd (s : State) (ucls : BitVec 8) (unit type : BitVec 16) (kind : Nat) : State :=
  let e : LedgerEnt :=
    { utc := BitVec.ofNat 64 (objGet s 0x4020 1), ucls := ucls, unit := unit, type := type, seqNo := ((s.rel.ring ++ s.rel.waiting).getLast?.map fun r => r.seqNo).getD 0,
      kind := BitVec.ofNat 8 kind }
  s.onRel fun r => { r with ledger :=
    if r.ledger.length < 65536 then r.ledger ++ [e]
    else match r.ledger.findIdx? fun x => decide (x.kind = 0) with
      | some i => r.ledger.eraseIdx i ++ [e]
      | none => r.ledger }

/-- Whether a unit's transient entries call for its retirement: the third falls within 30 days of the first (13 R360). -/
def thirdTransient (s : State) (ucls : BitVec 8) (unit : BitVec 16) : Bool :=
  let ts := (s.rel.ledger.filter fun e => decide (e.ucls = ucls ∧ e.unit = unit ∧ e.kind = 0 ∧ e.utc ≠ 0)).map
    fun e => e.utc.toNat
  match ts.reverse with
  | t3 :: _ :: t1 :: _ => decide (t3 ≤ t1 + 30 * 86400)
  | _ => false

/-! ### Spares and retirement (13 R360 to R363) -/

/-- The physical slices that a quarter's logical slices use. -/
def mappedIn (s : State) (q : Nat) : List Nat := (List.range 20).map fun i => physSlice s (20 * q + i)

/-- Whether the ledger names a unit as retired. -/
def retiredUnit (s : State) (ucls : BitVec 8) (unit : BitVec 16) : Bool :=
  s.rel.ledger.any fun e => decide (e.ucls = ucls ∧ e.unit = unit ∧ e.kind = 2)

/-- The quarter's unmapped physical slice, if it is not retired. -/
def spareSlice (s : State) (q : Nat) : Option Nat :=
  ((List.range 21).map (21 * q + ·)).find? fun p =>
    !((mappedIn s q).contains p) && !(retiredUnit s 1 (BitVec.ofNat 16 p))

/-- The logical slice that a physical slice serves. -/
def logicalOf (s : State) (p : Nat) : Option Nat :=
  ((List.range 20).map fun i => 20 * (p / 21) + i).find? fun l => decide (physSlice s l = p)

/-- The physical lanes of a port that are free spares. -/
def spareLanes (p : Port) : List Nat :=
  [16, 17].filter fun l => !(p.retired.contains l) && !(p.laneMap.any fun m => decide (m.2 = l))

/-- The logical lane that a physical lane serves. -/
def laneOf (p : Port) (phys : Nat) : Option Nat := (List.range 16).find? fun k => decide (storeGet k p.laneMap k = phys)

/-- The kind of the ledger entry of a finished retirement: a scratch bank and a pseudo-channel, of which one row has been replaced, are
repaired and stay in service; every other unit is retired (13 R359, R361; DEDUCED, log entry 119). -/
def swapKind (ucls : BitVec 8) : Nat := if ucls = 4 ∨ ucls = 6 then 3 else 2

/-- The rows of a scratch bank or pseudo-channel that have been replaced. -/
def retiredCount (s : State) (ucls : BitVec 8) (p : Nat → Bool) : Nat :=
  (s.rel.ledger.filter fun e => decide (e.ucls = ucls ∧ e.kind.toNat = swapKind ucls) && p e.unit.toNat).length

/-- A field of an array's repair map, and the map with one more retired row or column (06 Table 6-11, object 2011h). -/
def arrayRetire (m : Nat) (col : Bool) (n : Nat) : Option Nat :=
  let sh := if col then 8 else 24
  let f := fun (k : Nat) => m / 2 ^ k % 256
  let put := fun (k : Nat) => m - f k * 2 ^ k + n * 2 ^ k
  if f sh = 0xFF then some (put sh) else if f (sh - 8) = 0xFF then some (put (sh - 8)) else none

/-- The device leaves: record 0024h, service required, the stream stops at the next MARK to angle 0, a tocsin of kind 5h, and
the damped state is asked for (13 R362). -/
def deviceLeaves (s : State) (ucls : BitVec 8) (unit : BitVec 16) : State :=
  let s := fileToll s { tollOf 0x24 3 0 with ucls := ucls, unit := unit, flags := 9 }
  let s := objSet s 0x4000 7 1
  let s := sendTocsin s 5 0 0x24
  let s := if s.seq.running then s.onCnt fun c => { c with stopAtMark := true } else s
  settleViews (objSet s 0x3000 1 (max (objGet s 0x3000 1) 1)) 0x3000 1

/-- A follow ends, and the beat planned for its switch with it. -/
def endFollow (f : Follow) (r : Rel) : Rel :=
  { r with
    follows := r.follows.erase f
    plans := match r.plans.find? fun x => decide (x.1 = f) with
      | some x => r.plans.erase x
      | none => r.plans }

/-- The lanes of a port in service: generation 1 never uses the spares (11 R278, R281). -/
def lanesLeft (p : Port) : Nat :=
  if p.gen = 1 then 16 - (p.retired.filter fun l => decide (l < 16)).length else 18 - p.retired.length

/-- A port that has lost a lane without a spare retrains at half width; with fewer than 8 lanes it fails (11 R281). One that is OFF or DARK
comes up so. -/
def retrainHalf (s : State) (k : Nat) : State :=
  let p := portGet s k
  match p.st with
  | .off | .dark | .failed => portSet s k { p with half := true }
  | _ =>
    if lanesLeft p < 8 then
      let s := if p.st = .active then leaveActive s k .failed else s
      portSet s k { portGet s k with st := .failed, half := true }
    else
      let s := if p.st = .active then leaveActive s k .retrain else s
      portSet (objAdd s 0x7300 4 1) k { portGet s k with st := .retrain, step := 1, half := true }

/-- The record of a retirement that begins, with the beat of its switch, and its count (13 Table 13-5). -/
def retireToll (s : State) (ucls : BitVec 8) (unit : BitVec 16) (beat flags : Nat) : State :=
  objAdd (fileToll s { tollOf 0x22 1 beat with ucls := ucls, unit := unit, flags := BitVec.ofNat 8 flags }) 0x7410 8 1

/-- A lane out of service without a swap: the ledger keeps its retirement (13 R359, R360). -/
def laneLedger (s : State) (k phys : Nat) : State := ledgerAdd s 8 (BitVec.ofNat 16 (k * 18 + phys)) 0x22 2

/-- A lane leaves service without a swap: its record where it has none yet, its ledger entry, and the port at half width if the lane carried
a logical one (11 R281). -/
def laneOut (s : State) (k phys : Nat) (filed : Bool) : State :=
  let unit : BitVec 16 := BitVec.ofNat 16 (k * 18 + phys)
  let s := laneLedger (if filed then s else retireToll s 8 unit s.fab.beat.count.toNat 0x11) k phys
  let p := portGet s k
  let used := (laneOf p phys).isSome
  let s := portSet s k { p with retired := if p.retired.contains phys then p.retired else p.retired ++ [phys] }
  if used then retrainHalf s k else s

/-- The retirement of a lane that a port follows next begins its swap, unless one is under way (13 R363, 11 R280); without a spare, at half
width or at generation 1 the lane leaves service instead. -/
def nextSwap (s : State) (k : Nat) : State :=
  let p := portGet s k
  if p.swap.isSome then s
  else
    match s.rel.follows.find? fun f => decide (f.ucls = 8 ∧ f.unit.toNat / 18 = k) with
    | none => s
    | some f =>
      let phys := f.unit.toNat % 18
      let out := fun (s : State) => laneOut (s.onRel (endFollow f)) k phys true
      match laneOf p phys, spareLanes p with
      | some l, sp :: _ =>
        if p.gen = 1 ∨ p.half then out s
        else
          let s := portSet s k { p with swap := some (l, sp), agreed := false }
          if p.st = .active then openFrame s k false [.laneSwap l sp] else s
      | _, _ => out s

/-- The retirement of a lane (11 R280, R281; 13 R362). -/
def retireLane (s : State) (u : Nat) (start : State → State) : State :=
  let k := u / 18
  let p := portGet s k
  if p.retired.contains (u % 18) then s
  else if p.swap.isNone && ((laneOf p (u % 18)).isNone || (spareLanes p).isEmpty || decide (p.gen = 1) || p.half) then laneOut s k (u % 18) false
  else nextSwap (start s) k

/-- Whether a unit's retirement is under way: of a scratch bank or pseudo-channel, that of every row that stands for it. -/
def retiring (s : State) (ucls : BitVec 8) (unit : BitVec 16) : Bool :=
  let n := s.rel.follows.countP fun f => decide (f.ucls = ucls ∧ f.unit = unit)
  let rows := s.rel.rows.countP fun r => decide (r.1 = ucls ∧ r.2.1 = unit)
  decide (0 < n) && (decide (ucls ≠ 4 ∧ ucls ≠ 6) || decide (rows ≤ n))

/-- Retirement of a unit begins (13 R361, R362): the record, which names the beat that the steward plans for the switch, and the follow; or
what R362 says where no spare is left. The planned beat is a free value after this one, and of a lane the next boundary (DESIGN
CHOICE, log entry 133). -/
def beginRetirement (s : State) (ucls : BitVec 8) (unit : BitVec 16) : State :=
  if retiring s ucls unit then s
  else
    let u := unit.toNat
    let start := fun (s : State) =>
      let (v, s) := freshFree s
      let beat : BitVec 48 := s.fab.beat.count + 1 + (if ucls = 8 then 0 else BitVec.ofNat 48 (v.toNat % 2 ^ 16))
      let f : Follow := ⟨ucls, unit⟩
      assignSpares ((retireToll s ucls unit beat.toNat 1).onRel fun r => { r with
        follows := r.follows ++ [f], plans := r.plans ++ [(f, beat)] })
    let sliceGone := fun (s : State) (p : Nat) =>
      match spareSlice s (p / 21) with
      | some _ =>
        let g : Follow := ⟨1, BitVec.ofNat 16 p⟩
        let now := fun (f : Follow) => if f.ucls = ucls ∧ f.unit = unit then g else f
        (start s).onRel fun r => { r with follows := r.follows.map now, plans := r.plans.map fun x => (now x.1, x.2) }
      | none => deviceLeaves s 1 (BitVec.ofNat 16 p)
    match ucls.toNat with
    | 1 => sliceGone s u
    | 2 | 3 =>
      match arrayRetire (objGet s 0x2011 (u / 256 + 1)) (decide (ucls = 3)) (u % 256) with
      | some _ => start s
      | none => sliceGone s (u / 256)
    | 4 => if retiredCount s 4 (fun x => decide (x = u)) < 8 then start s else sliceGone s (u / 32)
    | 6 =>
      if retiredCount s 6 (fun x => decide (x = u)) < 4 then start s
      else fileToll s { tollOf 0x24 3 0 with ucls := ucls, unit := unit, flags := 1 }
    | 8 => retireLane s u start
    | 5 | 0xA | 0xB | 0xC => deviceLeaves s ucls unit
    | _ => fileToll s { tollOf 0x24 3 0 with ucls := ucls, unit := unit, flags := 1 }

/-- A unit that is cleared: the row that made it a suspect stands for it no longer. -/
def dropRow (ucls : BitVec 8) (unit : BitVec 16) (r : Rel) : Rel :=
  match r.rows.find? fun x => decide (x.1 = ucls ∧ x.2.1 = unit) with
  | some x => { r with rows := r.rows.erase x }
  | none => r

/-- The row of a unit that its finished repair has replaced: the first that stands for it; a clay row's repair is soft until its domain goes
down (13 Table 13-7). -/
def replaceRow (ucls : BitVec 8) (unit : BitVec 16) (r : Rel) : Rel :=
  match r.rows.find? fun x => decide (x.1 = ucls ∧ x.2.1 = unit) with
  | some x => { r with rows := r.rows.erase x, replaced := r.replaced ++ [(x.1, x.2.1, x.2.2, false)] }
  | none => r

/-- The record and ledger entry of a finished swap, at the boundary's count; the drain check's recovery selection is armed (09
R224). -/
def swapDone (s : State) (ucls : BitVec 8) (unit : BitVec 16) : State :=
  let s := fileToll s { tollOf 0x23 1 s.fab.beat.count.toNat with ucls := ucls, unit := unit, flags := 0x11 }
  let s := ledgerAdd (objAdd s 0x7410 9 1) ucls unit 0x23 (swapKind ucls)
  let s := s.onCnt fun c => { c with recoveryArm := true }
  assignSpares (s.onRel fun r => replaceRow ucls unit (endFollow ⟨ucls, unit⟩ r))

/-- The place of a follow: one at a time in a quarter, port or pseudo-channel (13 R363). -/
def followPlace (f : Follow) : Nat × Nat :=
  let u := f.unit.toNat
  match f.ucls.toNat with
  | 1 => (1, u / 21)
  | 2 | 3 => (1, u / 256 / 21)
  | 4 => (1, u / 32 / 21)
  | 8 => (8, u / 18)
  | c => (c, u)

/-- Whether no earlier follow in the same place is still to switch. -/
def firstFollow (s : State) (f : Follow) : Bool :=
  match s.rel.follows.find? fun g => decide (followPlace g = followPlace f) with
  | some g => decide (g = f)
  | none => false

/-- A follow that waited for an earlier switch in its place begins in earnest: where that switch has taken the last spare, what 13 R362
gives for want of one happens instead (R363). -/
def resumeFollow (s : State) (f : Follow) : State :=
  let u := f.unit.toNat
  let drop := fun (s : State) => s.onRel (endFollow f)
  let sliceGone := fun (s : State) (p : Nat) =>
    match spareSlice s (p / 21) with
    | some _ => s.onRel fun r => { r with follows := r.follows.erase ⟨1, BitVec.ofNat 16 p⟩ ++ [⟨1, BitVec.ofNat 16 p⟩] }
    | none => deviceLeaves s 1 (BitVec.ofNat 16 p)
  match f.ucls.toNat with
  | 1 => if (spareSlice s (u / 21)).isSome then s else deviceLeaves (drop s) 1 f.unit
  | 2 | 3 =>
    if (arrayRetire (objGet s 0x2011 (u / 256 + 1)) (decide (f.ucls = 3)) (u % 256)).isSome then s else sliceGone (drop s) (u / 256)
  | 4 => if retiredCount s 4 (fun x => decide (x = u)) < 8 then s else sliceGone (drop s) (u / 32)
  | _ => s

/-- Whether the current clk is one in which the running beat has had its boundary (11 R294). -/
def atBeat (s : State) : Bool :=
  s.fab.beat.gen && !s.fab.beat.waiting && domOn s 1 && decide (s.fab.beat.boundary = realClk s)

/-- The switch of a follow whose turn it is. -/
def switchUnit (s : State) (ucls : BitVec 8) (unit : BitVec 16) : State :=
  let u := unit.toNat
  match ucls.toNat with
  | 1 =>
    match logicalOf s u, spareSlice s (u / 21) with
    | some l, some sp =>
      swapDone (s.onRel fun r => { r with sliceMap := storeSet (l / 20 * 21 + l % 20) r.sliceMap l sp }) ucls unit
    | none, _ => swapDone s ucls unit
    | some _, none => s
  | 2 | 3 =>
    match arrayRetire (objGet s 0x2011 (u / 256 + 1)) (decide (ucls = 3)) (u % 256) with
    | some m =>
      swapDone ((objSet s 0x2011 (u / 256 + 1) m).onRel fun r => { r with trailed := r.trailed.filter fun x => decide (x.1 ≠ ⟨ucls, unit⟩) }) ucls unit
    | none => s
  | 8 => s
  | _ => swapDone s ucls unit

/-- Whether the follow of a unit is complete: an array's spare has followed through a load or take-up (06 R160). -/
def followed (s : State) (f : Follow) : Bool :=
  !(decide (f.ucls = 2 ∨ f.ucls = 3)) || s.rel.trailed.contains (f, none)

/-- The beat for which the switch of a follow is planned. -/
def plannedAt (s : State) (f : Follow) : Nat :=
  match s.rel.plans.find? fun x => decide (x.1 = f) with
  | some x => x.2.toNat
  | none => 0

/-- RETIREMENT_SWITCH at a beat boundary after the follow (13 R361, 01 R18, 06 R160); the retirements that waited for it then begin. A
lane switches at its frame instead (DESIGN CHOICE, log entry 57). -/
def retireSwitch (s : State) (ucls : BitVec 8) (unit : BitVec 16) : State :=
  let f : Follow := ⟨ucls, unit⟩
  if firstFollow s f && followed s f && atBeat s && decide (plannedAt s f ≤ s.fab.beat.count.toNat) then
    let s := switchUnit s ucls unit
    (s.rel.follows.filter fun g => decide (followPlace g = followPlace f)).foldl resumeFollow s
  else s

/-- LANE_SWAP_SWITCH at frame F, which begins at or after the boundary that both ends have agreed on (11 R280): the logical lane moves onto its
spare. The end that retired the lane records the swap, and the port's next retirement begins. -/
def laneSwitch (s : State) (k : Nat) : State :=
  let p := portGet s k
  match p.swap with
  | none => s
  | some (l, sp) =>
    if p.agreed = false ∨ s.fab.beat.count.toNat < p.swapAt.toNat then s
    else
      let old := storeGet l p.laneMap l
      let unit : BitVec 16 := BitVec.ofNat 16 (k * 18 + old)
      let s := portSet s k { p with
        swap := none, agreed := false, laneMap := storeSet l p.laneMap l sp,
        retired := if p.retired.contains old then p.retired else p.retired ++ [old] }
      let s := objAdd s 0x7300 5 1
      nextSwap (if s.rel.follows.any fun f => decide (f.ucls = 8 ∧ f.unit = unit) then swapDone s 8 unit else s) k

/-! ### Comparisons (13 R357, R358, R364) -/

/-- How a class is repeated (13 Table 13-6). -/
def repeatHow (ucls : BitVec 8) : Nat :=
  if ucls.toNat ≤ 4 then 1 else if ucls = 0xB then 2 else if ucls = 6 ∨ ucls = 7 then 3 else if ucls = 8 then 4 else 0

/-- The spare that a suspect is compared with. -/
def spareOf (s : State) (ucls : BitVec 8) (unit : BitVec 16) : Option (BitVec 8 × BitVec 16) :=
  let u := unit.toNat
  let sl := fun (p : Nat) => (spareSlice s (p / 21)).map fun x => ((1 : BitVec 8), BitVec.ofNat 16 x)
  match ucls.toNat with
  | 1 => sl u
  | 2 | 3 => sl (u / 256)
  | 4 => sl (u / 32)
  | 0xB => some (0xB, 1 - unit)
  | 8 => match spareLanes (portGet s (u / 18)) with
    | l :: _ => some (8, BitVec.ofNat 16 (u / 18 * 18 + l))
    | [] => none
  | _ => none

/-- The suspect whose comparison runs: a lane at any time, another unit only inside peal 0 (13 R357). -/
def comparable (s : State) : Option (BitVec 8 × BitVec 16) :=
  let inPeal := match s.rel.running with
    | some (n, _) => decide (n = 0)
    | none => false
  s.rel.suspects.find? fun u => decide (u.1 = 8) || inPeal

/-- Record 0020h or 0021h with its ledger entry. -/
def comparisonToll (s : State) (u : BitVec 8 × BitVec 16) (type kind : Nat) : State :=
  ledgerAdd (fileToll s { tollOf type 2 (repeatHow u.1) with ucls := u.1, unit := u.2, flags := 0x11 }) u.1 u.2
    (BitVec.ofNat 16 type) kind

/-- COMPARISON_COMPLETE (DEDUCED, log entry 58). -/
def compareDone (s : State) (outcome : Comparison) : State :=
  match comparable s with
  | none => s
  | some u =>
    let drop := fun (s : State) => s.onRel fun r => { r with suspects := r.suspects.erase u }
    match outcome with
    | .transient =>
      let s := comparisonToll (objAdd ((drop s).onRel (dropRow u.1 u.2)) 0x7410 6 1) u 0x20 0
      if thirdTransient s u.1 u.2 then beginRetirement s u.1 u.2
      else assignSpares s
    | .permanent =>
      let s := comparisonToll (objAdd (drop s) 0x7410 7 1) u 0x21 1
      let s := if u.1 = 1 ∨ u.1 = 2 ∨ u.1 = 3 ∨ u.1 = 0xB then setVoteL s else s
      beginRetirement s u.1 u.2
    | .spareSuspect =>
      match spareOf s u.1 u.2 with
      | some v => addSuspect s v.1.toNat v.2.toNat
      | none => s

/-! ### Peals (13 R365 to R367) -/

/-- The record of a peal's end: outcome 0 passed, 1 failed, 2 incomplete, 3 not run (DEDUCED, log entry 56). -/
def pealToll (s : State) (num : BitVec 16) (passed failed : BitVec 16) (outcome : Nat) : State :=
  fileToll s (tollOf 0x30 (if outcome = 1 then 2 else 0)
    (num.toNat + passed.toNat * 2 ^ 16 + failed.toNat * 2 ^ 32 + outcome * 2 ^ 48))

/-- A peal cue fires (13 R366). -/
def firePeal (s : State) (num w : Nat) : State :=
  let n : BitVec 16 := BitVec.ofNat 16 num
  let dur := (s.rel.peals.find? fun p => decide (p.num = n)).map fun p => p.dur.toNat
  let (v, s) := freshFree s
  -- peal 0 has no printed DUR: a window of its own length is a free value (DESIGN CHOICE, log entry 55)
  let window := if w ≠ 0 then w else if num = 0 then v.toNat % 2 ^ 32 else dur.getD 0
  let ok := (decide (num = 0) || dur.isSome) && (decide (num = 0) || decide (dur.getD 0 ≤ window)) && s.rel.running.isNone
  if ok then s.onRel fun r => { r with running := some (n, s.fab.beat.count + BitVec.ofNat 48 window) }
  else pealToll s n 0 0 3

/-- PEAL_COMPLETE. -/
def pealDone (s : State) (passed failed : BitVec 16) (bad : List (BitVec 8 × BitVec 16)) : State :=
  match s.rel.running with
  | none => s
  | some (n, _) =>
    let s := (objAdd s 0x7410 0xA 1).onRel fun r => { r with running := none }
    let s := pealToll s n passed failed (if failed = 0 then 0 else 1)
    if failed = 0 then s else bad.foldl (fun s u => addSuspect s u.1.toNat u.2.toNat) s

/-- PEAL_WINDOW_EXPIRY: the peal is abandoned as incomplete. -/
def pealExpire (s : State) : State :=
  match s.rel.running with
  | none => s
  | some (n, e) =>
    if s.fab.beat.count.toNat < e.toNat then s
    else pealToll ((objAdd s 0x7410 0xA 1).onRel fun r => { r with running := none }) n 0 0 2

/-- Whether the running peal needs active slices (DEDUCED, log entry 55). -/
def pealNeedsSlices (s : State) : Bool :=
  match s.rel.running with
  | none => false
  | some (n, _) =>
    if n = 0 then s.rel.suspects.any fun u => decide (1 ≤ u.1.toNat ∧ u.1.toNat ≤ 4)
    else match s.rel.peals.find? fun p => decide (p.num = n) with
      | some p => bit p.flags 0
      | none => false

/-- The logical slices under test: of peal 0 those of its suspects; of another peal that needs active slices, any (DEDUCED, log entry
55). -/
def underTest (s : State) : List Nat :=
  match s.rel.running with
  | none => []
  | some (n, _) =>
    if n ≠ 0 then (if pealNeedsSlices s then List.range 160 else [])
    else
      (s.rel.suspects.filterMap fun u =>
        let x := u.2.toNat
        match u.1.toNat with
        | 1 => some x
        | 2 | 3 => some (x / 256)
        | 4 => some (x / 32)
        | _ => none).filterMap (logicalOf s)

/-- Operations reach slices under test, each by its number: the peal is abandoned, record 0025h is filed, L is set, and what the slices hold is
kept, to be put back over each one's results (13 R366). -/
def pealBroken (s : State) (hits : List (Nat × List Nat)) : State :=
  let hits := hits.filter fun h => !h.2.isEmpty
  match s.rel.running with
  | none => s
  | some (n, _) =>
    if hits.isEmpty then s
    else setVoteL (fileToll (s.onRel fun r => { r with
      running := none, undo := r.undo ++ hits.map fun h => (h.1, h.2, s.tiles, s.elem) }) (tollOf 0x25 2 n.toNat))

/-- An operation that reaches slices is about to issue: where one of them is under test, the peal is abandoned, record 0025h is filed, L is
set, and what the slices hold is kept, to be put back over the operation's results (13 R366). -/
def pealViolated (s : State) (reach : List Nat) : State := pealBroken s [(s.cnt.op, (underTest s).filter fun sl => reach.contains sl)]

/-- The slices whose state a piece of work reads or changes. -/
def microReach (s : State) (m : Micro) : List Nat :=
  match m with
  | .rowRead m _ | .rowLand m _ _ _ => [m.slice]
  | .prodBlock op | .prodRow op _ _ | .prodLand op _ | .prodDone op =>
    (s.tiles.prods.filter fun p => decide (p.op = op)).flatMap fun p => members p.cfgA.mask
  | .drainLand slice _ _ | .gathRead _ slice _ _ | .table slice _ _ _ => [slice]
  | .mvmStart j | .mvmLand j _ => j.vec.map (·.1)
  | .setL vals => (vals.map fun v => v.1 / 4096).eraseDups
  | .veRead j => j.lanes.map fun l => l.slice
  | .veMem m | .veLoad m _ | .veIndex m _ | .gathLand m => m.lanes.map fun l => l.slice
  | .veIssue v => members v.mask
  | .setX _ _ | .setF _ _ | .setVec _ _ _ | .access _ | .read _ _ | .store _ _ | .tcfg _ _ _ _ | .storeMarked _ | .scaleAdvance _ _ => []

/-- Operations in flight that reach a slice under test: those that were when the peal fired, and resumed and replayed ones (13 R366). -/
def pealMeets (s : State) : State :=
  match s.rel.running with
  | none => s
  | some _ =>
    let test := underTest s
    let hits := s.work.map fun w => (w.op, (microReach s w.act).filter fun sl => test.contains sl)
    pealBroken s ((hits.map (·.1)).eraseDups.map fun op => (op, (hits.filter fun h => decide (h.1 = op)).flatMap (·.2)))

/-- The entries of some slices from one store, all others from another; n keys belong to a slice. -/
def mixStore {α : Type} [DecidableEq α] (d : α) (n : Nat) (sl : List Nat) (src dst : Store α) : Store α :=
  (storeFilter (fun k => sl.contains (k / n)) src).foldl (fun m e => storeSet d m e.1 e.2)
    (storeFilter (fun k => !(sl.contains (k / n))) dst)

/-- The stores of 13 R361 of some slices put back: fragments, block scales, banks, weights, tile-progress records and bindings. -/
def putBackTiles (sl : List Nat) (old new : Tiles) : Tiles :=
  { new with
    frag := mixStore 0 262144 sl old.frag new.frag, fragMark := mixStore .good 16384 sl old.fragMark new.fragMark,
    bscale := mixStore 0 16384 sl old.bscale new.bscale, bscaleMark := mixStore .good 1024 sl old.bscaleMark new.bscaleMark,
    bank := mixStore 0 131072 sl old.bank new.bank, bankMark := mixStore .good 32768 sl old.bankMark new.bankMark,
    recs := mixStore ⟨0, 0, 0⟩ 24 sl old.recs new.recs, recMeta := mixStore (0, 0) 24 sl old.recMeta new.recMeta,
    active := mixStore 0 1 sl old.active new.active, shadow := mixStore 0 1 sl old.shadow new.shadow,
    activeVals := mixStore 0 131072 sl old.activeVals new.activeVals, activeBad := mixStore false 131072 sl old.activeBad new.activeBad,
    shadowVals := mixStore 0 131072 sl old.shadowVals new.shadowVals, shadowBad := mixStore false 131072 sl old.shadowBad new.shadowBad }

/-- The L registers and function tables of some slices put back. -/
def putBackElem (sl : List Nat) (old new : Elem) : Elem :=
  { new with
    l := mixStore 0 4096 sl old.l new.l, lMark := mixStore .good 1024 sl old.lMark new.lMark,
    table := mixStore 0 53248 sl old.table new.table, tableMark := mixStore .good 3328 sl old.tableMark new.tableMark,
    tableValid := mixStore false 64 sl old.tableValid new.tableValid,
    vendorOver := mixStore false 64 sl old.vendorOver new.vendorOver }

/-- What a violated peal keeps is put back once the operation's results have landed (13 R366). -/
def putBack (s : State) : State :=
  let landed := fun (op : Nat) => !(s.work.any fun w => decide (w.op = op)) && !(s.tiles.prods.any fun p => decide (p.op = op))
  (s.rel.undo.filter fun u => landed u.1).foldl (fun s u =>
    ({ s with tiles := putBackTiles u.2.1 u.2.2.1 s.tiles, elem := putBackElem u.2.1 u.2.2.2 s.elem }).onRel
      fun r => { r with undo := r.undo.filter fun x => decide (x.1 ≠ u.1) }) s

/-! ### Spot checks (13 R369) -/

/-- SPOT_CHECK_COMPLETE of a quarter. Which opcode syllable the record's OP names is a free value (log entry 40). -/
def spotDone (s : State) (q : Nat) (differs : Bool) (elem bank : Nat) : State :=
  let v := storeGet 0 s.rel.samples q
  if v = 0 then s
  else
    let s := s.onRel fun r => { r with samples := storeSet 0 r.samples q 0, sampleData := storeSet [] r.sampleData q [] }
    let s := objAdd s 0x7410 0xB 1
    if !differs then s
    else
      let p := physSlice s (v.toNat - 1)
      let (f, s) := freshFree s
      let s := fileToll (objAdd s 0x7410 0xC 1)
        { tollOf 0x14 2 (elem % 2 ^ 14 + bank % 256 * 2 ^ 16) with
          ucls := 1, unit := BitVec.ofNat 16 p, flags := 1, op := (f.setWidth 14).setWidth 16 }
      let s := addSuspect (setVoteL s) 1 p
      match spareSlice s (p / 21) with
      | some sp => addSuspect s 1 sp
      | none => s

end Sys2Proof.Machine
end

