-- ==== Sys2Proof/Machine/Modules.lean ====
section
/-! DEFINITION. Attached modules: laser sources and light (11 R272, R273), CAMM2 sites (10 R249), the NVMe flash module
(14 R377, 17 R458), refusals and loss (17 R457 to R459). -/

namespace Sys2Proof.Machine

/-! ### Records of modules (17 R457) -/

/-- The instance codes of 17 Table 17-16, in the order of object 6000h. -/
def moduleCodes : List Nat := [0, 1, 2, 3, 0x10, 0x11, 0x12, 0x13, 0x20]

/-- Forget a module: it is absent. -/
def forgetModule (s : State) (code : Nat) : State :=
  s.onDict fun d => { d with modules := d.modules.filter fun m => decide (m.1 ≠ code) }

/-- Note a module as read, with the reason of its refusal, or 0: it is accepted. A refusal files a record of type 0040h. -/
def noteModule (s : State) (code : Nat) (id : ModuleId) (reason : Nat) : State :=
  let s := (forgetModule s code).onDict fun d => { d with modules := d.modules ++ [(code, id, reason)] }
  if reason = 0 then s
  else fileToll (objAdd s 0x7440 0xA 1) { tollOf 0x40 2 reason with ucls := 0xE, unit := BitVec.ofNat 16 code }

/-- The module of a code, if it is attached. -/
def moduleOf (s : State) (code : Nat) : Option (ModuleId × Nat) :=
  (s.dict.modules.find? fun m => decide (m.1 = code)).map fun m => m.2

/-- Whether the steward has accepted the module of a code. -/
def moduleAccepted (s : State) (code : Nat) : Bool := match moduleOf s code with
  | some m => decide (m.2 = 0)
  | none => false

/-- The identity of a code in a list of those read. -/
def idIn (l : List (Nat × ModuleId)) (code : Nat) : Option ModuleId := (l.find? fun m => decide (m.1 = code)).map fun m => m.2

/-- The 64-byte record of a module (17 Table 17-17). -/
def moduleRecord (s : State) (code : Nat) : List Byte :=
  let padded := fun (n : Nat) (fill : Byte) (l : List Byte) => l.take n ++ List.replicate (n - l.length) fill
  match moduleOf s code with
  | none => BitVec.ofNat 8 code :: List.replicate 63 0
  | some (id, reason) =>
    BitVec.ofNat 8 code :: (if reason = 0 then 1 else 2) :: BitVec.ofNat 8 reason :: 0 ::
      (leBytes 2 id.maker.toNat ++ padded 20 0x20 id.part ++ padded 16 0 id.serial ++ leBytes 2 id.revision.toNat
        ++ leBytes 8 id.capacity ++ List.replicate 12 0)

/-! ### Light (11 R272, R273) -/

/-- Whether laser source k gives light: enabled, accepted, powered, the shroud mated. -/
def lit (s : State) (k : Nat) : Bool :=
  (objGet s 0x2310 1).testBit k && decide (objGet s 0x2310 (2 + k) = 1) && domOn s (25 + k) && s.fab.shroud

/-- A port follows its light and its mode: OFF while it has none or is disabled, DARK from then on (11 Table 11-2). -/
def lightPort (s : State) (k : Nat) : State :=
  let on := lit s (k / 2) && decide (objGet s 0x2301 (k + 1) ≠ 0)
  let p := portGet s k
  if on then (if p.st = .off then portSet s k { p with st := .dark, step := 1 } else s)
  else if p.st = .off then s
  else
    let s := if p.st = .active then leaveActive s k .dark else s
    let p := portGet s k
    portSet s k { blankPort with
      laneMap := p.laneMap, retired := p.retired, attempts := p.attempts, half := p.half, swap := p.swap }

/-- Every port follows its light. -/
def refreshLight (s : State) : State := (List.range 8).foldl lightPort s

/-- Read laser source k at the power-up of its pair: the state of object 2310h and the reason of a refusal. -/
def readLaser (s : State) (k : Nat) (id : Option ModuleId) : State :=
  let code := 0x10 + k
  match id with
  | none => objSet (forgetModule s code) 0x2310 (2 + k) 0
  | some id =>
    let put := fun (st reason : Nat) => objSet (noteModule s code id reason) 0x2310 (2 + k) st
    if !id.readable then put 2 1
    else if !id.kindOk then put 3 2
    else if !id.powerOk then put 4 5
    else if !id.bandOk then put 5 6
    else if !s.fab.shroud then put 6 7
    else put 1 0

/-- The shroud is mated or opened (11 R273, 18 R475): an accepted source that has lost it is dark, and is taken up again when
the shroud is mated. -/
def shroudChange (s : State) (mated : Bool) : State :=
  let s := s.onFab fun f => { f with shroud := mated }
  let s := (List.range 4).foldl (fun s k =>
    let st := objGet s 0x2310 (2 + k)
    let code := 0x10 + k
    let mark := fun (s : State) (r : Nat) => s.onDict fun d => { d with
      modules := d.modules.map fun m => if m.1 = code then (m.1, m.2.1, r) else m }
    if mated ∧ st = 6 then mark (objSet s 0x2310 (2 + k) 1) 0
    else if !mated ∧ st = 1 then mark (objSet s 0x2310 (2 + k) 6) 7
    else s) s
  refreshLight s

/-! ### CAMM2 sites (10 R249) -/

/-- The state of a site by itself, and the reason of its refusal (10 R249, 17 Table 17-18). -/
def siteAlone (id : ModuleId) : Nat × Nat :=
  if !id.readable then (4, 1)
  else if !id.kindOk then (2, 2)
  else if id.capacity < 32 * 10 ^ 9 ∨ 256 * 10 ^ 9 < id.capacity ∨ id.capacity % 2 ^ 20 ≠ 0 then (5, 4)
  else (1, 0)

/-- Whether two modules of a die differ. -/
def sitesDiffer (a b : ModuleId) : Bool := decide (a.capacity ≠ b.capacity) || decide (a.organisation ≠ b.organisation)

/-- The state and reason of a site beside the other site of its die. -/
def siteState (id : ModuleId) (other : Option ModuleId) : Nat × Nat :=
  match siteAlone id, other with
  | (1, r), some o => if sitesDiffer id o then (3, 3) else (1, r)
  | st, _ => st

/-- Read one site. -/
def readSite (s : State) (l : List (Nat × ModuleId)) (site : Nat) : State :=
  match idIn l site with
  | none => objSet (forgetModule s site) 0x2202 (5 + site) 0
  | some id =>
    let other := if site % 2 = 0 then site + 1 else site - 1
    let st := siteState id (idIn l other)
    objSet (noteModule s site id st.2) 0x2202 (5 + site) st.1

/-- The accepted modules of a die. -/
def dieModules (s : State) (die : Nat) : List ModuleId :=
  [2 * die, 2 * die + 1].filterMap fun c => match moduleOf s c with
    | some (id, 0) => some id
    | _ => none

/-- A die's marl: the size of the sites, the populated bytes and the speed. A rated speed below 6,400 MT/s has no rule; the
speed in force is then a free value (DESIGN CHOICE, log entry 20). -/
def configureDie (s : State) (die : Nat) : State :=
  let ms := dieModules s die
  let total := (ms.map fun m => m.capacity).sum
  let low := (ms.map fun m => m.speed).foldl min (objGet s 0x2203 1)
  let s := objSet s 0x2204 (1 + die) total
  if ms.isEmpty then objSet s 0x2203 (2 + die) 0
  else if 8533 ≤ low then objSet s 0x2203 (2 + die) 8533
  else if 7467 ≤ low then objSet s 0x2203 (2 + die) 7467
  else if 6400 ≤ low then objSet s 0x2203 (2 + die) 6400
  else
    let (v, s) := freshFree s
    objSet s 0x2203 (2 + die) (v.toNat % 2 ^ 16)

/-- The size that object 2202h gives for a site. -/
def siteSizes (s : State) : State :=
  (List.range 4).foldl (fun s k => objSet s 0x2202 (1 + k) (match moduleOf s k with
    | some (id, 0) => id.capacity
    | _ => 0)) s

/-- Read every site's SPD hub and configure marl (10 R249). -/
def configureMarl (s : State) (l : List (Nat × ModuleId)) : State :=
  let s := (List.range 4).foldl (fun s k => readSite s l k) s
  siteSizes (configureDie (configureDie s 0) 1)

/-! ### The NVMe flash module (14 R377, 17 R458) -/

/-- The reason for which a flash module is refused, or 0. -/
def nvmeReason (id : ModuleId) : Nat :=
  if !id.readable then 1
  else if !id.kindOk then 2
  else if !id.featuresOk then 8
  else if 25 < id.maxPowerW then 9
  else 0

/-- Whether the flash port may be used: enabled, PCI on, module accepted. -/
def nvmeUsable (s : State) : Bool := decide (objGet s 0x2100 8 = 1) && domOn s 29 && moduleAccepted s 0x20

end Sys2Proof.Machine
end

