-- ==== Sys2Proof/Machine/Ckpt.lean ====
section
/-! DEFINITION. Checkpoint strata: the save set, images and their digests, securing, drains, return and restore (14 R371 to
R388). A secure reads the whole save set in the clk in which it fires, one of the orders that its snapshot semantics allow (DESIGN CHOICE, log
entry 19). -/

namespace Sys2Proof.Machine

/-! ### The argument (14 R378) -/

/-- A checkpoint operation as it is asked for: the level its addresses belong to (OWN 01b: S, 11b: M). -/
structure CkArg where
  op : Nat
  sl : Nat
  tag : BitVec 6
  dev : Nat
  man : W64
  level : BitVec 2
  issue : Nat
  queue : Option Nat
deriving DecidableEq, Repr

/-- Whether the ARG of a cue of action 4h has no reserved bit or value set. -/
def ckArgOk (arg : W128) : Bool :=
  let op := field arg 3 0
  let sl := field arg 5 4
  decide (1 ≤ op ∧ op ≤ 7) && decide (field arg 15 12 = 0) && decide (field arg 63 30 = 0) && decide (field arg 127 116 = 0)
    && (decide (sl = 0) || (decide (sl = 1) && decide (op = 4 ∨ op = 6)))
    && (decide (field arg 29 16 = 0) || decide (op = 4)) && (decide (field arg 115 64 = 0) || decide (op ≤ 3))

/-- The argument of a cue action. -/
def ckOfCue (s : State) (own : BitVec 2) (arg : W128) : CkArg :=
  { op := field arg 3 0, sl := field arg 5 4, tag := BitVec.ofNat 6 (field arg 11 6), dev := field arg 29 16,
    man := BitVec.ofNat 64 (field arg 115 64), level := if own = 3 then 3 else 1, issue := s.cnt.op, queue := none }

/-- The argument of a DM issue of a checkpoint kind, from its descriptor's body. -/
def ckOfHeld (h : Held) : CkArg :=
  { op := dBody h.desc 255 252, sl := dBody h.desc 251 250, tag := h.x.tag, dev := dBody h.desc 249 236,
    man := BitVec.ofNat 64 (dBody h.desc 235 184), level := 3, issue := h.x.op, queue := none }

/-! ### The status and the end of an operation -/

/-- CKSTAT (14 Table 14-6). -/
def ckStat (s : State) (op st reason : Nat) (seq : W64) : State :=
  s.onCtl fun c => { c with ckstat := BitVec.ofNat 64 (op % 16 + st % 8 * 2 ^ 4 + reason % 256 * 2 ^ 8 + seq.toNat % 2 ^ 48 * 2 ^ 16) }

/-- An operation ends its tag with error (14 R380, R387): secures and digests that fail are counted. -/
def ckFail (s : State) (a : CkArg) (reason cause : Nat) (seq : W64) (addr : W64) : State :=
  let s := dmaError s a.issue a.tag 0 cause addr
  let s := ckStat s a.op 4 reason seq
  let s := if a.op ≤ 3 then objAdd s 0x7420 2 1 else s
  if 5 ≤ a.op ∧ (reason = 9 ∨ reason = 0xA) then objAdd s 0x7420 6 1 else s

/-- The operation under way, or the returns but this one: an operation is no longer under way. -/
def ckDrop (s : State) (j : CkJob) : State :=
  s.onCkpt fun c => if j.op = 4 then { c with returns := c.returns.filter fun r => decide (r.req ≠ j.req) } else { c with job := none }

/-- An operation stands as it is now. -/
def ckPut (s : State) (j : CkJob) : State :=
  if j.op = 4 then (ckDrop s j).onCkpt fun c => { c with returns := c.returns ++ [j] } else s.onCkpt fun c => { c with job := some j }

/-- Every operation of the device that is under way: its own, and the returns of guest images (14 R381). -/
def ckUnderWay (s : State) : List CkJob := s.ckpt.job.toList ++ s.ckpt.returns

/-- The same for an operation under way. -/
def ckFailJob (s : State) (j : CkJob) (reason cause : Nat) : State :=
  let s := ckDrop s j
  ckFail s { op := j.op, sl := j.sl, tag := j.tag, dev := j.dev, man := 0, level := 3, issue := j.issue, queue := none } reason cause j.seq 0

/-- An image is committed (14 R376, R382). -/
def ckCommit (s : State) (stratum place : Nat) (seq : W64) (step : Nat) : State :=
  let s := objSet (objSet s 0x4110 stratum step) 0x4110 (3 + stratum) seq.toNat
  let s := (objAdd s 0x7420 1 1).onCkpt fun c => { c with newest := storeSet 0 c.newest stratum (place + 1) }
  ckStat s stratum 3 0 seq

/-- Nothing is wanted any more of the commands to the flash module that serve a use: those that wait are dropped, those sent complete without effect. -/
def nvmeDrop (s : State) (use : Nat) : State :=
  s.onCkpt fun c => { c with
    todo := c.todo.filter fun x => decide (x.use ≠ use), sent := c.sent.map fun x => if x.use = use then { x with use := 2 } else x }

/-- A drain, or a staged image, is abandoned (14 R380). -/
def abandonDrain (s : State) : State :=
  match s.ckpt.drain with
  | none => s
  | some d =>
    let s := objSet (objAdd ((nvmeDrop s 0).onCkpt fun c => { c with drain := none }) 0x7420 3 1) 0x4111 3 0
    ckStat s d.stratum 4 0xD d.seq

/-- The flash module is out of reach: a drain is abandoned, and a restore that reads it fails (14 R380). -/
def nvmeGone (s : State) : State :=
  let s := (abandonDrain s).onCkpt fun c => { c with todo := [], sent := [] }
  match s.ckpt.job with
  | some j => if j.op = 6 then ckFailJob s j 0xB 1 else s
  | none => s

/-! ### The window (14 R375) -/

def chunkSize : Nat := 2 ^ 20
def windowBase (s : State) : Nat := objGet s 0x4102 1
def slotSize (s : State) : Nat := objGet s 0x4102 2
/-- The address of slot G0, G1 or L. -/
def slotAddr (s : State) (k : Nat) : Nat := windowBase s + k * slotSize s

/-- The slot or region that does not hold the newest committed image of a stratum; stratum 3 has one, slot L, numbered 0 (DEDUCED, log entry
24). -/
def nextPlace (s : State) (stratum : Nat) : Nat := if stratum ≠ 3 ∧ storeGet 0 s.ckpt.newest stratum = 1 then 1 else 0

/-! ### The manifest (14 R372, Table 14-2) -/

/-- An extent: address, length, class, whether the address is physical, and its offset in the image. -/
structure Extent where
  addr : W64
  len : Nat
  cls : Nat
  phys : Bool
  iofs : Nat
deriving DecidableEq, Repr

/-- A number of bytes of a list, at an offset. -/
def bytesAt (bs : List Byte) (ofs n : Nat) : Nat := ofLe ((bs.drop ofs).take n)

/-- The extent that a 32-byte record gives. -/
def extentOf (bs : List Byte) : Extent :=
  { addr := BitVec.ofNat 64 (bytesAt bs 0 8), len := bytesAt bs 8 8, cls := bytesAt bs 24 1, phys := decide (bytesAt bs 25 1 % 2 = 1),
    iofs := bytesAt bs 16 8 }

/-- Whether a manifest record is well formed. -/
def recordOk (bs : List Byte) : Bool :=
  let e := extentOf bs
  decide (e.addr.toNat < 2 ^ 52) && decide (e.addr.toNat % 16 = 0) && decide (e.len % 16 = 0) && decide (16 ≤ e.len ∧ e.len ≤ 2 ^ 40)
    && decide (e.iofs = 0) && decide (e.cls ≤ 5) && decide (bytesAt bs 25 1 < 2) && decide (bytesAt bs 26 6 = 0)

/-- The record of an extent in an image. -/
def extentRecord (e : Extent) : List Byte :=
  leBytes 8 e.addr.toNat ++ leBytes 8 e.len ++ leBytes 8 e.iofs ++ leBytes 1 e.cls ++ leBytes 1 (b2n e.phys) ++ List.replicate 6 0

/-- An address of the save set as a device physical address, or a cause. -/
def ckAddr (level : BitVec 2) (phys write : Bool) (s : State) (va : W64) : State × (Nat ⊕ Nat) :=
  if phys then
    if 2 ^ 48 ≤ va.toNat then (s, .inr 3)
    else
      let pa := va.toNat
      let isProg := match regionOf pa with
        | .program _ => true
        | _ => false
      if (isProg || inReserved pa) && decide (level ≠ 3) then (s, .inr 4)
      else if hasTarget s pa then (s, .inl pa) else (s, .inr 3)
  else dmaAddr s 0 1 va write

/-- Read a span of the save set: the bytes, or reason, cause and address. -/
def ckRead (s : State) (level : BitVec 2) (phys : Bool) (va : W64) (n : Nat) : State × (List Byte ⊕ (Nat × Nat × W64)) :=
  match spanVia (ckAddr level phys false) s va n (n / 16 + 2) with
  | (s, .inr f) => (s, .inr (3, f.1, f.2))
  | (s, .inl ps) =>
    let (s, bs) := readPieces 0 (stewardMeets s (ps.flatMap fun p => wordsOf p.1 p.2)) ps
    (s, if bs.any (fun b => b.2) then .inr (4, 5, va) else .inl (bs.map (·.1)))

/-- Read the manifest: its extents, or reason, cause and address. -/
def ckManifest (s : State) (a : CkArg) : State × (List Extent ⊕ (Nat × Nat × W64)) :=
  let look := fun (s : State) (va : W64) (n : Nat) => ckRead s a.level (decide (a.level = 3)) va n
  match ckAddr a.level (decide (a.level = 3)) false s a.man with
  | (s, .inr c) => (s, .inr (3, c, a.man))
  | (s, .inl pa) =>
    let inScratch := match regionOf pa with
      | .scratch _ _ => true
      | _ => false
    if !inScratch then (s, .inr (3, 1, a.man))
    else
      match look s a.man 64 with
      | (s, .inr f) => (s, .inr f)
      | (s, .inl h) =>
        let n := bytesAt h 0 2
        if n = 0 ∨ 1024 < n ∨ bytesAt h 2 62 ≠ 0 then (s, .inr (3, 1, a.man))
        else
          match look s (a.man + 64) (32 * n) with
          | (s, .inr f) => (s, .inr f)
          | (s, .inl bs) =>
            let recs := (List.range n).map fun i => (bs.drop (32 * i)).take 32
            if recs.all recordOk then (s, .inl (recs.map extentOf)) else (s, .inr (3, 1, a.man))

/-! ### The device-state section (14 R373, Table 14-3) -/

/-- The image of a cue entry: the layout of object 2401h. -/
def cueRecord (c : Cue) : List Byte := leBytes 8 c.w0.toNat ++ leBytes 8 c.w1.toNat ++ leBytes 8 c.w2.toNat ++ leBytes 8 c.w3.toNat

/-- A cue entry as its readers see it: a poisoned word reads as zero (13 R342). -/
def cueSeen (c : Cue) : Cue :=
  if c.marks.isEmpty then c
  else
    let w := fun k => (BitVec.ofNat 64 (ofLe (((wordsSeen c.marks (cueRecord c)).drop (8 * k)).take 8)) : W64)
    { c with w0 := w 0, w1 := w 1, w2 := w 2, w3 := w 3 }

/-- A cue entry. -/
def cueGet (s : State) (e : Nat) : Cue := cueSeen (storeGet idleCue s.fab.cues e)
/-- Write a cue entry. -/
def cueSet (s : State) (e : Nat) (c : Cue) : State := s.onFab fun f => { f with cues := storeSet idleCue f.cues e c }

/-- An entry's words are read (13 Table 13-1; UCLS 10h; DEDUCED, log entry 116). -/
def meetCue (s : State) (e : Nat) : State :=
  let c := cueGet s e
  if c.marks.isEmpty then s else meetMarks (cueSet s e { c with marks := metMarks c.marks }) c.marks 0x10 e

/-- Write an entry, of which the write covers `cov w` bytes of code word w (13 R479). -/
def cueMerge (s : State) (e : Nat) (cov : Nat → Nat) (old : List Mark) (c : Cue) : State :=
  if old.isEmpty then cueSet s e c
  else
    let r := mergeMarks s 0x10 e 2 old cov
    cueSet r.1 e (cueSeen { c with marks := r.2 })

/-- The steward reads the entries: a record of type 0003h for the first word that is already poison (13 R348). -/
def stewardCues (s : State) : State :=
  match s.fab.cues.find? fun e => e.2.marks.contains .poison with
  | some e => stewardWord s .poison 0x10 e.1
  | none => s

/-- Every entry is read. -/
def meetCues (s : State) : State := s.fab.cues.foldl (fun s e => meetCue s e.1) s

/-- The counter record. -/
def counterRecord (s : State) : List Byte :=
  leBytes 8 s.ctl.rtkl.toNat ++ leBytes 8 s.ctl.rtkh.toNat ++ leBytes 8 s.ctl.rtsub.toNat ++ leBytes 8 s.cnt.step.toNat
    ++ leBytes 8 (objGet s 0x4110 7) ++ List.replicate 24 0

/-- Bytes extended by zeros to a length. -/
def padTo (n : Nat) (bs : List Byte) : List Byte := bs ++ List.replicate (n - bs.length) 0

/-- The three chunks of the section (DEDUCED, log entry 46). -/
def deviceState (s : State) : List Byte :=
  padTo (3 * chunkSize) (((List.range 16384).flatMap fun k => slotRecord (slotGet s k))
    ++ ((List.range 1024).flatMap fun k => cueRecord (cueGet s k)) ++ counterRecord s)

/-! ### The image (14 Tables 14-1, 14-2) -/

/-- A number rounded up to a multiple. -/
def roundUp (n k : Nat) : Nat := (n + k - 1) / k * k

/-- The extents laid out from an offset, each at a 4 KiB boundary, and the end of the last (DEDUCED, log entry 46). -/
def layOut (ofs : Nat) (es : List Extent) : List Extent × Nat :=
  match es with
  | [] => ([], ofs)
  | e :: r =>
    let here := roundUp ofs 4096
    let (l, last) := layOut (here + e.len) r
    ({ e with iofs := here } :: l, last)

/-- What the header of an image states. -/
structure CkHead where
  str : Nat
  place : Nat
  dev : Nat
  seq : W64
  step : Nat
  beat : Nat
  job : Nat
  nch : Nat
  next : Nat
deriving DecidableEq, Repr

/-- The bytes of a header, with ROOT and COMMIT. -/
def headBytes (h : CkHead) (root : List Byte) (commit : Nat) : List Byte :=
  [0x49, 0x51, 0x43, 0x4B] ++ leBytes 2 1 ++ leBytes 1 h.str ++ leBytes 1 h.place ++ leBytes 2 h.dev ++ List.replicate 6 0
    ++ leBytes 8 h.seq.toNat ++ leBytes 6 h.step ++ List.replicate 2 0 ++ leBytes 6 h.beat ++ List.replicate 2 0
    ++ leBytes 8 h.job ++ leBytes 4 h.nch ++ leBytes 2 h.next ++ List.replicate 10 0
    ++ padTo 48 (root.take 48) ++ leBytes 8 commit ++ List.replicate 8 0

/-- The bytes of the checkpoint keys, object 4101h:00. -/
def ckKeys (s : State) : List Byte := padTo 32 (storeGet [] s.dict.blobs (objKey 0x4101 0))

/-- The tally of a chunk (14 R374). -/
def chunkTally (s : State) (str : Nat) (seq : W64) (c : Nat) (bs : List Byte) : Nat :=
  let key : W128 := BitVec.ofNat 128 (bytesAt (ckKeys s) 0 16)
  ((toWords bs).zipIdx).foldl (fun t w =>
    (t + tallyWeight key w.2 (4 * c) str (seq.toNat % 2 ^ 32) * (w.1.toNat % tallyMod)) % tallyMod) 0

/-- The bytes of an entry of the digest table: 16, or 48 for stratum 3. -/
def entrySize (str : Nat) : Nat := if str = 3 then 48 else 16

/-- The digest of chunk c, as its table entry holds it. -/
def chunkEntry (s : State) (str : Nat) (seq : W64) (c : Nat) (bs : List Byte) : List Byte :=
  let bs := if c = 0 then bs.take 64 ++ List.replicate 64 0 ++ bs.drop 128 else bs
  if str = 3 then padTo 48 ((Config.sha384 bs).take 48) else leBytes 16 (chunkTally s str seq c bs)

/-- The digest table of the chunks. -/
def digestTable (s : State) (str : Nat) (seq : W64) (body : List Byte) : List Byte :=
  ((cutEvery (body.length + 1) chunkSize body).zipIdx).flatMap fun c => chunkEntry s str seq c.2 c.1

/-- ROOT over the digest table and the header (14 R374). -/
def rootOf (s : State) (str : Nat) (table head : List Byte) : List Byte :=
  if str = 3 then padTo 48 ((Config.sha384 (table ++ head.take 64)).take 48)
  else leBytes 16 (digestOf (BitVec.ofNat 128 (bytesAt (ckKeys s) 16 16)) (toWords table ++ toWords (head.take 64))).toNat

/-! ### Writing -/

/-- Write bytes at a device physical address, word by word. -/
def pokeImage (s : State) (pa : Nat) (bs : List Byte) : State := writeAs .steward s ((bs.zipIdx).map fun b => (pa + b.2, b.1))

/-- The words of bytes, as a remote write carries them. -/
def cleanWords (bs : List Byte) : List (W128 × Mark) := (toWords bs).map fun w => (w, .good)

/-- Send bytes to an address of another device under a request ID: the state, the flits still to be completed, and whether one
was refused at once. -/
def ckSend (s : State) (dev pa req : Nat) (bs : List Byte) : State × Nat × Bool :=
  let fl := remoteFlits s dev pa req (cleanWords bs)
  let (s, back) := sendFlits s fl
  (s, fl.length - back.length, back.any fun c => decide (c ≠ 0))

/-- A request ID of this device's own. -/
def freshReq (s : State) : Nat × State := (s.dma.nextReq, s.onDma fun d => { d with nextReq := d.nextReq + 1 })

/-- An operation stands with its owed remote writes, or, where all have completed, moves on: a secure of stratum 1 sends its header with
COMMIT = SEQ, and commits when that has completed; a return ends (14 R376, R379). `n` is fuel. -/
def ckAdvance (s : State) (j : CkJob) (n : Nat) : State :=
  match n with
  | 0 => ckPut s j
  | k + 1 =>
    if 0 < j.owed then ckPut s j
    else if j.op = 4 then ckStat (objAdd (ckDrop s j) 0x7420 8 1) 4 3 0 j.seq
    else if j.op ≠ 1 then ckPut s j
    else if j.committing then ckCommit (ckDrop s j) 1 j.place j.seq j.step
    else
      let (s, owed, refused) := ckSend s j.dev (slotAddr s j.place) j.req (j.header.take 128)
      if refused then ckFailJob s j 6 1 else ckAdvance s { j with committing := true, owed := owed } k

/-! ### The NVMe host (14 R376, R377) -/

def lbaSize : Nat := 4096

/-- The first LBA of region k. -/
def regionLba (s : State) (k : Nat) : Nat := objGet s 0x4103 1 + k * (slotSize s / lbaSize)

/-- The write of a header to a region; with COMMIT = SEQ and with COMMIT = 0 alike it is written with FUA, so that it keeps its place among the
other writes. -/
def nvmeHeader (s : State) (k : Nat) (head : List Byte) : NvmeCmd :=
  { use := 0, opcode := 1, lba := regionLba s k, blocks := 1, fua := true, pa := slotAddr s 2, bytes := padTo lbaSize head }

/-- The commands that move the first n bytes of slot L, or of a region into it, in pieces of a chunk. -/
def nvmeMoves (s : State) (use opcode k n : Nat) : List NvmeCmd :=
  (List.range (ceilDiv n chunkSize)).map fun c =>
    { use := use, opcode := opcode, lba := regionLba s k + c * (chunkSize / lbaSize),
      blocks := ceilDiv (min chunkSize (n - c * chunkSize)) lbaSize, fua := false, pa := slotAddr s 2 + c * chunkSize, bytes := [] }

/-- Whether a command is ordered against the others of its use: a Flush, and a write with FUA. -/
def nvmeOrdered (c : NvmeCmd) : Bool := decide (c.opcode = 0) || c.fua

/-- The data that a command carries: a header's bytes, or what slot L holds; and whether a word of it is poisoned. -/
def nvmeData (s : State) (c : NvmeCmd) : State × List Byte × Bool :=
  if c.opcode ≠ 1 then (s, [], false)
  else if !c.bytes.isEmpty then (s, c.bytes, false)
  else readBytes (stewardMeets s (wordsOf c.pa (c.blocks * lbaSize))) c.pa (c.blocks * lbaSize)

/-- A drain to the flash module fails (14 R380). -/
def drainFails (s : State) (reason : Nat) : State :=
  match s.ckpt.drain with
  | none => s
  | some d => ckStat (objAdd ((nvmeDrop s 0).onCkpt fun c => { c with drain := none }) 0x7420 2 1) 2 4 reason d.seq

/-- Commands enter the I/O queue pair, of 256 entries, in order; a Flush and a header wait for every command of their use before them, and hold
those after them. A poisoned word of slot L ends the drain with reason 04h (DESIGN CHOICE, log entry 138). `n` is fuel. -/
def nvmePump (n : Nat) (s : State) : State :=
  match n, s.ckpt.todo with
  | 0, _ => s
  | _, [] => s
  | k + 1, c :: rest =>
    let same := s.ckpt.sent.filter fun x => decide (x.use = c.use)
    if 256 ≤ s.ckpt.sent.length ∨ (nvmeOrdered c && !same.isEmpty) = true ∨ same.any nvmeOrdered = true then s
    else
      let (s, data, bad) := nvmeData (s.onCkpt fun p => { p with todo := rest, sent := p.sent ++ [c] }) c
      if bad then drainFails s 4 else nvmePump k (s.emit (.nvme c.opcode c.lba c.blocks c.fua data))

/-- Commands to the flash module are due. -/
def nvmeAsk (s : State) (cs : List NvmeCmd) : State := nvmePump 256 (s.onCkpt fun c => { c with todo := c.todo ++ cs })

/-! ### Securing (14 R379) -/

/-- Read the sources of the extents, each padded to its offset. -/
def readExtents (s : State) (level : BitVec 2) (es : List Extent) (at' : Nat) : State × (List Byte ⊕ (Nat × Nat × W64)) :=
  match es with
  | [] => (s, .inl [])
  | e :: r =>
    match ckRead s level e.phys e.addr e.len with
    | (s, .inr f) => (s, .inr f)
    | (s, .inl bs) =>
      match readExtents s level r (e.iofs + e.len) with
      | (s, .inr f) => (s, .inr f)
      | (s, .inl rest) => (s, .inl (List.replicate (e.iofs - at') 0 ++ bs ++ rest))

/-- Whether slot L can be written. -/
def slotLUsable (s : State) : Bool := hasTarget s (slotAddr s 2)

/-- The operation under way of a secure of stratum 1. -/
def secureJob (s : State) (a : CkArg) (h : CkHead) (req : Nat) : CkJob :=
  { op := 1, sl := 0, dev := objGet s 0x4100 1, tag := a.tag, issue := a.issue, place := h.place, seq := h.seq, step := h.step,
    header := [], req := req, owed := 0, committing := false, got := 0, root := 0 }

/-- The target header with COMMIT = 0 (14 R376, R379 step 2): to the partner, to the region, or in slot L. The flits of it that are still to be
completed, and whether one was refused at once. -/
def ckUncommit (s : State) (str place req : Nat) (head : List Byte) : State × Nat × Bool :=
  if str = 1 then ckSend s (objGet s 0x4100 1) (slotAddr s place) req head
  else if str = 2 then (nvmeAsk s [nvmeHeader s place head], 0, false)
  else (pokeImage s (slotAddr s 2) head, 0, false)

/-- The image stands: it goes to the partner, or lies in slot L, from which it drains or which the host is to read (14 R379 steps 3, 4). -/
def ckPacked (s : State) (a : CkArg) (h : CkHead) (req owed : Nat) (first final image : List Byte) : State :=
  let s := noteCue s a.queue (first.length + image.length)
  if h.str = 1 then
    let (s, more, refused) := ckSend s (objGet s 0x4100 1) (slotAddr s h.place) req (first ++ image)
    let j := { secureJob s a h req with header := final, owed := owed + more }
    if refused then ckFailJob s j 6 1 else ckAdvance s j 2
  else
    let s := pokeImage s (slotAddr s 2) (first ++ image)
    let d : Drain := { stratum := h.str, region := h.place, seq := h.seq, step := h.step, header := final, total := h.nch + 1 }
    let s := ckStat (s.onCkpt fun c => { c with drain := some d }) h.str 2 0 h.seq
    if h.str = 2 then
      nvmeAsk s (nvmeMoves s 0 1 h.place (first.length + image.length)
        ++ [{ use := 0, opcode := 0, lba := 0, blocks := 0, fua := false, pa := 0, bytes := [] }, nvmeHeader s h.place final])
    else signal (objSet s 0x4111 3 h.seq.toNat) 4

/-- A secure of a stratum. -/
def ckSecure (s : State) (a : CkArg) : State :=
  let str := a.op
  if s.ckpt.job.isSome || s.ckpt.drain.isSome then ckFail s a 2 1 0 0
  else if str = 2 ∧ nvmeUsable s = false then ckFail s a 0xB 1 0 0
  else
    match ckManifest s a with
    | (s, .inr f) => ckFail s a f.1 f.2.1 0 f.2.2
    | (s, .inl es) =>
      let seq := s.ckpt.nextSeq
      let s := s.onCkpt fun c => { c with nextSeq := c.nextSeq + 1 }
      let (es, last) := layOut (4 * chunkSize) es
      let nch := ceilDiv last chunkSize
      let total := nch * chunkSize + nch * entrySize str
      if slotSize s < total then ckFail s a 5 1 seq 0
      else if 2 ≤ str ∧ slotLUsable s = false then ckFail s a 3 3 seq (BitVec.ofNat 64 (slotAddr s 2))
      else
        let h : CkHead :=
          { str := str, place := nextPlace s str, dev := myId s, seq := seq, step := s.cnt.step.toNat, beat := s.fab.beat.count.toNat,
            job := objGet s 0x4000 6, nch := nch, next := es.length }
        let s := meetCues (meetSlots (stewardCues (stewardSlots s)))
        let state := deviceState s
        let (req, s) := freshReq (ckStat s str 1 0 seq)
        match ckUncommit s str h.place req (headBytes h [] 0) with
        | (s, _, true) => ckFailJob s (secureJob s a h req) 6 1
        | (s, owed, false) =>
          match readExtents s a.level es (4 * chunkSize) with
          | (s, .inr f) => ckFail (nvmeDrop s 0) a f.1 f.2.1 seq f.2.2
          | (s, .inl data) =>
            let control := padTo chunkSize (padTo 4096 (headBytes h [] 0) ++ es.flatMap extentRecord)
            let body := padTo (nch * chunkSize) (control ++ state ++ data)
            let table := digestTable s str seq body
            let root := rootOf s str table (headBytes h [] 0)
            ckPacked s a h req owed (headBytes h root 0) (headBytes h root seq.toNat) (body.drop 128 ++ table)

/-! ### Returning a guest's image (14 R386) -/

/-- The length of the image in a slot: what its header gives, or the whole slot where that is no image. -/
def imageLength (s : State) (pa : Nat) : Nat :=
  let h := peekBytes s pa 64
  let nch := bytesAt h 48 4
  let n := nch * chunkSize + nch * entrySize (bytesAt h 6 1)
  if bytesAt h 0 4 = 0x4B435149 ∧ n ≤ slotSize s then n else slotSize s

/-- OP 4h: the image and its digest table go to the guest's slot L. Returns and a secure of this device run beside each other (R381); a
restore is a checkpoint operation in flight (R380; DEDUCED, log entry 117). -/
def ckReturn (s : State) (a : CkArg) : State :=
  if s.ckpt.drain.isSome || s.ckpt.job.any fun j => decide (j.op ≠ 1) then ckFail s a 2 1 0 0
  else
    let pa := slotAddr s a.sl
    match ckRead s 3 true (BitVec.ofNat 64 pa) (imageLength s pa) with
    | (s, .inr f) => ckFail s a f.1 f.2.1 0 f.2.2
    | (s, .inl bs) =>
      let seq : W64 := BitVec.ofNat 64 (bytesAt bs 16 8)
      let (req, s) := freshReq (ckStat s 4 1 0 seq)
      let (s, owed, refused) := ckSend s a.dev (slotAddr s 2) req bs
      let j : CkJob :=
        { op := 4, sl := a.sl, dev := a.dev, tag := a.tag, issue := a.issue, place := a.sl, seq := seq, step := 0, header := [],
          req := req, owed := owed, committing := false, got := 0, root := 0 }
      if refused then ckFailJob s j 6 1 else ckAdvance s j 2

/-! ### Restore (14 R386 to R388) -/

/-- The stratum whose images an operation restores. -/
def restoreStratum (op : Nat) : Nat := op - 4

/-- The check of a header: a reason, or 0. -/
def headReason (s : State) (str : Nat) (h : List Byte) : Nat :=
  let nch := bytesAt h 48 4
  if bytesAt h 0 4 ≠ 0x4B435149 ∨ bytesAt h 4 2 ≠ 1 ∨ bytesAt h 6 1 ≠ str ∨ bytesAt h 8 2 ≠ myId s
      ∨ bytesAt h 40 8 ≠ objGet s 0x4000 6 ∨ nch < 4 ∨ slotSize s < nch * chunkSize + nch * entrySize str
      ∨ 1024 < bytesAt h 52 2 then 7
  else if bytesAt h 112 8 ≠ bytesAt h 16 8 then 8
  else 0

/-- The check of an image (14 R387): a reason, or 0. -/
def imageReason (s : State) (str : Nat) (image : List Byte) : Nat :=
  let h := image.take 128
  let r := headReason s str h
  if r ≠ 0 then r
  else
    let nch := bytesAt h 48 4
    let seq : W64 := BitVec.ofNat 64 (bytesAt h 16 8)
    let table := (image.drop (nch * chunkSize)).take (nch * entrySize str)
    if digestTable s str seq (image.take (nch * chunkSize)) ≠ table then 9
    else if padTo 48 (rootOf s str table h) ≠ (h.drop 64).take 48 then 0xA
    else 0

/-- Copy the extents to their addresses; a cause and its address on failure. -/
def unpackExtents (s : State) (level : BitVec 2) (image : List Byte) (es : List Extent) : State × Option (Nat × W64) :=
  match es with
  | [] => (s, none)
  | e :: r =>
    match spanVia (ckAddr level e.phys true) s e.addr e.len (e.len / 16 + 2) with
    | (s, .inr f) => (s, some f)
    | (s, .inl ps) => unpackExtents (writeAs .steward s ((pieceBytes ps).zip ((image.drop e.iofs).take e.len))) level image r

/-- A cue entry as a restore writes it (14 R388): a beat entry is disarmed where object 4104h:04 is 0. -/
def restoredCue (all : Bool) (bs : List Byte) : Cue :=
  let w := fun (i : Nat) => (BitVec.ofNat 64 (bytesAt bs (8 * i) 8) : W64)
  let w0 := w 0
  let w0 := if !all && decide (field w0 62 61 = 0) && bit w0 63 then setField (setBit w0 63 false) 49 47 0 else w0
  { w0 := w0, w1 := w 1, w2 := w 2, w3 := w 3, fired := false, host := false, marks := [] }

/-- Steps 2 to 6 of 14 R388. -/
def unpackState (s : State) (image : List Byte) : State :=
  let sec := image.drop chunkSize
  let warm := decide (objGet s 0x2500 1 = 1)
  let s := { s with slots := (List.range 16384).foldl (fun t k =>
    storeSet blankSlot t k (restoredSlot (slotOfRecord ((sec.drop (80 * k)).take 80)) warm)) [] }
  let cnt := (sec.drop 1343488).take 64
  let s := s.onCtl fun c => { c with
    rtkl := BitVec.ofNat 64 (bytesAt cnt 0 8), rtkh := BitVec.ofNat 64 (bytesAt cnt 8 8), rtsub := BitVec.ofNat 64 (bytesAt cnt 16 8),
    clnfl := 0 }
  let step : BitVec 48 := BitVec.ofNat 48 (bytesAt cnt 24 6)
  let s := s.onCnt fun c => { c with
    step := step, repeatPending := false, recoveryArm := true, dropStep := if objGet s 0x4104 2 = 1 then some (step + 1) else none }
  let s := objSet s 0x4110 7 (bytesAt cnt 32 8)
  let all := decide (objGet s 0x4104 4 = 1)
  let s := s.onFab fun f => { f with cues := (List.range 1024).foldl (fun t k =>
    storeSet idleCue t k (restoredCue all ((sec.drop (1310720 + 32 * k)).take 32))) [] }
  (stashReset s).onColl fun e => { e with attempt := 0 }

/-- Work under an S translation that was captured; where another is in force by now its cached entries are left out (14 R388). -/
def underRoot {α : Type} (root : W64) (f : State → State × α) (s : State) : State × α :=
  if root = s.ctl.ptbInUse then f s
  else
    let r := f (s.onCtl fun c => { c with ptbInUse := root, tlb := [] })
    (r.1.onCtl fun c => { c with ptbInUse := s.ctl.ptbInUse, tlb := s.ctl.tlb }, r.2)

/-- Verify the image in slot L and unpack it, under the S translation in force at the restore's firing. -/
def ckUnpack (s : State) (a : CkArg) (root : W64) : State :=
  let (s, image, _) := readBytes (stewardMeets s (wordsOf (slotAddr s 2) (slotSize s))) (slotAddr s 2) (slotSize s)
  let seq : W64 := BitVec.ofNat 64 (bytesAt image 16 8)
  let r := imageReason s (restoreStratum a.op) image
  if r ≠ 0 then ckFail s a r 1 seq 0
  else
    let es := (List.range (bytesAt image 52 2)).map fun i => extentOf ((image.drop (4096 + 32 * i)).take 32)
    match underRoot root (fun s => unpackExtents s a.level image es) s with
    | (s, some f) => ckFail s a 0 f.1 seq f.2
    | (s, none) => ckStat (objAdd (unpackState s image) 0x7420 4 1) a.op 3 0 seq

/-- A restore begins: from L, or by reading an NVMe region into L. -/
def ckRestore (s : State) (a : CkArg) : State :=
  if s.seq.running then ckFail s a 1 1 0 0
  else if s.ckpt.job.isSome then ckFail s a 2 1 0 0
  else if a.op = 7 ∧ objGet s 0x4111 1 = 0 then ckFail s a 0xC 1 0 0
  else if a.op = 6 ∧ nvmeUsable s = false then ckFail s a 0xB 1 0 0
  else if slotLUsable s = false then ckFail s a 7 3 0 (BitVec.ofNat 64 (slotAddr s 2))
  else
    let s := abandonDrain s
    if a.op = 6 then
      let j : CkJob :=
        { op := 6, sl := a.sl, dev := b2n (decide (a.level = 3)), tag := a.tag, issue := a.issue, place := a.sl, seq := 0, step := 0,
          header := [], req := 0, owed := 0, committing := false, got := 0, root := s.ctl.ptbInUse }
      nvmeAsk (ckStat (s.onCkpt fun c => { c with job := some j }) 6 1 0 0) (nvmeMoves s 1 2 a.sl (max 1 (slotSize s)))
    else ckUnpack s a s.ctl.ptbInUse

/-! ### Starting an operation -/

/-- An operation fires. -/
def ckFire (s : State) (a : CkArg) : State :=
  if a.op ≤ 3 then ckSecure s a else if a.op = 4 then ckReturn s a else ckRestore s a

/-- A cue action of code 4h, or a DMA action, enters the issue queue; the checkpoint operation fires then (14 R378). -/
def enterQueue (s : State) (x : Xfer) : State :=
  let s := match x.ck with
    | none => s
    | some (own, arg) => ckFire s { ckOfCue s own arg with issue := x.op, queue := x.cueQ }
  s.onDma fun d => { d with queue := d.queue ++ [{ x with issued := s.cnt.clk }] }

/-- The action of a cue of code 4h (14 R378, 11 R310): it enters the issue queue over every active slice, or waits at its head while it is full.
While the slices are off it fires at once (DESIGN CHOICE, log entry 138). -/
def ckCue (s : State) (q : Option Nat) (own : BitVec 2) (arg : W128) : State :=
  let x : Xfer := ⟨0, BitVec.allOnes 160, BitVec.ofNat 6 (field arg 11 6), if own = 3 then 3 else 1, s.seq.spr, s.cnt.op, s.cnt.clk,
    some (own, arg), q⟩
  let s := nextOp s
  if domOn s 6 = false then ckFire s { ckOfCue s own arg with issue := x.op, queue := q }
  else if dmaFull s then s.onFab fun f => { f with cueWait := f.cueWait ++ [x] }
  else enterQueue s x

/-- Actions that wait for the queue enter it as places come free (11 R310). `n` is fuel. -/
def drainCues (n : Nat) (s : State) : State :=
  match n, s.fab.cueWait with
  | 0, _ => s
  | _, [] => s
  | k + 1, x :: r =>
    if 16 ≤ s.dma.queue.length then s else drainCues k (enterQueue (s.onFab fun f => { f with cueWait := r }) x)

/-- A DM issue of a checkpoint kind that every slice of its group has accepted and whose OP is the one named. -/
def ckHeld (s : State) (op : Nat) : Option Held :=
  s.dma.held.find? fun h => !h.begun && decide (0x10 ≤ dKind h.desc ∧ dKind h.desc ≤ 0x12) && decide (dBody h.desc 255 252 = op)
    && !(s.dma.queue.any fun x => decide (x.op = h.x.op))

/-- A checkpoint command: the DM issue that waits for it, else the action of a cue with this OWN and ARG (DEDUCED, log entry 46). -/
def ckCommand (s : State) (own : BitVec 2) (arg : W128) (op : Nat) : State :=
  match ckHeld s op with
  | some h => ckFire (s.onDma fun d => { d with held := d.held.filter fun g => decide (g.x.op ≠ h.x.op) }) (ckOfHeld h)
  | none =>
    if ckArgOk arg && decide (field arg 3 0 = op) && domOn s 1 then
      ckCue s none own arg
    else s

/-! ### Completions -/

/-- A completion of a remote write of the operation under way: none if it is not one of its own. -/
def ckCompletion (s : State) (reqId : Nat) (refused : Bool) : Option State :=
  ((ckUnderWay s).find? fun j => decide (j.op = 1 ∨ j.op = 4) && decide (j.req % 65536 = reqId) && decide (0 < j.owed)).map fun j =>
    if refused then ckFailJob s j 6 1 else ckAdvance s { j with owed := j.owed - 1 } 2

/-- A remote write of the operation under way gets no completion within 65,536 clk: cause 06h (10 Table 10-5). -/
def ckTimeout (s : State) (req : Nat) : Option State :=
  ((ckUnderWay s).find? fun j => decide (j.op = 1 ∨ j.op = 4) && decide (j.req = req) && decide (0 < j.owed)).map fun j => ckFailJob s j 6 6

/-- Whether a command to the flash module that serves a use is still to complete. -/
def nvmeOwes (s : State) (use : Nat) : Bool := (s.ckpt.todo ++ s.ckpt.sent).any fun c => decide (c.use = use)

/-- A restore's read completes: its bytes land in L; after the last the image is verified and unpacked. -/
def nvmeRead (s : State) (j : CkJob) (c : NvmeCmd) (ok : Bool) (data : List Byte) : State :=
  if !ok then ckFailJob (nvmeDrop s 1) j 0xB 1
  else
    let data := data.take (min (c.blocks * lbaSize) (slotSize s - j.got))
    let s := pokeImage s c.pa data
    if nvmeOwes s 1 then nvmePump 256 (s.onCkpt fun p => { p with job := some { j with got := j.got + data.length } })
    else
      ckUnpack (s.onCkpt fun c => { c with job := none })
        { op := 6, sl := j.sl, tag := j.tag, dev := 0, man := 0, level := if j.dev = 1 then 3 else 1, issue := j.issue, queue := none } j.root

/-- A drain's command completes: after the data writes the Flush goes out, then the header with FUA, whose completion commits the image. -/
def nvmeDrain (s : State) (d : Drain) (ok : Bool) : State :=
  if !ok then drainFails s 0xB
  else if nvmeOwes s 0 then nvmePump 256 s
  else ckCommit (s.onCkpt fun c => { c with drain := none }) 2 d.region d.seq d.step

/-- NVME_COMMAND_COMPLETE (14 R377, R379): the oldest command sent completes. -/
def nvmeComplete (s : State) (ok : Bool) (data : List Byte) : State :=
  match s.ckpt.sent with
  | [] => s
  | c :: r =>
    let s := s.onCkpt fun p => { p with sent := r }
    match c.use, s.ckpt.job, s.ckpt.drain with
    | 1, some j, _ => nvmeRead s j c ok data
    | 0, _, some d => nvmeDrain s d ok
    | _, _, _ => nvmePump 256 s

/-- The host has stored the staged image: stratum 3 commits and L is released (14 R376, R379). -/
def storedSeq (s : State) (v : W64) : State :=
  let s := objSet s 0x4111 2 v.toNat
  match s.ckpt.drain with
  | none => s
  | some d =>
    if d.stratum = 3 ∧ d.seq = v then
      let s := pokeImage s (slotAddr s 2) d.header
      let s := objSet (s.onCkpt fun c => { c with drain := none }) 0x4111 3 0
      ckCommit s 3 0 d.seq d.step
    else s

end Sys2Proof.Machine
end

