-- ==== Sys2Proof/Machine/Firmware.lean ====
section
/-! DEFINITION. Signed objects and the firmware image: the signature block, key sets, the container and its components, and the
loading of the runtime (16 R411 to R417). -/

namespace Sys2Proof.Machine

/-- n bytes at an offset. -/
def slice (bs : List Byte) (ofs n : Nat) : List Byte := (bs.drop ofs).take n

/-- The number that n bytes at an offset spell. -/
def numAt (bs : List Byte) (ofs n : Nat) : Nat := ofLe (slice bs ofs n)

/-- Whether n bytes at an offset are there and all zero. -/
def zeroAt (bs : List Byte) (ofs n : Nat) : Bool := (slice bs ofs n).all fun b => decide (b = 0)

/-- The bytes of a text. -/
def asciiBytes (t : String) : List Byte := t.toList.map fun c => BitVec.ofNat 8 c.toNat

/-! ### Signed objects (16 Table 16-2, R413, R414) -/

/-- The state of a key set: 0 unprovisioned, 1 valid, 2 revoked (object 5010h:01 to :06). -/
def keySetState (s : State) (k : Nat) : Nat :=
  if storeGet false s.trust.revoked k then 2
  else if k < 4 then 1
  else if (storeGet [] s.trust.ownerKeys k).isEmpty then 0 else 1

/-- The 96 bytes of hashes of a key set. -/
def keySetHash (s : State) (k : Nat) : List Byte :=
  if k < 4 then Config.vendorKeyHash k else storeGet [] s.trust.ownerKeys k

/-- The verdict on a signed object: its key set, or why it does not verify. -/
inductive SigRes where
  | ok (keyset : Nat)
  | malformed
  | keyset
  | signature
deriving DecidableEq, Repr

/-- The bytes of a signature block. -/
def blockSize : Nat := 2048

/-- Whether a block's fixed fields are as Table 16-2 gives them. -/
def blockFormOk (b : List Byte) : Bool :=
  decide (b.length = blockSize) && decide (slice b 0 4 = asciiBytes "IQSG") && decide (numAt b 4 2 = 1) && zeroAt b 7 1
    && decide (numAt b 8 4 = blockSize) && zeroAt b 12 4 && zeroAt b 161 3

/-- R413, in the order of its list: `allowed` says which key sets may sign this kind of object (DEDUCED, log entry 84). -/
def verifySigned (s : State) (obj : List Byte) (allowed : Nat → Bool) : SigRes :=
  let content := obj.take (obj.length - blockSize)
  let b := obj.drop (obj.length - blockSize)
  let k := numAt b 6 1
  let epk := slice b 64 97
  let lpk := slice b 164 48
  let head := slice b 0 64
  if !(blockFormOk b) then .malformed
  else if 6 ≤ k ∨ keySetState s k ≠ 1 ∨ allowed k = false then .keyset
  else if Config.sha384 epk = slice (keySetHash s k) 0 48 ∧ Config.sha384 lpk = slice (keySetHash s k) 48 48
      ∧ slice b 16 48 = Config.sha384 content ∧ Config.ecdsaVerify epk head (slice b 212 96) = true
      ∧ Config.lmsVerify lpk head (slice b 308 1740) = true then .ok k
  else .signature

/-- Vendor sets. -/
def vendorSet (k : Nat) : Bool := decide (k < 4)

/-! ### The image (16 R417, Table 16-4) -/

/-- Component i of an image: its bytes, signature block included. -/
def component (image : List Byte) (i : Nat) : List Byte := slice image (numAt image (64 + 16 * i) 8) (numAt image (72 + 16 * i) 8)

/-- The end of an image, as its three entries give it. -/
def imageEnd (image : List Byte) : Nat :=
  ((List.range 3).map fun i => numAt image (64 + 16 * i) 8 + numAt image (72 + 16 * i) 8).foldl max 112

def compType (c : List Byte) : Nat := numAt c 4 1
def compSvn (c : List Byte) : Nat := numAt c 8 4
def compRelease (c : List Byte) : Nat := numAt c 12 4

/-- The component of a type: 1 steward firmware, 2 runtime, 3 optical engines. -/
def compOfType (image : List Byte) (t : Nat) : List Byte :=
  (((List.range 3).map (component image)).find? fun c => decide (compType c = t)).getD []

/-- Whether a component's header is well formed. -/
def compFormOk (c : List Byte) : Bool :=
  decide (blockSize + 64 ≤ c.length) && decide (slice c 0 4 = asciiBytes "IQCP") && decide (1 ≤ compType c ∧ compType c ≤ 3)
    && decide (numAt c 5 1 = 1) && zeroAt c 6 2 && decide (compSvn c ≤ 64)
    && decide (numAt c 16 8 = c.length - blockSize) && decide (numAt c 16 8 % 64 = 0)
    && (decide (compType c = 2) || (zeroAt c 24 4 && zeroAt c 28 4)) && zeroAt c 32 32

/-- Whether a container is well formed, with one component of each type. -/
def containerOk (image : List Byte) : Bool :=
  decide (112 ≤ image.length) && decide (slice image 0 4 = asciiBytes "IQFW") && decide (numAt image 4 2 = 1)
    && decide (numAt image 6 2 = 3) && zeroAt image 12 52 && decide (imageEnd image ≤ image.length)
    && (List.range 3).all (fun i => compFormOk (component image i))
    && [1, 2, 3].all (fun t => (List.range 3).any fun i => decide (compType (component image i) = t))

/-- The largest image, 16 MiB. -/
def imageMax : Nat := 2 ^ 24

/-- The security version counter of a component type (object 5020h). -/
def versionCounter (s : State) (t : Nat) : Nat := objGet s 0x5020 t

/-- Why a component is refused, or 0: 06h key set, 03h signature, 04h below its counter. -/
def compReason (s : State) (c : List Byte) : Nat :=
  match verifySigned s c vendorSet with
  | .keyset => 6
  | .malformed | .signature => 3
  | .ok _ => if compSvn c < versionCounter s (compType c) then 4 else 0

/-- Why an image is refused (object 1F50h:04), or 0. -/
def imageRefusal (s : State) (image : List Byte) : Nat :=
  if imageMax < image.length then 7
  else if !(containerOk image) then 2
  else
    let rs := (List.range 3).map fun i => compReason s (component image i)
    if rs.contains 3 then 3
    else if rs.contains 6 then 6
    else if rs.contains 4 then 4
    else if (List.range 3).any (fun i => decide (compRelease (component image i) ≠ numAt image 8 4)) then 5
    else 0

/-- Whether the components of the given types verify at boot; the image as shipped does (PRESUMED, log entry 11). -/
def bootVerifies (s : State) (image : List Byte) (types : List Nat) : Bool :=
  image.isEmpty || (containerOk image && types.all fun t => decide (compReason s (compOfType image t) = 0))

/-- An image as it stands: the empty one is the image as shipped. -/
def imageOf (image : List Byte) : List Byte := if image.isEmpty then Config.shippedImage else image

/-- The release that an image holds, a component of it, and that component's security version, at most the 64 that a counter reaches. -/
def releaseOf (image : List Byte) : Nat := numAt (imageOf image) 8 4
def componentOf (image : List Byte) (t : Nat) : List Byte := compOfType (imageOf image) t
def svnOf (image : List Byte) (t : Nat) : Nat := min 64 (compSvn (componentOf image t))

/-! ### The runtime (16 R411) -/

/-- Write lines of program memory from a line on. -/
def writeLines (s : State) (n : Nat) (ls : List (BitVec 168)) : State :=
  match ls with
  | [] => s
  | l :: r =>
    let s := pokeBytes s (((leBytes 32 l.toNat).zipIdx).map fun b => (programBase + 32 * n + b.2, b.1))
    let w := (programBase + 32 * n) / 16
    writeLines (setMark (setMark s w .good) (w + 1) .good) (n + 1) r

/-- Load the runtime of the running image: its lines, and object 2400h:01. -/
def loadRuntime (s : State) : State :=
  let c := componentOf s.trust.running 2
  let first := numAt c 24 4
  let lines := (Config.runtimeLines (slice c 0 (c.length - blockSize))).take (min 65535 (2 ^ 18 - first))
  let s := writeLines s first lines
  (objSet s 0x2400 1 (numAt c 28 4)).onTrust fun t => { t with loaded := true }

/-- The runtime is loaded when SEQ0 comes on and program memory has none. -/
def loadIfNeeded (s : State) : State := if domOn s 6 && !s.trust.loaded then loadRuntime s else s

end Sys2Proof.Machine
end

