-- ==== Sys2Proof/Machine/Power.lean ====
section
/-! DEFINITION. Power: domains and states, transitions, the estimator and the cap controller, mute, DVFS, droop and thermal
limits (15 R390 to R409). -/

namespace Sys2Proof.Machine

/-! ### Domains (15 Tables 15-1, 15-2, R392) -/

/-- Whether the population of its die includes a clay stack (10 R242, 15 R392). -/
def stackIn (s : State) (k : Nat) : Bool :=
  let n := objGet s 0x2201 (1 + k / 4)
  decide (n = 0x2CB4160000) || (decide (n ≠ 0) && Config.stackServes k)

/-- Whether the part that a domain serves is enabled (15 R392), and not taken down for want of its module (17 R459). -/
def partEnabled (s : State) (d : Nat) : Bool :=
  if s.power.down.getLsbD d then false
  else if 16 ≤ d ∧ d < 24 then decide (objGet s 0x2200 1 = 1) && stackIn s (d - 16)
  else if d = 24 then
    decide (objGet s 0x2200 2 = 1) && (List.range 4).any fun k => decide (objGet s 0x2202 (5 + k) = 1)
  else if 25 ≤ d ∧ d < 29 then
    let k := d - 25
    (objGet s 0x2310 1).testBit k && (decide (objGet s 0x2301 (2 * k + 1) ≠ 0) || decide (objGet s 0x2301 (2 * k + 2) ≠ 0))
  else if d = 29 then decide (objGet s 0x2100 1 = 1) || s.board.straps.getLsbD 0
  else true

/-- Whether a power state keeps a domain on. -/
def stateKeeps (st d : Nat) : Bool :=
  if d = 0 then true
  else if 6 ≤ d ∧ d < 16 then decide (st = 0)
  else if 25 ≤ d ∧ d < 29 then decide (st ≤ 1)
  else decide (st ≤ 2)

/-- The domains of a state. -/
def domainsFor (s : State) (st : Nat) : BitVec 32 :=
  BitVec.ofNat 32 (((List.range 30).map fun d => if stateKeeps st d && partEnabled s d then 2 ^ d else 0).sum)

/-- The domains follow the enables of the optional parts in the state in force. Where HB, LP or PCI goes down, a drain of slot L
is abandoned (14 R380); the ports follow the light. -/
def refreshDomains (s : State) : State :=
  let old := s.power.domains
  let new := domainsFor s s.power.state
  let s := s.onPower fun p => { p with domains := new }
  let lost := (List.range 30).any fun d => (decide (16 ≤ d ∧ d < 25) || decide (d = 29)) && old.getLsbD d && !(new.getLsbD d)
  let s := if lost then abandonDrain s else s
  refreshLight (if old.getLsbD 29 && !(new.getLsbD 29) then nvmeGone s else s)

/-! ### Requests and transitions (15 R393 to R397) -/

/-- The state that the two requests ask for: the lower-power one. -/
def wantedState (s : State) : Nat := max (objGet s 0x3000 1) (objGet s 0x3000 2)

/-- Whether a DMA, checkpoint or collective tag is in flight. -/
def anyTag (s : State) : Bool :=
  !s.dma.queue.isEmpty || !s.dma.held.isEmpty || !s.dma.convs.isEmpty || !s.coll.queue.isEmpty || !s.coll.held.isEmpty
    || !s.fab.cueWait.isEmpty || s.ckpt.job.isSome || !s.ckpt.returns.isEmpty

/-- Whether a lower state may take effect now; a debugger's halt counts as the stream stopped (16 R427) (DEDUCED, log entry 47). -/
def mayLower (s : State) : Bool := (!s.seq.running || s.trust.halted) && !(anyTag s)

/-- POWER_TRANSITION_BEGIN: a requested state other than the one in force begins; a lower one once the stream has stopped and
every tag has ended. On the way to D3hot or D3cold every ACTIVE port announces shutdown. In the recovery state and when
decommissioned only D3cold is reachable (16 Table 16-7), as without input power (18 R472), and D3cold waits while the flash image is written (16 R420). -/
def powerBegin (s : State) : State :=
  let w := wantedState s
  if s.power.target.isSome ∨ w = s.power.state ∨ s.trust.boot ≠ 3 ∨ s.trust.security = 4 ∨ s.board.p48v = false then s
  else if w = 3 ∧ s.trust.updStatus = 4 then s
  else if s.power.state < w ∧ mayLower s = false then s
  else
    let s := s.onPower fun p => { p with target := some w }
    if s.power.state < w ∧ 2 ≤ w then announceShutdown s else s

/-- The contents that entry to damped or below loses (15 R394): everything of the SEQ and Q domains, the step
angle and step count among it (DEDUCED, log entry 21). The cue, collective, checkpoint and dictionary registers lie elsewhere. -/
def loseSlices (s : State) : State :=
  let c := s.ctl
  { s with
    seq := resetSeq,
    cnt := { s.cnt with angle := 0, step := 0, repeatPending := false, stopAtMark := false, escalating := false, escCode := 0,
                        ipend := 0, watchdog := 0, bundlesInBeat := 0, restarts := 0, firstStep := false },
    ctl := { resetCtl with
      cqsel := c.cqsel, cqen := c.cqen, cqref := c.cqref, clerr := c.clerr, clelog := c.clelog, clverd := c.clverd,
      clnfl := c.clnfl, ckstat := c.ckstat, odsel := c.odsel, oddat := c.oddat, odst := c.odst, odw := c.odw, odwhit := c.odwhit },
    sc := { x := [], f := [] }, work := [], uses := [], tiles := resetTiles, elem := resetElem, dma := { resetDma with nextReq := s.dma.nextReq },
    rel := { s.rel with undo := [], samples := [], sampleData := [] } }

/-- Every dirty line of both caches is written back, and counted (15 R391, 10 R253). -/
def writeBackAll (s : State) : State :=
  let dirty := s.cache.filter fun e => e.2.dirty
  let s := dirty.foldl (fun s e => traffic (objAdd s 0x7220 7 1) e.1 true 128) s
  { s with cache := storeMap noLine (fun _ c => { c with dirty := false }) s.cache }

/-- POWER_TRANSITION_COMPLETE: the domain sequence completes and the state in force changes. The modules are the identities
that the steward reads on the way. -/
def powerComplete (s : State) (ids : List (Nat × ModuleId)) : State :=
  match s.power.target with
  | none => s
  | some t =>
    if s.power.state < t ∧ mayLower s = false then s
    else if t = 3 then
      -- a transition that takes PCI down signals nothing for the stop that it makes (17 R442)
      let s := if s.seq.running then s.emit (.stream false 0) else s
      loseAllDomains (writeBackAll (s.onPower fun p => { p with target := none }))
    else
      -- a stream that a debugger holds halted ends here (01 R25)
      let s := if s.power.state < t then stopStream s else s
      let lower := decide (s.power.state = 0) && decide (1 ≤ t)
      let old := s.power.domains
      let s := s.onPower fun p => { p with state := t, target := none }
      let s := if lower then loseSlices s else s
      let s := if old.getLsbD 24 then s else if t ≤ 2 ∧ objGet s 0x2200 2 = 1 then configureMarl s ids else s
      let s := s.onPower fun p => { p with domains := domainsFor s t }
      let s := (List.range 4).foldl (fun s k =>
        if domOn s (25 + k) && !(old.getLsbD (25 + k)) then readLaser s k (idIn ids (0x10 + k)) else s) s
      signal (refreshLight (loadIfNeeded s)) 5

/-! ### The mute (15 R400, R401, R403) -/

/-- The bit-reversal of a four-bit number. -/
def rev4 (j : Nat) : Nat := j % 2 * 8 + j / 2 % 2 * 4 + j / 4 % 2 * 2 + j / 8 % 2

/-- Whether the current clk of the frame is withheld. -/
def withheld (s : State) : Bool := decide (rev4 (s.cnt.frame % 16) < s.power.mute)

/-- The largest of the three mute levels: the next one in force. -/
def muteWanted (s : State) : Nat := max s.power.capMute (max s.power.droopMute s.power.thermalMute)

/-- MUTE_CHANGE_EFFECT: at a frame boundary the mute in force becomes the level wanted. -/
def muteEffect (s : State) : State :=
  if s.cnt.frame % 16 = 0 then s.onPower fun p => { p with mute := muteWanted s } else s

/-! ### DVFS (15 R404, R405, R407) -/

/-- The set voltage of a point, in mV: 60 mV above its characterised minimum (15 R404). -/
def setMv (k : Nat) : Nat := Config.vMin k + 60

/-- How far the supply is to stand above the set voltage of the point in force: at the set voltage of the point to which it is to rise before the
clock switches (15 R405). -/
def supplyWanted (s : State) : Int :=
  match s.power.dvfsNext with
  | some k => if k < s.power.dvfs then (setMv k : Int) - setMv s.power.dvfs else 0
  | none => 0

/-- 2 µs of the supply: it moves at 10 mV/µs to where it is wanted, a droop notwithstanding (15 R405, R407). -/
def moveSupply (s : State) : State :=
  let w := supplyWanted s
  s.onPower fun p => { p with supply := if p.supply < w then min w (p.supply + 20) else max w (p.supply - 20) }

/-- Ask for another point. -/
def askPoint (s : State) (k : Nat) : State := s.onPower fun p => { p with dvfsNext := if k = p.dvfs then none else some k }

/-- The point that will be in force once a pending switch is done. -/
def pointDue (s : State) : Nat := s.power.dvfsNext.getD s.power.dvfs

/-- DVFS_CLOCK_SWITCH: at a frame boundary; an increase waits until the supply has risen to the new set voltage and a droop has been clear for 10
µs (15 R405, R407). -/
def clockSwitch (s : State) : State :=
  match s.power.dvfsNext with
  | none => s
  | some k =>
    if s.cnt.frame % 16 ≠ 0 then s
    else if k < s.power.dvfs ∧ (s.power.quiet < 5 ∨ s.power.tripped ≠ 0 ∨ s.power.supply < supplyWanted s) then s
    else
      objAdd (s.onPower fun p => { p with
        dvfs := k, dvfsNext := none, supply := p.supply + setMv p.dvfs - setMv k }) 0x7432 3 1

/-! ### Estimator and controller (15 R398, R399, R402, R403) -/

/-- The cap in force, W. -/
def capInForce (s : State) : Nat := min (objGet s 0x3010 1) (objGet s 0x3010 2)

/-- Objects 7220h:01 to :06 and the flits sent, as they show now. -/
def activityShown (s : State) : List Nat :=
  ((List.range 6).map fun i => objGet s 0x7220 (1 + i)) ++ [s.out.countP fun o => match o with
    | .flit _ _ => true
    | _ => false]

/-- The activity counters of the window: array cell-clks by format, matrix-vector multiply-accumulates, lane operations, scratch accesses, cache
accesses, clay bytes, marl bytes, flits sent (15 R398). A counter of 7220h that was cleared in the window counts from there. -/
def ownActivity (s : State) : List Nat :=
  let now := activityShown s
  let d := fun i => let a := now.getD i 0; let b := s.power.shown.getD i 0; if a < b then a else a - b
  ((List.range 19).map fun k => storeGet 0 s.power.acts k) ++ [d 4 + d 5, d 0 + d 1, d 2 + d 3, d 6]

/-- The estimate of a window, mW: leakage at the set voltage, and weighted activity, with the common gain. `activity` is what each counter shows
beyond the events that the model counts itself (DESIGN CHOICE, log entry 6). -/
def estimateMw (s : State) (activity : List Nat) : Nat :=
  let static := Config.staticPower s.power.domains.toNat (objGet s 0x3030 1) (setMv s.power.dvfs)
  let own := ownActivity s
  let dynamic := ((List.range (max own.length activity.length)).map fun k =>
    Config.activityWeight k * (own.getD k 0 + activity.getD k 0)).sum
  (static + dynamic) * s.power.gain / 1000000

/-- The controller's step on an estimate (15 Table 15-5). -/
def capStep (s : State) (mw : Nat) : State :=
  let p := s.power
  let c := capInForce s * 1000
  let above := decide (c < mw)
  let under := decide (100 * mw < 97 * c)
  let due := pointDue s
  let at0 := if p.capMute = 0 then p.atZero + 1 else 0
  let at12 := if p.capMute = 12 then p.atTwelve + 1 else 0
  let s := s.onPower fun p => { p with atZero := at0, atTwelve := at12 }
  if above ∧ p.capMute < 12 then s.onPower fun p => { p with capMute := p.capMute + 1, atTwelve := 0 }
  else if above ∧ 250 ≤ at12 ∧ due < 3 then
    askPoint (s.onPower fun p => { p with capMute := 6, atTwelve := 0, atZero := 0 }) (due + 1)
  else if under ∧ 0 < p.capMute then s.onPower fun p => { p with capMute := p.capMute - 1, atZero := 0, atTwelve := 0 }
  else if under ∧ 5000 ≤ at0 ∧ p.dvfsNext.isNone ∧ objGet s 0x3020 1 < p.dvfs ∧ p.throttled = false
      ∧ 100 * mw * pointMhz (p.dvfs - 1) < 97 * c * pointMhz p.dvfs then askPoint s (p.dvfs - 1)
  else s

/-- Amounts taken from a total, the first ones first. -/
def shareOut (total : Nat) (l : List Nat) : List Nat :=
  match l with
  | [] => []
  | a :: r => min a total :: shareOut (total - min a total) r

/-- Charge the energy of an estimate: quarters as their own activity and leakage are, the rest to the device-common account; of the
quarters' energy, the actions of cues to their queues and the stream's own to the queue of PWQ, so that both accounts come to one total
(15 R399, R410; DEDUCED, log entry 6). -/
def chargeEnergy (s : State) (uj : Nat) (quarters queues : List Nat) : State :=
  let qs := shareOut uj (quarters.take 8)
  let pwq := field s.ctl.pwq 3 0
  let cues := shareOut qs.sum (((queues.take 16).zipIdx).map fun q => if q.2 = pwq then 0 else q.1)
  let s := ((qs.zipIdx).foldl (fun s q => objAdd s 0x7430 (1 + q.2) q.1) s)
  let s := objAdd s 0x7430 9 (uj - qs.sum)
  let s := ((cues.zipIdx).foldl (fun s q => objAdd s 0x7431 (1 + q.2) q.1) s)
  objAdd s 0x7431 (1 + pwq) (qs.sum - cues.sum)

/-- The energy of a queue's actions in the window, in µJ: of the bytes that actions started by its cues have moved, at the weight of clay bytes, and
what the command gives beyond (15 R399; DESIGN CHOICE, log entry 6). -/
def queueShares (s : State) (queues : List Nat) : List Nat :=
  (List.range 16).map fun q => queues.getD q 0 + Config.activityWeight 20 * storeGet 0 s.power.cueWork q * 2 / 1000

/-- POWER_ESTIMATE. The controller holds μ_c while the steward restarts (16 R419). -/
def powerEstimateStep (s : State) (activity quarters queues : List Nat) : State :=
  let mw := estimateMw s activity
  let s := objSet s 0x3040 3 (mw / 1000)
  let s := chargeEnergy s (mw * 2 / 1000) quarters (queueShares s queues)
  let s := moveSupply (s.onPower fun p => { p with
    quiet := if p.tripped = 0 then min 5 (p.quiet + 1) else 0, acts := [], shown := activityShown s, cueWork := [] })
  if s.trust.restarting then s else capStep s mw

/-- ESTIMATOR_GAIN_CORRECTION: the common gain moves toward the measurement by at most 1 %. -/
def gainCorrect (s : State) (measured estimated : Nat) : State :=
  let g := s.power.gain
  let want := if estimated = 0 then g else g * measured / estimated
  let lo := g - g / 100
  let hi := g + g / 100
  let new := max lo (min hi want)
  let s := s.onPower fun p => { p with gain := new }
  if new = g then s else objAdd s 0x7432 6 1

/-! ### Droop (15 R406) -/

/-- A detector trips: the droop mute goes to 16. -/
def droopTripped (s : State) (d : Nat) : State :=
  objAdd (s.onPower fun p => { p with
    droopMute := 16, tripped := p.tripped ||| BitVec.ofNat 16 (2 ^ d), recovering := false, quiet := 0 }) 0x7432 2 1

/-- Every tripped detector has seen its supply for 1 µs: the droop mute begins to fall. -/
def droopRecovered (s : State) : State :=
  if s.power.tripped = 0 then s else s.onPower fun p => { p with tripped := 0, recovering := true }

/-- 64 clk on, the droop mute falls by 1. -/
def droopStep (s : State) : State :=
  if s.power.recovering ∧ 0 < s.power.droopMute then
    s.onPower fun p => { p with droopMute := p.droopMute - 1, recovering := decide (1 < p.droopMute) }
  else s

/-! ### Thermal limits (15 R408, R409) -/

/-- The hottest of a list, with its index. -/
def hottest (l : List Int) : Nat × Int :=
  (l.zipIdx).foldl (fun best x => if best.2 < x.1 then (x.2, x.1) else best) (0, l.headD 0)

/-- A thermal trip: the stream stops, the compute domains and the optical engines go down, THERMTRIP_N asserts, the transition
to D3cold completes, the trip is logged and a tocsin of kind 5h goes out (15 R409). -/
def thermalTrip (s : State) (sensor : Nat) (t : Int) : State :=
  let s := if s.seq.running then s.emit (.stream false 0) else s
  let s := writeBackAll (announceShutdown (sendTocsin s 5 0 0))
  let s := (s.onPower fun p => { p with
    trips := takeLast 16 (p.trips ++ [(s.fab.beat.count, sensor, t)]), thermtrip := true }).emit (.pin 0 true)
  loseAllDomains s

/-- THERMAL_SENSOR_READ: 32 quarter sensors, 8 of the dies' peripheries, 8 of the optical engines, and the stacks' own, all in
1/8 °C (15 Table 15-7). What the read measures of the core supplies is a free value (DESIGN CHOICE, log entry 40). -/
def thermalRead (s : State) (sensors stackTemps : List Int) : State :=
  let pad := (List.range 48).map fun i => sensors.getD i (s.power.sensors.getD i 0)
  let top := hottest (pad.take 40)
  let t := top.2
  let was := signedOf 32 (objGet s 0x3030 1)
  let (v0, s) := freshFree s
  let (v1, s) := freshFree s
  let s := s.onPower fun p => { p with sensors := pad, volts := [v0.setWidth 16, v1.setWidth 16] }
  let s := objSet s 0x3030 1 (patternOf 32 t)
  let s := (List.range 8).foldl (fun s q => objSet s 0x3030 (2 + q) (patternOf 32 (hottest ((pad.drop (4 * q)).take 4)).2)) s
  let s := ((stackTemps.take 8).zipIdx).foldl (fun s k => objSet s 0x3030 (0xA + k.2) (patternOf 32 k.1)) s
  let hot := decide (840 ≤ t)
  let limitN := if hot then s.power.limitN + 1 else 0
  if 880 ≤ t ∨ 50000 ≤ limitN then thermalTrip s top.1 t
  else
    let s := s.onPower fun p => { p with limitN := limitN }
    -- warning
    let s := if was < 760 ∧ 760 ≤ t then raiseInt (s.onPower fun p => { p with warnings := p.warnings + 1 }) 0x15 else s
    -- throttle
    let s := if was < 800 ∧ 800 ≤ t then raiseInt s 0x15 else s
    let s := if 800 ≤ t then
        let n := s.power.hot + 1
        let s := s.onPower fun p => { p with throttled := true, hot := n % 500 }
        if n = 500 ∧ pointDue s < 3 then askPoint s (pointDue s + 1) else s
      else if t < 776 then s.onPower fun p => { p with throttled := false } else s
    -- limit
    let s := if hot && !s.power.limit then
        raiseInt (objAdd (s.onPower fun p => { p with limit := true, thermalMute := 16 }) 0x7432 4 1) 0x15
      else s
    if s.power.limit ∧ t < 816 then s.onPower fun p => { p with limit := false, thermalMute := 0 } else s

/-! ### The job cap (15 R402) -/

/-- A cue of action 5h: the job cap is set, clamped to 450 to 1,500 W; a change raises interrupt 16h. -/
def cueCap (s : State) (w : Nat) : State :=
  let v := max 450 (min 1500 w)
  let s := if v = w then s else objAdd s 0x7432 5 1
  if v = objGet s 0x3010 1 then s else raiseInt (objSet s 0x3010 1 v) 0x16

end Sys2Proof.Machine
end

