-- ==== Sys2Proof/Machine/Cues.lean ====
section
/-! DEFINITION. The cue table: commits, scans, firings and their actions, the start and stop of the stream, and what a MARK
does to the step (11 R302 to R311, 01 R20, 09 R224, 14 R382). -/

namespace Sys2Proof.Machine

/-! ### Entries (11 Table 11-7) -/

def cueV (c : Cue) : Bool := bit c.w0 63
def cueTrig (c : Cue) : Nat := field c.w0 62 61
def cueRpt (c : Cue) : Bool := bit c.w0 60
def cueQ (c : Cue) : Nat := field c.w0 59 56
def cueAct (c : Cue) : Nat := field c.w0 55 52
def cueOwn (c : Cue) : Nat := field c.w0 51 50
def cueWhen (c : Cue) : Nat := field c.w1 47 0
def cuePer (c : Cue) : Nat := field c.w0 31 0
/-- ARG. -/
def cueArg (c : Cue) : W128 := BitVec.ofNat 128 (c.w2.toNat + c.w3.toNat * 2 ^ 64)

/-- The read-only fields of W0 replaced: OWN, ST, LATE, CAUSE. -/
def cueState (w0 : W64) (own st : Nat) (late : Bool) (cause : Nat) : W64 :=
  setField (setBit (setField (setField w0 51 50 own) 49 47 st) 46 late) 39 32 cause

/-! ### Commits (11 R302, R303, R306) -/

/-- Whether the ARG of an action has a reserved bit set (11 Table 11-8; 12 R316, 14 R378, 15 R402, 13 R366). -/
def argBad (act : Nat) (arg : W128) : Bool :=
  if act = 3 then decide (field arg 63 8 ≠ 0)
  else if act = 4 then !(ckArgOk arg)
  else if act = 5 then decide (field arg 127 16 ≠ 0)
  else if act = 6 then decide (field arg 127 32 ≠ 0)
  else false

/-- Whether the words of a commit are malformed: a reserved bit, TRIG or ACT, or a beat entry that repeats with a period of zero; V = 0
excuses none of them. -/
def cueBad (c : Cue) : Bool :=
  decide (field c.w0 45 40 ≠ 0) || decide (field c.w1 63 48 ≠ 0)
    || (decide (cueTrig c = 1) && decide (field c.w1 47 16 ≠ 0))
    || decide (2 ≤ cueTrig c) || decide (cueAct c = 0) || decide (6 < cueAct c)
    || (decide (cueTrig c = 0) && cueRpt c && decide (cuePer c = 0)) || argBad (cueAct c) (cueArg c)

/-- How a commit ended. -/
inductive CueRes where
  | committed | aborted | nothing | refused
deriving DecidableEq, Repr

/-- A refused commit: CQREF holds the entry and 01h malformed or 02h no rights (11 Table 11-9). -/
def refuseCue (s : State) (e reason : Nat) : State :=
  objAdd (s.onCtl fun c => { c with cqref := BitVec.ofNat 64 (e * 2 ^ 16 + reason) }) 0x7300 0xD 1

/-- Commit W0 with the staged words, the stored words standing for those not staged; OWN is 11b for M level and the steward,
01b for every other writer. A code word of the entry that is written in part is merged (13 R479). -/
def commitCue (s : State) (e own : Nat) (host : Bool) (w0 : W64) (staged : Store W64) : State × CueRes :=
  let old := cueGet s e
  let put := fun (k : Nat) => decide (k = 0) || staged.any fun x => decide (x.1 = k)
  let cov := fun (w : Nat) => 8 * b2n (put (2 * w)) + 8 * b2n (put (2 * w + 1))
  let new : Cue :=
    { w0 := w0, w1 := storeGet old.w1 staged 1, w2 := storeGet old.w2 staged 2, w3 := storeGet old.w3 staged 3, fired := false,
      host := host, marks := [] }
  if cueBad new then (refuseCue s e 1, .refused)
  else if 960 ≤ e ∧ own ≠ 3 then (refuseCue s e 2, .refused)
  else if cueV new then (cueMerge s e cov old.marks { new with w0 := cueState w0 own 1 false 0 }, .committed)
  else
    let live := cueV old && !(decide (s.fab.scanned = s.cnt.clk + 1) && s.fab.firedNow.contains e)
    let keep := { new with
      w0 := cueState w0 own (if live then 4 else field old.w0 49 47) (bit old.w0 46) (field old.w0 39 32), fired := old.fired }
    (cueMerge s e cov old.marks keep, if live then .aborted else .nothing)

/-! ### Starting and stopping the stream (11 R311, 15 R396) -/

/-- A stream starts at an address, for a queue: X and F clear, X1 as given, native form, level M, tiles unconfigured, bindings,
records and stash cleared, the vendor entries written; vector 3 is signalled (02 R46, 03 R65, 04 R99, 05 R119, 06 R143, 08 R204,
09 R228) (DEDUCED, log entry 42). -/
def beginStream (s : State) (q : Nat) (pc : IAddr) (x1 : W64) : State :=
  let s := s.onSc fun _ => { x := [], f := [] }
  let s := setX s 1 x1
  let s := s.onSeq fun k => { k with
    running := true, pc := pc, compact := false, pl := 3, branch := none, change := none, lines := [], pmsync := [],
    issueFrom := s.cnt.clk, awaiting := [], wait := [], waitBeats := 0, past := false, deferred := [], entries := [] }
  let s := s.onTiles fun t => { t with cfg := [], accepted := [], recs := [], recMeta := [], active := [], shadow := [] }
  let s := s.onElem fun e => { e with vendor := true, vendorOver := [] }
  let s := stashReset s
  let s := s.onCnt fun c => { c with
    stopAtMark := false, escalating := false, watchdog := 0, firstStep := true, stepsRun := 0 }
  let s := s.onCtl fun c => { c with pwq := BitVec.ofNat 64 (q % 16) }
  let s := s.onRel fun r => { r with jobOpen := true }
  let s := s.onTrust fun t => { t with halted := false }
  signal (s.emit (.stream true pc.toNat)) 3

/-! ### The sequencer's checks on itself (13 R355) -/

/-- A sequencer mismatch: record 0015h names a beat, the stream stops and starts again at the runtime address; the second restart within a step is
a fail verdict (13 R355). -/
def seqMismatch (s : State) (beat : BitVec 48) : State :=
  let s := fileToll s (tollOf 0x15 3 beat.toNat)
  let s := (stopStream s).onCnt fun c => { c with restarts := c.restarts + 1 }
  if 2 ≤ s.cnt.restarts then failVerdict s
  else if objGet s 0x2400 1 = 0 then s
  else beginStream s (field s.ctl.pwq 3 0) (BitVec.ofNat 22 (objGet s 0x2400 1)) 0

/-- The issue logic decodes its control and loop state: a corrected word is reported as one of class 0Ah and written back; an uncorrectable one
is a mismatch of the current beat, and the restart writes the words anew (13 R355; DESIGN CHOICE, log entry 136). -/
def meetControl (s : State) : State :=
  let mended := s.onSeq fun q => { q with ctrlMark := .good }
  match s.seq.ctrlMark with
  | .good => s
  | .corrected sym synd => reportCorrection mended 0xA 0 0 0 0 1 sym synd
  | .uncorrectable _ | .poison => seqMismatch mended s.fab.beat.count

/-- A start of OWN and ARG[21..0]: at the address, or at the runtime address with X1. -/
def startAs (s : State) (q : Nat) (own : BitVec 2) (arg : Nat) : State :=
  if own = 3 then beginStream s q (BitVec.ofNat 22 arg) 0
  else beginStream s q (BitVec.ofNat 22 (objGet s 0x2400 1)) (BitVec.ofNat 64 (arg % 2 ^ 22))

/-- A start cue: a failure's CAUSE, or 0. While damped the device wakes first (15 R396). While the operations of an ended job complete it is
refused as while the stream runs (DESIGN CHOICE, log entry 135). -/
def startCue (s : State) (q : Nat) (own : BitVec 2) (arg : Nat) : State × Nat :=
  if s.seq.running ∨ s.power.wake.isSome ∨ s.rel.ending = true then (s, 1)
  else if own ≠ 3 ∧ objGet s 0x2400 1 = 0 then (s, 3)
  else if s.power.state = 0 then (startAs s q own arg, 0)
  else if s.power.state = 1 ∧ objGet s 0x3000 1 ≤ 1 then
    ((settleViews (objSet s 0x3000 1 0) 0x3000 1).onPower fun p => { p with wake := some (q, own, arg), target := some 0 }, 0)
  else (s, 4)

/-- A stop cue: at once as HALT, or at the next MARK to angle 0. -/
def stopCue (s : State) (atOnce : Bool) : State × Nat :=
  if !s.seq.running then (s, 2)
  else if atOnce then (stopStream s, 0)
  else (s.onCnt fun c => { c with stopAtMark := true }, 0)

/-- STREAM_START_AFTER_WAKE: the last quarter is on. -/
def startAfterWake (s : State) : State :=
  match s.power.wake with
  | none => s
  | some (q, own, arg) =>
    if s.power.state = 0 then startAs (s.onPower fun p => { p with wake := none }) q own arg else s

/-! ### Actions (11 Table 11-8, R310) -/

/-- A DMA action enters the issue queue, or waits at its head while it is full. -/
def cueDma (s : State) (q : Nat) (own : BitVec 2) (arg : W128) : State :=
  let mask := groupMask s (field arg 60 58)
  let x : Xfer := ⟨BitVec.ofNat 64 (field arg 51 0), mask, BitVec.ofNat 6 (field arg 57 52), if own = 3 then 3 else 1, s.seq.spr,
    s.cnt.op, s.cnt.clk, none, some q⟩
  let s := nextOp s
  if mask = 0 ∨ domOn s 6 = false then s
  else if dmaFull s then s.onFab fun f => { f with cueWait := f.cueWait ++ [x] }
  else s.onDma fun d => { d with queue := d.queue ++ [x] }

/-- Open collective phase k (12 R316); phase 0 is always open. -/
def openPhase (s : State) (k : Nat) : State :=
  if k = 0 then s else s.onColl fun e => { e with phases := storeSet false e.phases k true }

/-- Carry out the action of an entry: the CAUSE of a failure, or 0. -/
def dispatchCue (s : State) (c : Cue) : State × Nat :=
  let arg := cueArg c
  let own : BitVec 2 := BitVec.ofNat 2 (cueOwn c)
  match cueAct c with
  | 1 => if bit arg 22 then stopCue s (bit arg 23) else startCue s (cueQ c) own (field arg 21 0)
  | 2 => (cueDma s (cueQ c) own arg, 0)
  | 3 => (openPhase s (field arg 7 0), 0)
  | 4 => (ckCue s (some (cueQ c)) own arg, 0)
  | 5 => (cueCap s (field arg 15 0), 0)
  | 6 => (firePeal s (field arg 15 0) (field arg 31 16), 0)
  | _ => (s, 0)

/-! ### Firing (11 R304 to R308) -/

/-- The smallest WHEN + k·PER above a count. -/
def nextWhen (when' per count : Nat) : Nat :=
  if per = 0 then when' else if count < when' then when' else when' + ((count - when') / per + 1) * per

/-- An entry fires: its ST, LATE and CAUSE, its disarming or next WHEN, its action, and the counts of 7300h. `count` is the
boundary's count of a beat scan. -/
def fireCue (s : State) (e : Nat) (late : Bool) (count : Nat) : State :=
  let c := cueGet s e
  let beat := decide (cueTrig c = 0)
  let w1 := if beat && cueRpt c then setField c.w1 47 0 (nextWhen (cueWhen c) (cuePer c) count) else c.w1
  let w0 := cueState (setBit c.w0 63 (cueRpt c)) (cueOwn c) 2 late 0
  let s := cueSet s e { c with w0 := w0, w1 := w1, fired := !beat || c.fired }
  let s := s.onFab fun f => { f with firedNow := f.firedNow ++ [e] }
  let s := objAdd s 0x7300 0xA 1
  let s := if late then objAdd s 0x7300 0xB 1 else s
  let (s, cause) := dispatchCue s c
  if cause = 0 then s
  else
    let c' := cueGet s e
    let s := cueSet s e { c' with w0 := cueState c'.w0 (cueOwn c') 3 late cause }
    let s := objAdd s 0x7300 0xC 1
    if c.host then signal s 2 else s

/-- Whether a queue is enabled. -/
def queueOn (s : State) (q : Nat) : Bool := bit s.ctl.cqen q

/-- Examine one entry in a beat scan for a boundary's count. -/
def examineBeat (s : State) (count e : Nat) : State :=
  let s := meetCue s e
  let c := cueGet s e
  if cueV c && decide (cueTrig c = 0) && queueOn s (cueQ c) && decide (cueWhen c ≤ count) then
    fireCue s e (decide (cueWhen c < count)) count
  else s

/-- Examine one entry in an angle scan. -/
def examineAngle (s : State) (angle e : Nat) : State :=
  let s := meetCue s e
  let c := cueGet s e
  if cueV c && decide (cueTrig c = 1) && queueOn s (cueQ c) && !c.fired && decide (cueWhen c ≤ angle) then
    fireCue s e false 0
  else s

/-- The eight entries of a group. -/
def scanGroup (g : Nat) : List Nat := (List.range 8).map (8 * g + ·)

/-- A scan that has examined a group: gone after the last. -/
def scanNext (l : List (Nat × Nat × Nat)) : List (Nat × Nat × Nat) :=
  match l with
  | [] => []
  | (t, g, v) :: r => if 127 ≤ g then r else (t, g + 1, v) :: r

/-- The examination of this clk, once (11 R307): a beat scan's group if one is due, else an angle scan's. An emptied domain
ends the scans. -/
def scanNow (s : State) : State :=
  if s.fab.scanned = s.cnt.clk + 1 then s
  else
    let before := s
    let s := s.onFab fun f => { f with scanned := s.cnt.clk + 1, firedNow := [] }
    match s.fab.beatScans, s.fab.angleScans with
    | (t, g, v) :: r, a =>
      if t ≤ s.cnt.clk then
        guardReset before ((scanGroup g).foldl (fun s e => examineBeat s v e)
          (s.onFab fun f => { f with beatScans := scanNext f.beatScans }))
      else match a with
        | (t', g', v') :: _ =>
          if t' ≤ s.cnt.clk then
            guardReset before ((scanGroup g').foldl (fun s e => examineAngle s v' e)
              (s.onFab fun f => { f with angleScans := scanNext f.angleScans, beatScans := (t, g, v) :: r }))
          else s
        | [] => s
    | [], (t', g', v') :: _ =>
      if t' ≤ s.cnt.clk then
        guardReset before ((scanGroup g').foldl (fun s e => examineAngle s v' e)
          (s.onFab fun f => { f with angleScans := scanNext f.angleScans }))
      else s
    | [], [] => s

/-! ### MARK (01 R20, R21) -/

/-- The drain check's selection for the step that begins (09 R224): the reason 01b start-up, 10b recovery, 11b period, or none; of
several the first of these (DESIGN CHOICE, log entry 129). -/
def drainReason (s : State) : Nat :=
  let sel := objGet s 0x2032 1
  let per := objGet s 0x2032 2
  if sel.testBit 0 ∧ s.cnt.firstStep then 1
  else if sel.testBit 1 ∧ s.cnt.recoveryArm then 2
  else if sel.testBit 2 ∧ per ≠ 0 ∧ s.cnt.step.toNat % per = 0 then 3
  else 0

/-- Whether a stratum is more than B steps old (14 R382). -/
def stratumOld (s : State) (k : Nat) : Bool :=
  let b := objGet s 0x4104 1
  let step := objGet s 0x4110 k
  if step = 2 ^ 64 - 1 then decide (b < s.cnt.stepsRun) else decide (step + b < objGet s 0x4110 7)

/-- LOSS_BOUND_CHECK: interrupt 17h once, counted in 7420h:05. -/
def lossCheck (s : State) : State :=
  if (List.range 3).any fun i => (objGet s 0x4104 3).testBit i && stratumOld s (i + 1) then objAdd (raiseInt s 0x17) 0x7420 5 1
  else s

/-- A new step: the step count advances, the scale slots advance, the exchange starts at attempt 0, DCHK.ARM follows its
selection (01 R20, 07 R174, 12 R334, 09 R224). -/
def newStep (s : State) : State :=
  let s := s.onCnt fun c => { c with step := c.step + 1, restarts := 0, stepsRun := c.stepsRun + 1 }
  let s := stepExchange (startAdvance s s.seq.spr)
  let r := drainReason s
  let s := s.onCtl fun c => { c with dcArm := decide (r ≠ 0), dcReason := BitVec.ofNat 2 r }
  s.onCnt fun c => { c with firstStep := false, recoveryArm := false }

/-- A MARK to angle 0 begins a step, or repeats one (01 R20): phases close, the angle entries' flags are cleared, the loss
bound is checked. The flags go at once; an angle scan that still runs goes on with its own angle, and what it fires then counts in the new
step (DESIGN CHOICE, log entry 128). -/
def markZero (s : State) : State :=
  let s := if s.cnt.repeatPending then s.onCnt fun c => { c with repeatPending := false } else newStep s
  let clear := fun (_ : Nat) (c : Cue) => if cueTrig c = 1 then { c with fired := false } else c
  let s := s.onFab fun f => { f with cues := storeMap idleCue clear f.cues }
  lossCheck (closePhases s)

/-- MARK: the angle, its scan from the next clk on, the watchdog count from zero (11 R305, 03 R480). -/
def markTo (s : State) (angle : BitVec 16) : State :=
  let s := s.onCnt fun c => { c with watchdog := 0, angle := angle }
  let s := if angle = 0 then markZero s else s
  s.onFab fun f => { f with angleScans := f.angleScans ++ [(s.cnt.clk + 1, 0, angle.toNat)] }

end Sys2Proof.Machine
end

