-- ==== Sys2Proof/Machine/Clock.lean ====
section
/-! DEFINITION. The passing of a clk: the work in flight that falls due, in order (02 R59 to R62). In one clk the landings
come first, then the bundle that issues, then the reads; what a read detects is held for the next boundary (03 R76). -/

namespace Sys2Proof.Machine

/-! ### Delivery (11 R276, R287, R291, Table 11-3) -/

/-- The device that a remote write in flight is addressed to, by request ID. -/
def destOfReq (s : State) (reqId : Nat) : Option Nat :=
  s.dma.held.findSome? fun h =>
    (h.out.find? fun f => decide (f.num % 65536 = reqId) && decide (0 < f.owed)).bind fun f =>
      match f.req.dst with
      | .remote dev _ => some dev
      | _ => none

/-- A remote write completion: of a checkpoint image, or of a DMA request; a refusal by the destination itself is cause 07h,
one by the neighbour of a dark destination 0Ah. -/
def takeCompletion (s : State) (f : Flit) : State :=
  let h := headOf f
  let req := field h 38 23
  let refused := decide (field h 22 21 = 1)
  match ckCompletion s req refused with
  | some s => s
  | none => remoteCompletion s req refused (if destOfReq s req = some (field h 113 100) then 7 else 0xA)

/-- A remote write addressed to this device: taken into the checkpoint window or refused, and its completion sent back. -/
def takeRemoteWrite (s : State) (f : Flit) : State :=
  let r := acceptRemote s f
  match forwardFlit r.1 8 (completionFor r.1 f (!r.2)) with
  | (s, some back) => takeCompletion s back
  | (s, none) => s

/-- A collective flit: one of another step or attempt, or a further copy, is discarded, and any other is kept; the engine takes up a message
when it is whole, by a command of its own (12 R324, R325). -/
def takeCollFlit (s : State) (f : Flit) : State :=
  let h := headOf f
  let key := (field h 113 100, field h 86 0)
  if field h 70 55 ≠ s.cnt.step.toNat % 65536 ∨ field h 54 52 ≠ s.coll.attempt.toNat % 8 then s
  else if s.coll.seen.any fun k => decide ((k.1, k.2.1) = key) then objAdd s 0x7310 8 1
  else s.onColl fun e => { e with seen := e.seen ++ [(key.1, key.2, (f.words.drop 1).take (field h 90 87))] }

/-- A flit for this device. A routed link-control flit refuses an early message, whose resend is a command of its own (12 R325). -/
def deliverFlit (s : State) (f : Flit) : State :=
  match field (headOf f) 94 91 with
  | 0 => takeRemoteWrite s f
  | 1 => takeCompletion s f
  | 2 => takeCollFlit s f
  | _ => s

/-- The flits of the inbox are taken up: those for this device are delivered, a collective flit that found its destination dark ends its
collective (11 R292, R293, 12 R332). -/
def drainInbox (s : State) : State :=
  s.fab.inbox.foldl (fun s x => if x.1 then loseColl s x.2 else deliverFlit s x.2) (s.onFab fun x => { x with inbox := [] })

/-! ### Work that falls due -/

/-- One landing or timed read. -/
def runMicro (s : State) (w : Work) : State :=
  match w.act with
  | .setX r v => setX s r v
  | .setF r v => setF s r v
  | .setVec d bits els => landVec s d bits els
  | .access a => accessDetect s a
  | .read a addrs => accessRead s a addrs
  | .store bytes _ => writeAs (.stream false) s bytes
  | .tcfg t word gn mask => landTcfg s t word gn mask
  | .rowRead m row => rowRead s m row
  | .rowLand m els scales last => rowLand s m els scales last
  | .prodBlock op => prodBlock s op
  | .prodRow op q i => prodRow s op q i
  | .prodLand op i => prodLand s op i
  | .drainLand _ _ vals => putBank s vals
  | .prodDone op => prodDone s op
  | .mvmStart j => mvmStart s j
  | .mvmLand j vals => mvmLand s j vals
  | .setL vals => putLanes s vals
  | .veRead j => veRead s j
  | .veMem m => vmDetect s m
  | .veLoad m off => vmLoad s m off
  | .veIndex m off => vmIndex s m off
  | .gathRead m slice lane addr => gathRead s m slice lane addr
  | .gathLand m => gathLand s m
  | .storeMarked bytes => writeMarkedAs (.stream true) 0 s bytes
  | .table slice entry image bad => landTable s slice entry image bad
  | .veIssue v => veStart s v
  | .scaleAdvance slot spr => advanceSlot s slot spr

/-- The activity counter of a piece of work and what it adds: the cells of an array for each slice that takes a row, a matrix-vector unit's
multiply-accumulates, lane operations, accesses to scratch (15 R398; DESIGN CHOICE, log entry 6). -/
def workActivity (s : State) (m : Micro) : Option (Nat × Nat) :=
  match m with
  | .prodRow op q _ =>
    (s.tiles.prods.find? fun p => decide (p.op = op)).map fun p =>
      (cfgFmt p.cfgA.word, 16384 * ((members p.cfgA.mask).filter fun sl => decide (sl / 20 = q)).length)
  | .mvmLand j vals => some (16, ((vals.map fun v => v.2.length).sum) * ((j.vec.headD (0, [])).2.length))
  | .veRead j => some (17, 256 * j.lanes.length)
  | .read _ addrs => some (18, addrs.length)
  | .rowRead _ _ | .store _ _ | .storeMarked _ | .gathRead _ _ _ _ | .veLoad _ _ | .veIndex _ _ | .mvmStart _ => some (18, 1)
  | .setX _ _ | .setF _ _ | .setVec _ _ _ | .access _ | .tcfg _ _ _ _ | .rowLand _ _ _ _ | .prodBlock _ | .prodLand _ _ | .drainLand _ _ _
  | .prodDone _ | .setL _ | .veMem _ | .gathLand _ | .table _ _ _ _ | .veIssue _ | .scaleAdvance _ _ => none

def noteWork (s : State) (m : Micro) : State :=
  match workActivity s m with
  | none => s
  | some (k, n) => s.onPower fun p => { p with acts := storeSet 0 p.acts k (storeGet 0 p.acts k + n) }

/-- Run the head of the work list while it is due: up to clk `clk`, reads of that clk only if `reads`. -/
def runDue (n : Nat) (clk : Nat) (reads : Bool) (s : State) : State :=
  match n with
  | 0 => s
  | k + 1 =>
    match s.work with
    | [] => s
    | w :: rest =>
      if w.due < clk ∨ (w.due = clk ∧ (w.phase = 0 ∨ reads = true)) then
        runDue k clk reads (guardReset s (withOp (Config.syllable w.op).toNat (fun s => runMicro (noteWork s w.act) w) { s with work := rest }))
      else s

/-- One clk that is not withheld: its cue examination, its reads, then the landings of the next (DESIGN CHOICE, log entry 1). -/
def tick (s : State) : State :=
  let s := pealMeets (drainInbox (engineStalls (scanNow s)))
  let s := runDue (s.work.length + 1) s.cnt.clk true s
  let s := s.onCnt fun c => { c with clk := c.clk + 1, frame := (c.frame + 1) % 16, writes := [] }
  let s := endTinv s
  let s := putBack (runDue (s.work.length + 1) s.cnt.clk false s)
  let s := finishJob (drainCues 1024 s)
  s.onSeq fun q => { q with awaiting := q.awaiting.filter fun op => s.work.any fun w => decide (w.op = op) }

/-- A withheld clk (15 R400): the stream and the units stand still, the DMA engines, the links and what they deliver do not, and it is counted in
7432h:01. -/
def withheldClk (s : State) : State :=
  let s := drainInbox (engineStalls s)
  objAdd (s.onCnt fun c => { c with frame := (c.frame + 1) % 16, withheld := c.withheld + 1, writes := [] }) 0x7432 1 1

/-- The withheld clk that come before the next one that is not (15 R400). `n` is fuel: a frame has 16 clk. -/
def passWithheld (n : Nat) (s : State) : State :=
  match n with
  | 0 => s
  | k + 1 => if withheld s then passWithheld k (withheldClk s) else s

/-- The passing of a clk in which nothing issues (DESIGN CHOICE, log entry 1). -/
def passClk (s : State) : State := if withheld s then withheldClk s else tick s

/-- n clk. -/
def advanceClk (n : Nat) (s : State) : State :=
  match n with
  | 0 => s
  | k + 1 => advanceClk k (tick s)

end Sys2Proof.Machine
end

