-- ==== Sys2Proof/Machine/Entry.lean ====
section
/-! DEFINITION. Taking a fault or an interrupt, escalation, and the return (03 R67 to R91, Tables 3-2 to 3-6): one shared
entry, one shared return. -/

namespace Sys2Proof.Machine

/-! ### Addresses and lines (02 R26 to R30) -/

/-- The last line. -/
def lastLine : Nat := 262143

/-- Syllables of a line. -/
def perLine (compact : Bool) : Nat := if compact then 14 else 12

/-- Whether an instruction address has a syllable index within its line (R29). -/
def addrOk (compact : Bool) (a : Nat) : Bool := decide (a % 16 < perLine compact)

/-- The address k syllables on; it may lie past the last line. -/
def stepAddr (compact : Bool) (a k : Nat) : Nat :=
  let i := a % 16 + k
  (a / 16 + i / perLine compact) * 16 + i % perLine compact

/-- A line as it is held, or else as it stands in program memory. -/
def lineAt (s : State) (n : Nat) : FLine :=
  match s.seq.lines.find? fun l => decide (l.num = n) with
  | some l => l
  | none =>
    let a := programBase + 32 * n
    { num := n, bits := BitVec.ofNat 168 (ofLe (peekBytes s a 21)),
      bad := badMark (markGet s (a / 16)) || badMark (markGet s (a / 16 + 1)) }

/-- Syllable k of the bundle at an address (R28). -/
def syllable (s : State) (compact : Bool) (a k : Nat) : Nat :=
  let x := stepAddr compact a k
  let b := (lineAt s (x / 16)).bits.toNat
  if compact then b / 2 ^ (156 - 12 * (x % 16)) % 2 ^ 12 else b / 2 ^ (154 - 14 * (x % 16)) % 2 ^ 14

/-- Whether the line of syllable k is poisoned. -/
def sylBad (s : State) (compact : Bool) (a k : Nat) : Bool := (lineAt s (stepAddr compact a k / 16)).bad

/-- The address of the bundle after the one at an address, by that bundle's BLEN (DEDUCED, log entry 68). -/
def afterBundle (s : State) (a : Nat) : Nat :=
  stepAddr s.seq.compact a (1 + syllable s s.seq.compact a 0 % 16)

/-! ### Level registers -/

/-- The registers of a handler level. -/
def levelRegs (s : State) (t : BitVec 2) : LevelRegs := if t = 3 then s.ctl.mx else s.ctl.sx

/-- Change the registers of a handler level. -/
def onLevel (s : State) (t : BitVec 2) (f : LevelRegs → LevelRegs) : State :=
  s.onCtl fun c => if t = 3 then { c with mx := f c.mx } else { c with sx := f c.sx }

/-- SAVED.SA of a level. -/
def savedActive (s : State) (t : BitVec 2) : Bool := bit (levelRegs s t).saved 3

/-- SAVED as it reads: TS shows whether any tile-progress record is valid (05 R132). -/
def savedView (s : State) (t : BitVec 2) : W64 := setBit (levelRegs s t).saved 15 (anyRecord s)

/-! ### Events -/

/-- An event that the sequencer takes at a boundary (03 R72): a fault or an interrupt. -/
structure Event where
  code : Nat
  sub : Nat
  faddr : W64
  slot : Nat
  bnd : Bool
  slice : Nat
  deferred : Bool
  opa : IAddr
  /-- the level at which it arose -/
  origin : BitVec 2
  replay : Option (W64 × W64 × W64 × W64)
  /-- the issue number of the operation that the replay record is of -/
  op : Nat
  /-- the clk of its detection -/
  clk : Nat
deriving DecidableEq, Repr

/-- The FAULT word of an event (03 Table 3-3). -/
def faultWord (e : Event) : W64 :=
  BitVec.ofNat 64 (e.origin.toNat * 2 ^ 62 + e.opa.toNat * 2 ^ 40 + e.slice % 256 * 2 ^ 24 + b2n e.bnd * 2 ^ 20
    + b2n e.deferred * 2 ^ 19 + e.slot % 8 * 2 ^ 16 + e.sub % 256 * 2 ^ 8 + e.code % 256)

/-- A deferred fault as an event. -/
def eventOf (d : Deferred) : Event :=
  { code := d.code.toNat, sub := d.sub.toNat, faddr := d.faddr, slot := d.slot.toNat, bnd := false, slice := d.slice,
    deferred := decide (d.code ≠ 0xC), opa := d.bundle, origin := d.level, replay := d.replay, op := d.op, clk := d.clk }

/-- The level of a level number's order: U, S, M. -/
def levelMax (a b : BitVec 2) : BitVec 2 := if a.toNat < b.toNat then b else a

/-- The level that a fault's code routes it to (03 Table 3-4, R68); the current level if that is higher. -/
def routeFault (code : Nat) (origin cur : BitVec 2) : BitVec 2 :=
  let t : BitVec 2 :=
    if code = 3 ∨ code = 7 ∨ code = 9 then 3
    else if code = 8 then 1
    else if code = 4 ∨ code = 0xC then (if origin = 0 then 1 else 3)
    else if origin = 0 then 1 else origin
  levelMax t cur

/-- The replay record's slot, if the event leaves one. -/
def savedReplay (e : Event) : Nat := match e.replay with
  | some _ => 2 ^ 19 + e.slot % 8 * 2 ^ 16
  | none => 0

/-- RET and SAVED as entry computes them from the interrupted stream (03 R73, R86, Table 3-2). -/
def savedWords (s : State) (e : Event) : W64 × W64 :=
  let q := s.seq
  let ret : IAddr := match q.branch with
    | some b => b.addr
    | none => q.pc
  let br := match q.branch with
    | some b => b.target.toNat * 2 ^ 42 + b.slot % 4 * 2 ^ 40 + b2n b.taken * 2 ^ 39 + 2 ^ 38
    | none => 0
  let ch := match q.change with
    | some c => c.left % 4 * 2 ^ 33 + c.kind.toNat * 2 ^ 30 + c.value.toNat * 2 ^ 20
    | none => 0
  (ret.setWidth 64,
   BitVec.ofNat 64 (br + q.depth % 8 * 2 ^ 35 + ch + savedReplay e + b2n e.deferred * 2 ^ 14 + 2 ^ 3
     + b2n q.compact * 2 ^ 2 + q.pl.toNat))

/-! ### Halting for good (03 R91) -/

/-- The halt of R91: issue stops, nothing further is entered, a fatal record names both faults, a tocsin goes out. The record's
DETAIL holds the first fault's code in [7..0] and the second's in [15..8] (DESIGN CHOICE, log entry 98). -/
def fatalHalt (s : State) (first second : Nat) : State :=
  let s := s.onCnt fun c => { c with escalating := false }
  let s := s.onSeq fun q => { q with deferred := [] }
  let s := fileToll s { tollOf 0x50 3 (first % 256 + second % 256 * 256) with flags := 8 }
  stopStream (sendTocsin s 0 0 0x50)

/-! ### Escalation (03 R89) -/

/-- Whether a frame's write ends in no bus error: memory with a target that is not program memory, and no failure of the die-to-die link
(03 R91, Table 3-4, 02 R27). -/
def frameOk (s : State) (sp : W64) : Bool :=
  decide (sp.toNat < 2 ^ 48) && hasTarget s sp.toNat && decide (linkSub s 0 sp.toNat = 0) && (match regionOf sp.toNat with
    | .program _ => false
    | _ => true)

/-- The sequencer moved to a handler at a level, in native form, with issue from a clk on; `kept` is the operation that a replay record has
been left of. -/
def toHandler (s : State) (t : BitVec 2) (pc : IAddr) (from' : Nat) (kept : Option Nat) : State :=
  s.onSeq fun q => { q with
    pl := t, compact := false, branch := none, change := none, depth := 0, pc := pc, issueFrom := from', awaiting := [],
    wait := [], waitBeats := 0, past := false,
    entries := (s.cnt.op, q.pl, kept) :: q.entries }

/-- Escalation entry, for a cause, the first event's four words, the escalating fault's word and address, its code, and
the clk of its detection. -/
def escalate (s : State) (cause : Nat) (f1 a1 r1 s1 f2 a2 : W64) (code d : Nat) : State :=
  if s.cnt.escalating then fatalHalt s s.cnt.escCode.toNat code
  else
    let sp := s.ctl.escsp - 64
    let s := s.onCtl fun c => { c with escsp := sp }
    let ok := decide (sp.toNat % 64 = 0) && frameOk s sp
    let s := if sp.toNat % 64 = 0 then crossDie s 0 sp.toNat else s
    if ok = false then fatalHalt s (field f1 7 0) code
    else
      let words := [BitVec.ofNat 64 cause, f1, a1, r1, s1, f2, a2, s.fab.beat.count.setWidth 64]
      let bytes := words.flatMap fun w => leBytes 8 w.toNat
      let s := writeBytes s ((bytes.zipIdx).map fun b => (sp.toNat + b.2, b.1))
      let s := s.onCnt fun c => { c with escalating := true, escCode := BitVec.ofNat 8 code }
      toHandler s 3 0 (d + 16) none

/-! ### Entry (03 R73, R74) -/

/-- Poison subcode by the memory that a read names (03 Table 3-4). -/
def poisonSub (pa : Nat) : Nat :=
  match regionOf pa with
  | .program _ => 1
  | .clay _ _ | .marl _ _ => 4
  | _ => 2

/-- The line a fetch takes from program memory: its bits and whether its words decode. -/
def fetchLine (s : State) (n : Nat) : State × FLine :=
  let (s, bs, bad) := readBytes s (programBase + 32 * n) 32
  (s, { num := n, bits := BitVec.ofNat 168 (ofLe (bs.take 21)), bad := bad })

/-- The vector read in clk c + 1 and what it finds: a handler address, or the fault during entry with its address. -/
def readVector (s : State) (t : BitVec 2) (code : Nat) : State × (IAddr ⊕ (Nat × Nat × W64)) :=
  let va := field (levelRegs s t).vtb 47 8 * 256 + 8 * code
  if !(hasTarget s va) then (s, .inr (3, 1, BitVec.ofNat 64 va))
  else if linkSub s 0 va ≠ 0 then (crossDie s 0 va, .inr (3, linkSub s 0 va, BitVec.ofNat 64 va))
  else
    let (s, bs, bad) := readBytes (crossDie s 0 va) va 8
    let e : W64 := BitVec.ofNat 64 (ofLe bs)
    let h : IAddr := BitVec.ofNat 22 (field e 21 0)
    if bad then (s, .inr (7, poisonSub va, BitVec.ofNat 64 va))
    else if !(bit e 63) then (s, .inr (0xD, 1, BitVec.ofNat 64 va))
    else if 12 ≤ h.toNat % 16 then (s, .inr (2, 1, h.setWidth 64))
    else
      let (s, l) := fetchLine s (h.toNat / 16)
      if l.bad then (s, .inr (7, 1, h.setWidth 64)) else (s, .inl h)

/-- Entry of an event at a level (03 R73): the level's registers are written in clk c, the vector is read in clk c + 1, and
the handler's first bundle may issue in clk c + 16 (DEDUCED, log entry 33). -/
def enterAt (s : State) (t : BitVec 2) (e : Event) : State :=
  let c := s.cnt.clk
  let w := savedWords s e
  let fw := faultWord e
  let s := onLevel s t fun r =>
    let r := { r with ret := w.1, saved := w.2, fault := fw, faddr := e.faddr }
    match e.replay with
    | some p => { r with rpl0 := p.1, rpl1 := p.2.1, rpl2 := p.2.2.1, rpl3 := p.2.2.2 }
    | none => r
  let s := toHandler s t 0 (c + 16) (e.replay.map fun _ => e.op)
  let s := tick s
  if !s.seq.running then s
  else
    match readVector s t e.code with
    | (s, .inl h) => s.onSeq fun q => { q with pc := h }
    | (s, .inr (code, sub, fa)) =>
      let f2 := BitVec.ofNat 64 (t.toNat * 2 ^ 62 + 2 ^ 20 + sub * 256 + code)
      let s := escalate s 1 fw e.faddr w.1 (savedView s t) f2 fa code (c + 1)
      if code = 7 ∧ s.seq.running then consumePoison s 0xC000 sub else s

/-- What a record's OP names of a fault (13 Table 13-3): no operation for a fault of the fetch, else an opcode syllable. The model's commands
carry operands and no syllable, so which one it is is a free value (DESIGN CHOICE, log entry 40). -/
def opOfFault (s : State) (code sub : Nat) : State × Nat :=
  if code = 7 ∧ sub = 1 then (s, 0xC000)
  else
    let (v, s) := freshFree s
    (s, v.toNat % 2 ^ 14)

/-- Take a fault (03 R68, R69): at the level it is routed to, one higher while that level's SA is set, or by escalation. A
poison fault is a consumption when it is entered (13 R347). -/
def takeFault (s : State) (e : Event) : State :=
  let (run, entered) :=
    if s.cnt.escalating then (fatalHalt s s.cnt.escCode.toNat e.code, false)
    else
      let fromM := decide (e.code = 0xC) && decide (e.origin = 3)
      let t := routeFault e.code e.origin s.seq.pl
      let t : BitVec 2 := if t = 1 ∧ savedActive s 1 then 3 else t
      if fromM || (decide (t = 3) && savedActive s 3) then
        let r := s.ctl.mx
        let s := escalate s (if fromM then 3 else 2) r.fault r.faddr r.ret (savedView s 3) (faultWord e) e.faddr e.code e.clk
        (tick s, s.cnt.escalating)
      else (enterAt s t e, true)
  if e.code = 7 ∧ entered ∧ s.seq.running then
    let o := opOfFault run e.code e.sub
    consumePoison o.1 o.2 e.sub
  else run

/-- Take an interrupt: its latch is cleared (03 R70) (DEDUCED, log entry 38). -/
def takeInterrupt (s : State) (k : Nat) (t : BitVec 2) : State :=
  let s := s.onCnt fun c => { c with ipend := c.ipend &&& ~~~(BitVec.ofNat 16 (2 ^ (k - 16))) }
  enterAt s t { code := k, sub := 0, faddr := 0, slot := 0, bnd := false, slice := 0, deferred := false, opa := 0,
                origin := s.seq.pl, replay := none, op := 0, clk := s.cnt.clk }

/-! ### The choice at a boundary (03 R70, R72) -/

/-- The level an interrupt is routed to. -/
def intLevel (s : State) (k : Nat) : BitVec 2 := if bit s.ctl.iroute (k - 16) then 3 else 1

/-- The interrupts a level's IP shows. -/
def intPending (s : State) (t : BitVec 2) : W64 :=
  BitVec.ofNat 64 (((List.range 16).map fun i =>
    if s.cnt.ipend.getLsbD i ∧ intLevel s (16 + i) = t then 2 ^ i else 0).sum)

/-- The pending enabled interrupt that is due, lowest code first. -/
def dueInterrupt (s : State) : Option Nat :=
  if s.cnt.escalating then none
  else
    ((List.range 16).map (· + 16)).find? fun k =>
      let t := intLevel s k
      s.cnt.ipend.getLsbD (k - 16) && bit (levelRegs s t).ie (k - 16)
        && (decide (s.seq.pl.toNat < t.toNat) || (decide (s.seq.pl = t) && !(savedActive s t)))

/-- The better of two deferred faults: the lower code, then the earlier issue. -/
def betterFault (a b : Deferred) : Deferred :=
  if b.code.toNat < a.code.toNat ∨ (b.code = a.code ∧ b.op < a.op) then b else a

/-- The deferred fault that a boundary takes: of those detected in an earlier clk (03 R72, R76). -/
def dueDeferred (s : State) : Option Deferred :=
  match s.seq.deferred.filter fun d => decide (d.clk < s.cnt.clk) with
  | [] => none
  | d :: r => some (r.foldl betterFault d)

/-- Take a deferred fault off the list and enter it. -/
def takeDeferred (s : State) (d : Deferred) : State :=
  takeFault (s.onSeq fun q => { q with deferred := q.deferred.erase d }) (eventOf d)

/-! ### Return (03 R82 to R88) -/

/-- The pending mode change that SAVED holds: PK 000b, and reserved values, re-arm nothing; the reserved MSC 11b is taken as 2
(DESIGN CHOICE, log entry 96). -/
def savedChange (w : W64) : Option Change :=
  let k := field w 32 30
  if k = 0 ∨ 4 < k then none
  else some { kind := BitVec.ofNat 3 k, value := BitVec.ofNat 10 (field w 29 20), left := min (field w 34 33) 2 }

/-- The branch that SAVED and RET hold; the reserved DI values are taken as slot 1 (DESIGN CHOICE, log entry 96). -/
def savedBranch (w ret : W64) : Option Branch :=
  if bit w 38 then
    some { addr := BitVec.ofNat 22 (field ret 21 0), target := BitVec.ofNat 22 (field w 63 42), taken := bit w 39,
           slot := if field w 41 40 = 2 then 2 else 1, brf := decide (field w 32 30 = 4) }
  else none

/-- The latched operation that a slice-level record names: that of the entry which the return ends; where that entry left none, a context
switch has put the record back, and it is the last latched that no other handler's entry left (03 R84; DEDUCED, log entry 36). -/
def pickLatch (s : State) (kept : Option Nat) (latched : List Nat) : Option Nat :=
  match kept.filter latched.contains with
  | some o => some o
  | none => (latched.filter fun o => !(s.seq.entries.any fun e => e.2.2 == some o)).getLast?

/-- The replayed operation runs from clk base + 3 on under an issue number of its own, and issue waits for it (03 R84). -/
def replayAs (s : State) (base op : Nat) (act : Micro) : State :=
  (schedule (nextOp s) (base + 3) 1 op [] act).onSeq fun q => { q with awaiting := q.awaiting ++ [op] }

/-- Replay a latched long-vector access as if issued in clk `base` (03 R84, 08 R200). -/
def replayVe (s : State) (base k : Nat) : State :=
  match s.elem.latch.find? fun e => decide (e.1 = k) with
  | none => s
  | some (_, m) => replayAs (s.onElem fun e => { e with latch := storeErase e.latch k }) base s.cnt.op (.veMem { m with op := s.cnt.op, base := base })

/-- Replay a latched matrix-vector product (03 R84, 06 R157). -/
def replayMv (s : State) (base k : Nat) : State :=
  match s.tiles.mvLatch.find? fun e => decide (e.1 = k) with
  | none => s
  | some (_, j) => replayAs (s.onTiles fun t => { t with mvLatch := storeErase t.mvLatch k }) base s.cnt.op (.mvmStart { j with op := s.cnt.op, base := base })

/-- Replay the record of a level as if issued in clk `base` (03 R84): a scalar or short-vector record as RPL0 to RPL3 describe
it, a slice-level one as each slice has latched it, whatever those words hold. Issue is held until it has landed. A fault of the replay
reports the level returned to and the bundle that FAULT.OPA names (DESIGN CHOICE, log entry 36). -/
def replay (s : State) (r : LevelRegs) (kept : Option Nat) (level : BitVec 2) (bundle : IAddr) (base : Nat) : State :=
  let rs := BitVec.ofNat 3 (field r.saved 18 16)
  if rs.toNat < 2 then
    let op := s.cnt.op
    let a := accessOfReplay rs r.rpl0 r.rpl1 r.rpl2 r.rpl3 level bundle op base
    match accShape a with
    | none => s
    | some _ => (issueAccess a (nextOp s)).onSeq fun q => { q with awaiting := q.awaiting ++ [op] }
  else if rs = 3 then
    match pickLatch s kept (s.elem.latch.map fun e => e.1) with
    | some k => replayVe s base k
    | none => s
  else if rs = 4 then
    match pickLatch s kept (s.tiles.mvLatch.map fun e => e.1) with
    | some k => replayMv s base k
    | none => s
  else s

/-- A pending mode change takes effect (02 R45, 03 R88). PDROP only lowers the level, to one that exists (03 R64, R65) (DEDUCED, log
entry 97). -/
def applyChange (s : State) (c : Change) : State :=
  let v := c.value.toNat
  let s := s.onSeq fun q => { q with change := none }
  match c.kind.toNat with
  | 1 => s.onSeq fun q => { q with
      fa := BitVec.ofNat 4 (v / 64), fw := BitVec.ofNat 4 (v / 4 % 16),
      spr := if 2 ≤ v % 4 then q.spr else BitVec.ofNat 2 (v % 4) }
  | 2 => s.onSeq fun q => { q with gmask := storeSet 0 q.gmask (v % 8) (storeGet 0 q.gstage (v % 8)) }
  | 3 => s.onSeq fun q => { q with pl := if v % 4 ≠ 2 ∧ v % 4 < q.pl.toNat then BitVec.ofNat 2 (v % 4) else q.pl }
  | 4 => s.onSeq fun q => { q with compact := !q.compact }
  | _ => s

/-- Where issue resumes on a return to an address (03 R82, R87): with DS = 1 the delay slot that DI names, one or two bundles past the
branch, in the form that the return restores. -/
def resumePc (s : State) (ret : IAddr) : Nat :=
  match s.seq.branch with
  | none => ret.toNat
  | some b => if b.slot = 2 then afterBundle s (afterBundle s ret.toNat) else afterBundle s ret.toNat

/-- The return of an XRET that issues at level x from the bundle at `addr` (03 R82). It changes no clk. The reserved LD 5 to 7
are taken as 4 (DESIGN CHOICE, log entry 96). -/
def returnFrom (s : State) (addr : IAddr) : State :=
  let x := s.seq.pl
  let r := levelRegs s x
  let w := r.saved
  let ppl : BitVec 2 := BitVec.ofNat 2 (field w 1 0)
  if ppl = 2 ∨ x.toNat < ppl.toNat then
    if s.cnt.escalating then fatalHalt s s.cnt.escCode.toNat 0xC
    else
      -- the fault is taken at the boundary that follows
      s.onSeq fun q => { q with deferred := q.deferred ++
        [{ code := 0xC, sub := if ppl = 2 then 2 else 1, faddr := addr.setWidth 64, slot := 0, slice := 0, level := x,
           bundle := addr, op := s.cnt.op, clk := s.cnt.clk, replay := none }] }
  else
    let base := s.cnt.clk + 8
    let kept := s.seq.entries.head?.bind fun e => e.2.2
    let s := if s.cnt.escalating then
        (s.onCtl fun c => { c with escsp := c.escsp + 64 }).onCnt fun c => { c with escalating := false }
      else s
    let s := onLevel s x fun r => { r with saved := setBit r.saved 3 false }
    let s := s.onSeq fun q => { q with
      pl := ppl, compact := bit w 2, depth := min (field w 37 35) 4, branch := savedBranch w r.ret,
      change := savedChange w, issueFrom := base, awaiting := [], entries := q.entries.drop 1 }
    let pc := resumePc s (BitVec.ofNat 22 (field r.ret 21 0))
    let s := s.onSeq fun q => { q with pc := BitVec.ofNat 22 pc, past := decide (2 ^ 22 ≤ pc) }
    let bundle : IAddr := BitVec.ofNat 22 (field r.fault 61 40)
    let s := if bit w 19 then replay s r kept ppl bundle base else s
    let s := if anyRecord s then resumeAll s ppl bundle base else s
    match s.seq.change with
    | some c => if c.left = 0 then applyChange s c else s
    | none => s

end Sys2Proof.Machine
end

