-- ==== Sys2Proof/Machine/Stream.lean ====
section
/-! DEFINITION. The stream: lines and syllables, the layout of a bundle and its operations, branches, mode changes, loops,
waits, and the operations of the CU slot (02 R26 to R58, 11 R301). -/

namespace Sys2Proof.Machine

/-! ### Fetching (02 R30) -/

/-- Fetch the lines from L to L + 4 that are not held; lines outside are given up (R30) (DESIGN CHOICE, log entry 9). -/
def refill (s : State) : State :=
  let l := s.seq.pc.toNat / 16
  let s := s.onSeq fun q => { q with lines := q.lines.filter fun x => decide (l ≤ x.num ∧ x.num ≤ l + 4) }
  ((List.range 5).map (l + ·)).foldl (fun s n =>
    if lastLine < n ∨ s.seq.lines.any (fun x => decide (x.num = n)) then s
    else
      let r := fetchLine s n
      r.1.onSeq fun q => { q with lines := q.lines ++ [r.2] }) s

/-! ### The layout of a bundle (02 R33, R34, Tables 2-1 to 2-3, 2-8) -/

/-- One operation's syllables in native form: slot, MAJ, MIN, P1, P2, and its immediate. -/
structure BOp where
  slot : Nat
  maj : Nat
  min : Nat
  p1 : Nat
  p2 : Nat
  imm : Imm
deriving DecidableEq, Repr

/-- Operand and immediate syllables of a class (Table 2-3), none where the MAJ is reserved for the slot. -/
def classOf (slot maj : Nat) : Option (Nat × Nat) :=
  match slot with
  | 0 =>
    if maj = 0 then some (0, 0)
    else if maj ≤ 3 then some (1, 1)
    else if maj ≤ 5 then some (1, 2)
    else if maj = 6 then some (1, 3)
    else if 8 ≤ maj ∧ maj ≤ 0xF then some (2, 0)
    else if maj = 0x10 ∨ maj = 0x12 then some (1, 2)
    else if maj = 0x11 ∨ maj = 0x13 then some (1, 0)
    else none
  | 1 => if maj ≤ 0xF then some (2, 0) else if maj ≤ 0x17 then some (1, 1) else none
  | 2 => if maj ≤ 7 then some (2, 1) else if 0x10 ≤ maj ∧ maj ≤ 0x17 then some (2, 0) else none
  | 3 =>
    if maj ≤ 0x1F then some (2, 0)
    else if maj ≤ 0x27 then some (2, 1)
    else if maj ≤ 0x2F then some (2, 2)
    else if maj ≤ 0x37 then some (2, 3)
    else if maj = 0x3F then some (2, 0)
    else none
  | 4 => if maj ≤ 7 then some (2, 0) else none
  | 5 => if maj = 0 then some (1, 0) else none
  | 6 => if maj = 0 then some (1, 0) else none
  | _ => if maj = 0 then some (1, 0) else if maj = 1 then some (1, 2) else none

/-- The slots that a header names, in slot order (Table 2-1, Table 2-8: compact has no SV and no CU). -/
def slotsOf (compact : Bool) (h : Nat) : List Nat :=
  if compact then
    ([(0, 11), (2, 10), (3, 9), (4, 8), (5, 7), (6, 6)].filter fun x => h.testBit x.2).map fun x => x.1
  else (List.range 8).filter fun i => h.testBit (13 - i)

/-- Bits hi to lo of a syllable. -/
def cut (x hi lo : Nat) : Nat := x / 2 ^ lo % 2 ^ (hi + 1 - lo)

/-- The native P1 that a compact P1 expands to (Table 2-8). -/
def expandP1 (slot maj x : Nat) : Nat :=
  match slot with
  | 0 =>
    if maj = 0x10 ∨ maj = 0x11 then cut x 11 8 * 512 + cut x 7 5 * 64 + cut x 4 1 * 2
    else if maj = 0x12 then cut x 11 8 * 512 + cut x 7 0
    else if maj = 0x13 then cut x 11 8 * 512 + cut x 7 6 * 128 + cut x 5 4 * 16 + cut x 3 2 * 4
    else cut x 11 8 * 512 + cut x 7 4 * 16 + cut x 3 0
  | 2 =>
    if 0x10 ≤ maj then cut x 11 9 * 2048 + cut x 8 6 * 256 + cut x 5 3 * 32 + cut x 2 1 * 4 + cut x 0 0
    else cut x 11 9 * 2048 + cut x 8 7 * 256 + cut x 6 3 * 8 + cut x 2 2 * 4 + cut x 1 1 * 2
  | 3 => cut x 11 9 * 1024 + cut x 8 6 * 64 + cut x 5 3 * 4 + cut x 2 1
  | 4 => cut x 11 9 * 2048 + cut x 8 7 * 256 + cut x 6 3 * 8
  | 5 => cut x 11 8 * 512 + cut x 7 6 * 64 + cut x 5 0
  | 6 => cut x 11 8 * 512 + cut x 5 0
  | _ => x

/-- The native P2 that a compact P2 expands to. -/
def expandP2 (slot maj x : Nat) : Nat :=
  match slot with
  | 0 => cut x 11 8 * 512 + cut x 7 0
  | 2 => if 0x10 ≤ maj then cut x 11 11 * 8192 + cut x 10 9 * 2048 + cut x 8 8 * 1024 else cut x 7 4 * 1024
  | 3 => cut x 11 10 * 2048 + cut x 9 9 * 1024 + cut x 8 7 * 256 + cut x 6 1 * 4
  | 4 => cut x 11 9 * 1024 + cut x 8 8 * 512
  | _ => x

/-- The width of an immediate of n syllables. -/
def immKind (compact : Bool) (n : Nat) : ImmWidth :=
  if compact then (if n ≤ 1 then .w12 else if n = 2 then .w24 else .w36)
  else if n ≤ 1 then .w14 else if n = 2 then .w28 else .w42

/-- One operation read at a position of a bundle. -/
def readOp (s : State) (compact : Bool) (a pos slot maj min no ni : Nat) : BOp :=
  let w := if compact then 12 else 14
  let x1 := if 1 ≤ no then syllable s compact a (pos + 1) else 0
  let x2 := if 2 ≤ no then syllable s compact a (pos + 2) else 0
  { slot := slot, maj := maj, min := min,
    p1 := if compact then expandP1 slot maj x1 else x1,
    p2 := if compact then expandP2 slot maj x2 else x2,
    imm := { width := immKind compact ni,
             bits := BitVec.ofNat 42 (((List.range ni).map fun i => syllable s compact a (pos + 1 + no + i) * 2 ^ (w * i)).sum) } }

/-- What the walk over the opcodes of a bundle finds: a poisoned line, a reserved MAJ at a slot, an opcode past the last line with the
least count of syllables that the bundle then has, or the operations and the implied count of syllables. -/
inductive Walk where
  | bad
  | reserved (slot : Nat)
  | past (least : Nat)
  | ops (l : List BOp) (len : Nat)
deriving DecidableEq, Repr

/-- The walk (R34): each opcode lies where the counts of the slots before it put it. -/
def walkOps (s : State) (compact : Bool) (a pos : Nat) (slots : List Nat) : Walk :=
  match slots with
  | [] => .ops [] pos
  | slot :: r =>
    if lastLine < stepAddr compact a pos / 16 then .past (pos + 1 + r.length)
    else if sylBad s compact a pos then .bad
    else
      let x := syllable s compact a pos
      let maj := if compact then x / 64 else x / 256
      let min := if compact then x % 64 else x % 256
      match classOf slot maj with
      | none => .reserved slot
      | some (no, ni) =>
        let op := readOp s compact a pos slot maj min no ni
        match walkOps s compact a (pos + 1 + no + ni) r with
        | .ops l n => .ops (op :: l) n
        | w => w

/-- A bundle as it is parsed: an issue-time condition of R478 steps 1 to 6 (code, subcode, slot, whether it concerns the whole
bundle), or its operations and its length. -/
inductive Parsed where
  | cond (code sub slot : Nat) (bnd : Bool)
  | ops (l : List BOp) (len : Nat)
deriving DecidableEq, Repr

/-- Steps 1 to 6 of R478, after the address itself (R29, R32). Where an opcode lies past the last line the implied count is not known,
but no less than one syllable for each slot still to come: conditions 4 and 5 are judged by that least count (DEDUCED, log entry 99). -/
def parse (s : State) : Parsed :=
  let a := s.seq.pc.toNat
  let c := s.seq.compact
  if s.seq.past then .cond 3 1 0 true
  else if !(addrOk c a) then .cond 2 1 0 false
  else
    let h := syllable s c a 0
    let len := 1 + h % 16
    let limit := perLine c
    let inside := (List.range len).filter fun k => decide (stepAddr c a k / 16 ≤ lastLine)
    if inside.any fun k => sylBad s c a k then .cond 7 1 0 true
    else if h / 16 % 4 ≠ 0 then .cond 1 1 0 true
    else
      match walkOps s c a 1 (slotsOf c h) with
      | .bad => .cond 7 1 0 true
      | .reserved slot => .cond 1 4 slot false
      | .past least =>
        if limit < len ∨ limit < least then .cond 1 3 0 true
        else if len < least then .cond 1 2 0 true
        else .cond 3 1 0 true
      | .ops l n =>
        if limit < len ∨ limit < n then .cond 1 3 0 true
        else if n ≠ len then .cond 1 2 0 true
        else if lastLine < stepAddr c a (len - 1) / 16 then .cond 3 1 0 true
        else .ops l len

/-! ### Control flow (02 R43 to R49) -/

/-- Whether a branch condition holds (Table 2-4 CC). -/
def ccHolds (cc : Nat) (x : W64) : Bool :=
  match cc with
  | 0 => true
  | 1 => decide (x = 0)
  | 2 => decide (x ≠ 0)
  | 3 => decide (x.toInt < 0)
  | 4 => decide (0 ≤ x.toInt)
  | 5 => decide (0 < x.toInt)
  | _ => decide (x.toInt ≤ 0)

/-- The next bundle, and the one after it. -/
def nextTwo (s : State) : Nat × Nat :=
  let n1 := afterBundle s s.seq.pc.toNat
  (n1, afterBundle s n1)

/-- Whether the bundle is the end of an open loop or one of the two before it (R49). -/
def nearLoopEnd (s : State) : Bool :=
  let n := nextTwo s
  (List.range s.seq.depth).any fun i =>
    let e := (storeGet 0 s.seq.le i).toNat
    decide (e = s.seq.pc.toNat ∨ e = n.1 ∨ e = n.2)

/-- Conditions of a branch (R35, R44, R45, R49, R29). -/
def condBranch (brf : Bool) (cc : BitVec 3) (target : Nat) (s : State) : Cond :=
  firstCond
    [(decide (cc = 7), 1, 5), (s.seq.branch.isSome || nearLoopEnd s, 1, 7), (brf && s.seq.change.isSome, 1, 8),
     (!(addrOk (s.seq.compact != brf) target), 2, 1)]

/-- A branch issues: its condition is read, the link lands, two delay slots follow; BRF's form change has them as its shadow, and comes
whether or not the branch is taken (DEDUCED, log entry 67). -/
def doBranch (brf : Bool) (xa : BitVec 5) (cc : BitVec 3) (xl : BitVec 5) (target : Nat) (s : State) : State :=
  let link := afterBundle s (nextTwo s).2
  let taken := ccHolds cc.toNat (getX s xa.toNat)
  let s := if xl = 0 then s else putX 1 xl (BitVec.ofNat 64 (link % 2 ^ 22)) s
  s.onSeq fun q => { q with
    branch := some { addr := q.pc, target := BitVec.ofNat 22 target, taken := taken, slot := 1, brf := brf },
    change := if brf then some { kind := 4, value := 0, left := 2 } else q.change }

/-- The trip count of a LOOP. -/
def loopCount (s : State) (xc : BitVec 5) (ci : BitVec 9) : Nat :=
  if xc = 0 then ci.toNat else min (getX s xc.toNat).toNat 0xFFFFFFFF

/-- Conditions of LOOP (R44, R47, R29). -/
def condLoop (lastAddr : Nat) (s : State) : Cond :=
  firstCond
    [(s.seq.branch.isSome, 1, 7), (decide (4 ≤ s.seq.depth), 1, 9), (!(addrOk s.seq.compact lastAddr), 2, 1),
     (decide (lastAddr ≤ s.seq.pc.toNat), 2, 2)]

/-- LOOP opens a loop, or skips its body. -/
def doLoop (xc : BitVec 5) (ci : BitVec 9) (lastAddr : Nat) (s : State) : State :=
  let n := loopCount s xc ci
  if n = 0 then
    let a := afterBundle s lastAddr
    s.onSeq fun q => { q with pc := BitVec.ofNat 22 a, past := decide (2 ^ 22 ≤ a) }
  else
    let first := BitVec.ofNat 22 (afterBundle s s.seq.pc.toNat)
    s.onSeq fun q => { q with
      lc := storeSet 0 q.lc q.depth (BitVec.ofNat 32 n), le := storeSet 0 q.le q.depth (BitVec.ofNat 22 lastAddr),
      lstart := storeSet 0 q.lstart q.depth first, depth := q.depth + 1 }

/-- The loop-back test after the bundle at an address (R48): the next address, if a loop decides it, and the state after. -/
def loopBack (n : Nat) (addr : IAddr) (q : Seq) : Seq × Option IAddr :=
  match n with
  | 0 => (q, none)
  | k + 1 =>
    if q.depth = 0 then (q, none)
    else
      let i := q.depth - 1
      if storeGet 0 q.le i ≠ addr then (q, none)
      else
        let c := storeGet 0 q.lc i
        if 1 < c.toNat then ({ q with lc := storeSet 0 q.lc i (c - 1) }, some (storeGet 0 q.lstart i))
        else loopBack k addr { q with depth := i }

/-! ### Modes (02 R40 to R45) -/

/-- A mode change in a shadow is illegal. -/
def condMode (s : State) : Cond := firstCond [(s.seq.change.isSome, 1, 8)]

/-- A mode change in its shadow. -/
def startChange (kind : BitVec 3) (value : BitVec 10) (s : State) : State :=
  s.onSeq fun q => { q with change := some { kind := kind, value := value, left := 2 } }

/-- MODEW: FA, FW and SPR as SAVED.PV holds them. -/
def doModew (xa : BitVec 5) (s : State) : State :=
  let v := getX s xa.toNat
  startChange 1 (BitVec.ofNat 10 (field v 15 12 * 64 + field v 11 8 * 4 + field v 7 6)) s

/-- MODE as it reads (Table 2-6). -/
def modeWord (s : State) : W64 :=
  let q := s.seq
  BitVec.ofNat 64 (q.fa.toNat * 4096 + q.fw.toNat * 256 + q.spr.toNat * 64 + b2n q.compact * 32 + q.pl.toNat * 2)

/-- MODER. -/
def doModer (xa : BitVec 5) (s : State) : State := putX 1 xa (modeWord s) s

/-- GMS's chunk 11b is reserved. -/
def condGms (ch : BitVec 2) : Cond := firstCond [(decide (ch = 3), 1, 5)]

/-- GMS: one chunk of the staged mask. -/
def doGms (xa : BitVec 5) (ch : BitVec 2) (gn : BitVec 3) (s : State) : State :=
  let x := (getX s xa.toNat).toNat
  let lo := 64 * ch.toNat
  let w := if ch = 2 then 32 else 64
  let old := (storeGet 0 s.seq.gstage gn.toNat).toNat
  let new := old - old / 2 ^ lo % 2 ^ w * 2 ^ lo + x % 2 ^ w * 2 ^ lo
  s.onSeq fun q => { q with gstage := storeSet 0 q.gstage gn.toNat (BitVec.ofNat 160 new) }

/-- GMC (DEDUCED, log entry 92). -/
def doGmc (gn : BitVec 3) (s : State) : State := startChange 2 (BitVec.ofNat 10 gn.toNat) s

/-- PDROP: to a reserved level, in a shadow, at U or not to a lower level (R35, R42, R45). -/
def condPdrop (pl : BitVec 2) (s : State) : Cond :=
  firstCond [(decide (pl = 2), 1, 5), (s.seq.change.isSome, 1, 8), (decide (s.seq.pl = 0) || decide (s.seq.pl.toNat ≤ pl.toNat), 1, 10)]

def doPdrop (pl : BitVec 2) (s : State) : State := startChange 3 (BitVec.ofNat 10 pl.toNat) s

/-! ### System operations (02 R42) -/

/-- PMSYNC and HALT are M level's; XRET is not U level's. -/
def condM (s : State) : Cond := firstCond [(decide (s.seq.pl ≠ 3), 4, 1)]
def condXret (s : State) : Cond := firstCond [(decide (s.seq.pl = 0), 4, 1)]

/-- PMSYNC: the fetched lines are discarded after two more bundles (R30). -/
def doPmsync (s : State) : State := s.onSeq fun q => { q with pmsync := q.pmsync ++ [2] }

/-- XRET (03 R82) (DEDUCED, log entry 87). -/
def doXret (s : State) : State := returnFrom s s.seq.pc

/-- HALT (03 R91). -/
def doHalt (s : State) : State := stopStream s

/-! ### Waits and the CU slot (02 R53, 10 R260, 12 R339, 11 Table 11-6) -/

/-- A wait begins with its bundle. -/
def startWait (w : Wait) (s : State) : State := s.onSeq fun q => { q with wait := q.wait ++ [w], waitBeats := 0, waitAt := q.pc }

def doDmw (gn : BitVec 3) (tag : BitVec 6) (s : State) : State := startWait (.dmw (groupMask s gn.toNat) tag) s
def doClw (tag : BitVec 6) (s : State) : State := startWait (.clw tag) s

/-- WBEAT: a count already reached holds nothing. -/
def doWbeat (x : BitVec 5) (s : State) : State :=
  let v : BitVec 48 := (getX s x.toNat).setWidth 48
  if v.toNat ≤ s.fab.beat.count.toNat then s else startWait (.wbeat v) s

/-- RBEAT. -/
def doRbeat (x : BitVec 5) (s : State) : State :=
  let since := min (realClk s - s.fab.beat.boundary) 0xFFFF
  putX 1 x (BitVec.ofNat 64 (s.fab.beat.count.toNat + since * 2 ^ 48)) s

/-- RANG. -/
def doRang (x : BitVec 5) (s : State) : State :=
  putX 1 x (BitVec.ofNat 64 (s.cnt.angle.toNat + s.cnt.step.toNat * 2 ^ 16)) s

/-- MARK to an angle; a pending stop at a MARK to angle 0 stops the stream instead (11 R311). -/
def doMark (imm : BitVec 28) (s : State) : State :=
  let angle := imm.setWidth 16
  if angle = 0 ∧ s.cnt.stopAtMark then stopStream s else markTo s angle

/-- Whether a wait still holds. WBEAT releases in the clk after the boundary. -/
def waitHolds (s : State) (w : Wait) : Bool :=
  match w with
  | .dmw mask tag => tagBusy s mask tag
  | .clw tag => collTagBusy s tag
  | .wbeat v => decide (s.fab.beat.count.toNat < v.toNat) || decide (realClk s ≤ s.fab.beat.boundary)

/-- The slot of a wait operation. -/
def waitSlot (w : Wait) : Nat :=
  match w with
  | .dmw _ _ => 5
  | .clw _ => 6
  | .wbeat _ => 7

/-- The cause of a clk that a wait holds (10 R269). -/
def waitCause (s : State) (w : Wait) : Nat :=
  match w with
  | .dmw _ tag => xferCause s (fun h => decide (h.x.tag = tag)) fun c => decide (c.tag = tag)
  | .clw tag => clwCause s tag
  | .wbeat _ => 0xA

end Sys2Proof.Machine
end

