-- ==== Sys2Proof/Machine/LinkRx.lean ====
section
/-! DEFINITION. Receiving: flits delivered and passed on, frames and their acknowledgement, credits and replay, Ethernet
frames, training, dark ports (11 R276 to R293). -/

namespace Sys2Proof.Machine

/-! ### Delivery (11 R276, R287, R291, Table 11-3) -/

/-- Whether the header is one of 11 Table 11-3: its word is not poison, its class and type are defined (DEDUCED, log entry 69). -/
def headerOk (f : Flit) : Bool :=
  !(badMark (f.marks.headD .good)) && decide (flitCls f ≠ 3) && decide (field (headOf f) 94 91 ≤ 4)

/-- A good flit that came in on a port: a tocsin goes its own way, any other is delivered here or sent on. -/
def routeFlit (s : State) (port : Nat) (f : Flit) : State :=
  if !(headerOk f) then freePlace s port (channelOf f) 1
  else if field (headOf f) 94 91 = 3 then
    freePlace (receiveTocsin s port (field (headOf f) 113 100) (BitVec.ofNat 87 (field (headOf f) 86 0))) port (channelOf f) 1
  else
    match forwardFlit s port f with
    | (s, some g) => deliverFlit s g
    | (s, none) => s

/-! ### Frames (11 R276) -/

/-- Corrected words of a flit (13 R343). -/
def correctedWords (f : Flit) : Nat :=
  (f.marks.filter fun m => match m with
    | .corrected _ _ => true
    | _ => false).length

/-- Whether a flit holds an uncorrectable word. -/
def flitBroken (f : Flit) : Bool := f.marks.any fun m => match m with
  | .uncorrectable _ => true
  | _ => false

/-- The flit with its corrected words good. -/
def cleanFlit (f : Flit) : Flit := { f with marks := f.marks.map fun m => match m with
  | .corrected _ _ => .good
  | m => m }

/-- The syndrome of the first uncorrectable word of a flit. -/
def brokenSynd (f : Flit) : BitVec 16 :=
  match f.marks.find? fun m => match m with
    | .uncorrectable _ => true
    | _ => false with
  | some (.uncorrectable synd) => synd
  | _ => 0

/-- Poison created by a link receiver: the record names a lane of the port, which of its lanes is a free value (13 R344; DESIGN CHOICE, log
entry 40). A word of a link is in no store, so it is on no poison list and makes no suspect (R356). -/
def linkPoison (s : State) (k : Nat) (f : Flit) : State :=
  if flitBroken f then
    let (v, s) := freshFree s
    fileToll (objAdd s 0x7410 2 1)
      { tollOf 3 2 2 with ucls := 8, unit := BitVec.ofNat 16 (k * 18 + v.toNat % 18), synd := brokenSynd f, flags := 1 }
  else s

/-- Count what the receiver finds in the flits of a frame. -/
def countFlits (s : State) (fs : List Flit) : State :=
  let c := (fs.map correctedWords).sum
  let b := (fs.filter fun f => !f.crcOk).length
  let s := if c = 0 then s else objAdd (objAdd s 0x7300 2 c) 0x7410 1 c
  if b = 0 then s else objAdd s 0x7300 1 b

/-- The frames not yet acknowledged, counted modulo 4,096 from the last one received good. -/
def ackReplay (p : Port) (lastGood : BitVec 12) : Port :=
  let left := p.replay.filter fun fr =>
    let d := (fr.1 - lastGood).toNat
    decide (0 < d ∧ d ≤ 128)
  { p with replay := left, sentCtl := p.sentCtl.filter fun c => left.any fun fr => decide (fr.1 = c.1), replays := if left.length < p.replay.length then 0 else p.replays }

/-- A port goes to RETRAIN. -/
def retrainPort (s : State) (k : Nat) : State := leaveActive (objAdd s 0x7300 4 1) k .retrain

/-- A NAK: the frames from the one after the last good are sent again; after eight replays without success the port goes to RETRAIN. -/
def replayFrames (s : State) (k : Nat) : State :=
  let p := portGet s k
  if p.replay.isEmpty then s
  else if 8 ≤ p.replays then retrainPort s k
  else
    let s := objAdd (portSet s k { p with replays := p.replays + 1 }) 0x7300 3 p.replay.length
    p.replay.foldl (fun s fr =>
      let ctl := ((p.sentCtl.find? fun c => decide (c.1 = fr.1)).map fun c => c.2).getD []
      let head : Framing := { framingOf s k fr.1 false ctl with nak := false, freed := [] }
      fr.2.foldl (fun s q => s.emit (.flit k q.flit)) ((freshFree s).2.emit (.frame k head))) s

/-- The framing fields that hold whatever the flits' state: acknowledgement, NAK, freed places, HOP (DEDUCED, log entry 62). -/
def takeFraming (s : State) (k : Nat) (fr : Framing) : State :=
  let p := ackReplay (portGet s k) fr.lastGood
  let p := (fr.freed.take 6).zipIdx.foldl (fun p x => returnCredits p x.2 x.1) p
  let s := portSet s k { p with peerHop := fr.hop, stamp := fr.stamp }
  if fr.nak then replayFrames s k else s

/-- The flits of a frame: taken if the frame is the next one and every flit is good; a bad one is NAKed and every later frame is
discarded until it comes again. The answer says whether the frame was taken: only then do its link-control flits hold. In reset mode an
uncorrectable word resets the device (13 R349). -/
def takeFlits (s : State) (k : Nat) (fr : Framing) (fs : List Flit) : State × Bool :=
  let p := portGet s k
  if p.st ≠ .active then (s, false)
  else
    let s := countFlits s fs
    let broken := fs.any flitBroken
    if broken && decide (objGet s 0x4000 1 = 1) then (resetContainment s, false)
    else if fr.fseq ≠ p.rxGood + 1 then
      -- a repeated frame is dropped; a gap is NAKed
      if (p.rxGood - fr.fseq).toNat < 128 ∨ p.discarding then (s, false)
      else (portSet s k { p with nak := true, discarding := true }, false)
    else if broken || fs.any (fun f => !f.crcOk) then (portSet s k { p with nak := true, discarding := true }, false)
    else
      let s := portSet s k { p with rxGood := fr.fseq, discarding := false }
      (fs.foldl (fun s f => routeFlit s k (cleanFlit f)) s, true)

/-! ### Ethernet (11 R287, R288) -/

/-- An Ethernet frame of 1 to 31 flits, which take receive places of their class until they are delivered or sent on: with a bad FCS it is dropped and counted; an uncorrectable word is delivered as poison. -/
def takeEthernet (s : State) (k : Nat) (fcsOk : Bool) (fs : List Flit) : State :=
  if !(portActive s k) ∨ objGet s 0x2301 (k + 1) ≠ 2 then s
  else if !fcsOk then objAdd s 0x7300 0xE 1
  else
    let s := countFlits s (fs.map fun f => { f with crcOk := true })
    if fs.any flitBroken && decide (objGet s 0x4000 1 = 1) then resetContainment s
    else
      let s := [0, 1, 2].foldl (fun s c =>
        let n := (fs.filter fun f => decide (flitCls f = c)).length
        if n = 0 then s else placeEth s k c (storeGet 0 (portGet s k).placed c + n)) s
      fs.foldl (fun s f =>
        let g := cleanFlit f
        routeFlit (linkPoison s k f) k { g with marks := g.marks.map fun m => match m with
          | .uncorrectable _ => .poison
          | m => m }) s

/-! ### Training (11 R277 to R281) -/

/-- Whether a peer is the one that a port's place implies, answering on the opposite port; without an express ring ports 6 and 7 imply
none (R279, R289). -/
def peerOk (s : State) (k : Nat) (i : TrainInfo) : Bool :=
  (decide (k < 6) || expressOn s) && decide (i.peerId.toNat = peerOf s (myId s) k) && decide (i.peerPort.toNat = answerPort k)

/-- A port that runs at generation 1 leaves the spare lanes: a logical lane that stood on one is out of service, and the port goes on at half
width, or fails with fewer than 8 lanes (R278, R281; DEDUCED, log entry 63). -/
def leaveSpares (p : Port) : Port :=
  let onSpare := p.laneMap.filter fun m => decide (16 ≤ m.2)
  if onSpare.isEmpty then p
  else
    let q := { p with laneMap := p.laneMap.filter fun m => decide (m.2 < 16), half := true }
    if (q.retired.filter fun x => decide (x < 16)).length ≤ 8 then q else { q with st := .failed }

/-- A lane swap that a port at generation 1 cannot make: the lane is out of service without a spare, and its follow ends. -/
def dropSwap (s : State) (k : Nat) : State :=
  let p := portGet s k
  match p.swap with
  | none => s
  | some (l, _) =>
    let phys := storeGet l p.laneMap l
    let mine := s.rel.follows.contains ⟨8, BitVec.ofNat 16 (k * 18 + phys)⟩
    let s := portSet s k { p with swap := none, agreed := false, half := true, retired := p.retired ++ [phys] }
    if mine then laneLedger (s.onRel (endFollow ⟨8, BitVec.ofNat 16 (k * 18 + phys)⟩)) k phys else s

/-- The check of step 3: the peer, and the highest generation that both sides offer (DEDUCED, log entry 63). -/
def trainExchange (s : State) (k : Nat) (i : TrainInfo) : State :=
  let p := portGet s k
  if !(peerOk s k i) then
    let s := portSet s k { p with st := .miswired, step := 1 }
    fileToll (objAdd s 0x7300 0xF 1) (tollOf 0x41 2 k)
  else
    let gen := max 1 (min (objGet s 0x2303 1) i.peerGen)
    let q := { p with step := 4, gen := gen, peerId := i.peerId }
    if gen = 1 then dropSwap (portSet s k (leaveSpares q)) k else portSet s k q

/-- What this device says in step 3: every generation up to object 2303h:01, its ID, the port, the torus size and the express enable (11
R277, R278). -/
def myExchange (s : State) (k : Nat) : LinkControl :=
  .exchange (objGet s 0x2303 1) (BitVec.ofNat 14 (myId s)) k (objGet s 0x2300 2) (objGet s 0x2300 3) (objGet s 0x2300 4)
    (decide (objGet s 0x2300 5 = 1))

/-- A lane swap at a port that has trained again: the end that retires the lane asks for it again (11 R280), and the other forgets it. -/
def swapAgain (s : State) (k : Nat) : State :=
  let p := portGet s k
  match p.swap with
  | none => s
  | some (l, sp) =>
    let mine := s.rel.follows.contains ⟨8, BitVec.ofNat 16 (k * 18 + storeGet l p.laneMap l)⟩
    if mine then openFrame (portSet s k { p with agreed := false }) k false [.laneSwap l sp]
    else portSet s k { p with swap := none, agreed := false }

/-- What a device that has a beat tells a port's new peer: the period in force, one that is announced (11 R295), and which root acts
(R299). -/
def tellNew (s : State) (k : Nat) : State :=
  let b := s.fab.beat
  if !(b.gen && portActive s k) then s
  else
    let ctl := .periodNow b.periodFrom b.period :: (match b.switchAt with
        | some (c, ns) => [.period c ns]
        | none => [])
      ++ (if b.root.toNat = objGet s 0x2320 2 then [] else [.root b.root])
    openFrame s k false ctl

/-- TRAINING_STEP_DONE: the step in progress ends well (DEDUCED, log entry 61). -/
def trainStep (s : State) (k : Nat) (i : TrainInfo) : State :=
  let p := portGet s k
  if p.st ≠ .dark ∧ p.st ≠ .training ∧ p.st ≠ .retrain then s
  else if objGet s 0x2301 (k + 1) = 2 then
    (if p.st = .dark then portSet s k { p with st := .active, ethSeq := 0, placed := [], pausing := [], paused := [] } else s)
  else
    let st : PortState := if p.st = .retrain then .retrain else .training
    match p.step with
    | 1 =>
      if min i.lanes (lanesLeft p) < 8 then portSet s k { p with st := .failed }
      else portSet s k { p with st := st, step := 2, half := p.half || decide (i.lanes < 16) }
    | 2 => (portSet (freshFree s).2 k { p with st := st, step := 3 }).emit (.frame k (framingOf s k 0 false [myExchange s k]))
    | 3 => trainExchange s k i
    | 4 => portSet s k { p with st := st, step := 5, rtt := i.rttNs }
    | _ =>
      let s := portSet s k { p with
        st := .active, step := 5, credits := [], shared := 1628, txSeq := 0, rxGood := 0, discarding := false, replay := [],
        sentCtl := [], replays := 0, served := (0, 0), freed := [], nak := false, peerHop := 63 }
      tellNew (nextSwap (swapAgain s k) k) k

/-- TRAINING_STEP_TIMEOUT: the step fails, the attempt is counted, and training returns to step 1. -/
def trainFail (s : State) (k : Nat) : State :=
  let p := portGet s k
  match p.st with
  | .dark | .training => portSet s k { p with st := .dark, step := 1, attempts := p.attempts + 1 }
  | .retrain => portSet s k { p with step := 1, attempts := p.attempts + 1 }
  | _ => s

/-- PORT_DARK_TIMEOUT: 64 frames without a valid framing slice. -/
def darkTimeout (s : State) (k : Nat) : State :=
  match (portGet s k).st with
  | .active | .training | .retrain | .miswired => darkenPort s k
  | _ => s

end Sys2Proof.Machine
end

