-- ==== Sys2Proof/Machine/Beat.lean ====
section
/-! DEFINITION. The beat: boundaries and what happens at one, the root and its period, the upstream, holdover and reacquisition;
the watchdog (11 R294 to R300, 03 R70 and R480, 13 R355). -/

namespace Sys2Proof.Machine

/-- Change the beat. -/
def onBeat (s : State) (f : Beat → Beat) : State := s.onFab fun k => { k with beat := f k.beat }

/-! ### The upstream (11 R296) -/

/-- The best upstream: the ACTIVE Shuaskol port whose peer advertises the lowest HOP below 63, the lowest port of several. -/
def bestUpstream (s : State) : Option Nat :=
  let ps := (shuaskolPorts s).filter fun k => decide ((portGet s k).peerHop.toNat < 63)
  ps.find? fun k => ps.all fun j => decide ((portGet s k).peerHop.toNat ≤ (portGet s j).peerHop.toNat)

/-- The upstream is chosen again at a boundary after it has left ACTIVE or its HOP has risen; with none the device is in
holdover (R300). -/
def reselect (s : State) : State :=
  let b := s.fab.beat
  if b.st ≠ 2 then s
  else
    let fine := portActive s b.upstream && decide (objGet s 0x2301 (b.upstream + 1) = 1)
      && decide ((portGet s b.upstream).peerHop.toNat + 1 ≤ b.hop.toNat) && decide ((portGet s b.upstream).peerHop.toNat < 63)
    if fine then onBeat s fun b => { b with hop := hopVia s b.upstream }
    else
      match bestUpstream s with
      | some k => onBeat s fun b => { b with upstream := k, hop := hopVia s k }
      | none => onBeat (objAdd s 0x7300 9 1) fun b => { b with st := 3, hop := 63, waiting := false }

/-! ### Boundaries (11 R298, R304) -/

/-- The beat compare (03 R70): each nonzero write of SX_BCMP raises interrupt 19h once. -/
def beatCompare (s : State) : State :=
  if s.ctl.bcmpArmed ∧ field s.ctl.bcmp 47 0 ≤ s.fab.beat.count.toNat then
    raiseInt (s.onCtl fun c => { c with bcmpArmed := false }) 0x19
  else s

/-- The watchdog's counts at a boundary (03 R480): both stand while MX_WDT is 0, the stream is stopped, by a debugger's halt too (01 R25;
DEDUCED, log entry 106), or the limit's mute holds. -/
def countWatch (s : State) : State :=
  if field s.ctl.wdt 31 0 = 0 ∨ s.seq.running = false ∨ s.trust.halted = true then s
  else
    let s := if s.power.limit then s else s.onCnt fun c => { c with watchdog := c.watchdog + 1 }
    if s.seq.wait.isEmpty then s else s.onSeq fun q => { q with waitBeats := q.waitBeats + 1 }

/-- SEQ1's CRC of the bundles of the beat that has ended is compared with SEQ0's own (13 R355). -/
def crcCheck (s : State) (crcOk : Bool) (ended : BitVec 48) : State :=
  let s := s.onCnt fun c => { c with bundlesInBeat := 0 }
  if crcOk ∨ s.seq.running = false then s else seqMismatch s ended

/-- A boundary with a count: its clk, the beat scan, the beat compare, the watchdog counts, the upstream, the CRC and the markers
that go out. -/
def boundaryAt (s : State) (count : BitVec 48) (crcOk : Bool) : State :=
  let ended := s.fab.beat.count
  let s := onBeat s fun b => { b with count := count, boundary := realClk s }
  let s := s.onFab fun f => { f with beatScans := f.beatScans ++ [(s.cnt.clk, 0, count.toNat)] }
  let s := countWatch (beatCompare s)
  let s := reselect s
  let s := (shuaskolPorts s).foldl (fun s k => openFrame s k true []) s
  crcCheck s crcOk ended

/-- BEAT_BOUNDARY: none without a generator, and none while the count waits for the upstream's (R300); a device that waits and has lost its
upstream chooses another, or counts on in holdover. -/
def takeBoundary (s : State) (crcOk : Bool) : State :=
  let b := s.fab.beat
  if !(b.gen && domOn s 1) then s
  else if !b.waiting then boundaryAt s (b.count + 1) crcOk
  else
    let s := reselect s
    if s.fab.beat.waiting then s else boundaryAt s (b.count + 1) crcOk

/-! ### The root (11 R294, R295, R299) -/

/-- BEAT_ROOT_ENABLE: the D2D domain is on and the device is the root of object 2320h:02, for the first time since the domain came up; the
boundary with the initial count falls at this instant, whatever beat the device followed before. -/
def rootEnable (s : State) : State :=
  if domOn s 1 = true ∧ s.fab.beat.enabled = false ∧ myId s = objGet s 0x2320 2 then
    let first : BitVec 48 := BitVec.ofNat 48 (objGet s 0x2320 4)
    let me : BitVec 14 := BitVec.ofNat 14 (myId s)
    let s := onBeat s fun b => { b with
      st := 1, gen := true, enabled := true, hop := 0, waiting := false, period := objGet s 0x2320 1, periodFrom := first, switchAt := none,
      root := me }
    tellPeers (boundaryAt s first true) 8 (.periodNow first s.fab.beat.period)
  else s

/-- A new period written on the root: announced with the switch count C, the current count plus 1,024. -/
def announcePeriod (s : State) (ns : Nat) : State :=
  let c := s.fab.beat.count + 1024
  if s.fab.beat.gen = true ∧ s.fab.beat.st = 1 then tellPeers (onBeat s fun b => { b with switchAt := some (c, ns) }) 8 (.period c ns)
  else s

/-- BEAT_PERIOD_SWITCH at beat C (DEDUCED, log entry 65). -/
def periodSwitch (s : State) : State :=
  match s.fab.beat.switchAt with
  | some (c, ns) =>
    if c.toNat ≤ s.fab.beat.count.toNat then onBeat s fun b => { b with period := ns, periodFrom := c, switchAt := none } else s
  | none => s

/-- BACKUP_ROOT_TAKEOVER: the backup root, having seen no marker for 4 beat periods, becomes the acting root and counts on. -/
def backupTakeover (s : State) : State :=
  if s.fab.beat.gen = true ∧ s.fab.beat.st ≠ 1 ∧ myId s = objGet s 0x2320 3 ∧ objGet s 0x2320 3 ≠ objGet s 0x2320 2 then
    let me : BitVec 14 := BitVec.ofNat 14 (myId s)
    tellPeers (onBeat s fun b => { b with st := 1, actingRoot := true, hop := 0, waiting := false, root := me }) 8 (.root me)
  else s

/-! ### Holdover and reacquisition (11 R300) -/

/-- HOLDOVER_EXPIRY: 2 ms without an upstream. Record 0043h, a tocsin, and a stop at the next MARK to angle 0. -/
def holdoverExpire (s : State) : State :=
  if s.fab.beat.st ≠ 3 then s
  else
    let s := onBeat s fun b => { b with st := 4 }
    let s := sendTocsin (fileToll s { tollOf 0x43 2 0 with flags := 8 }) 2 0 0x43
    if s.seq.running then s.onCnt fun c => { c with stopAtMark := true } else s

/-- BEAT_REACQUIRED: the device takes the beat of its upstream, the best of its ports (R296), with that count. A count at or above its own jumps
forward; below it, the count waits, and the wait is counted. The root of object 2320h:02 takes the beat too, once it knows that
another root acts (R299). -/
def reacquire (s : State) (k : Nat) (count : BitVec 48) : State :=
  let b := s.fab.beat
  if bestUpstream s ≠ some k ∨ b.st = 1 ∨ b.st = 2 ∨ domOn s 1 = false then s
  else
    let fresh := onBeat s fun b => { b with st := 2, gen := true, upstream := k, hop := hopVia s k }
    if !b.gen then onBeat fresh fun b => { b with
      count := count, boundary := realClk s, root := if b.rootTold then b.root else BitVec.ofNat 14 (objGet s 0x2320 2) }
    else if b.count.toNat ≤ count.toNat then onBeat fresh fun b => { b with count := count, waiting := false }
    else onBeat (objAdd fresh 0x7300 9 1) fun b => { b with waiting := true }

/-- A beat marker in a frame: from the upstream it ends the wait of R300 once its count is above the device's own; a device that
has had no beat takes it. -/
def takeMarker (s : State) (k : Nat) (count : BitVec 48) : State :=
  let b := s.fab.beat
  if !(portActive s k) ∨ domOn s 1 = false then s
  else if b.gen = false ∧ myId s ≠ objGet s 0x2320 2 then reacquire s k count
  else if b.waiting ∧ b.upstream = k ∧ b.count.toNat < count.toNat then
    boundaryAt (onBeat s fun b => { b with waiting := false }) count true
  else s

/-- A new acting root (R299): a root that is not it takes the beat like any other device, and is in holdover until it does. -/
def takeRoot (s : State) (k : Nat) (id : BitVec 14) : State :=
  if s.fab.beat.root = id ∧ (s.fab.beat.gen || s.fab.beat.rootTold) = true then s
  else
    let s := tellPeers (onBeat s fun b => { b with root := id, rootTold := true }) k (.root id)
    if s.fab.beat.st = 1 ∧ id.toNat ≠ myId s then
      onBeat (objAdd s 0x7300 9 1) fun b => { b with st := 3, hop := 63, actingRoot := false }
    else s

/-- A lane swap that a port's peer asks for (11 R280): agreed if the spare is free here, with the frame that begins at or after the next
boundary; the answer names that boundary. Where both ends ask for a swap at once, the one of the device with the higher ID waits (DESIGN
CHOICE, log entry 131). -/
def takeSwap (s : State) (k l sp : Nat) : State :=
  let p := portGet s k
  let free := decide (l < 16) && (spareLanes p).contains sp && decide (p.gen = 2) && !p.half
  let give := match p.swap with
    | none => true
    | some x => decide (x = (l, sp)) || (!p.agreed && decide (p.peerId.toNat < myId s))
  if free && give then
    let s := portSet s k { p with swap := some (l, sp), agreed := true, swapAt := s.fab.beat.count + 1 }
    openFrame s k false [.laneAgree l sp (s.fab.beat.count + 1)]
  else s

/-- A period of the beat that a peer announces or that is in force there (11 R295): the device that has a beat, other than the acting root,
passes a new one on; one without a beat holds it. -/
def takePeriod (s : State) (k : Nat) (announced : Bool) (c : BitVec 48) (ns : Nat) : State :=
  let b := s.fab.beat
  if b.st = 1 then s
  else if announced then
    if b.switchAt = some (c, ns) ∨ (b.gen = true ∧ c.toNat ≤ b.count.toNat) then s
    else tellPeers (onBeat s fun b => { b with switchAt := some (c, ns) }) k (.period c ns)
  else if b.gen = true ∧ c.toNat ≤ b.periodFrom.toNat ∨ (b.period = ns ∧ b.periodFrom = c) then s
  else tellPeers (onBeat s fun b => { b with period := ns, periodFrom := c }) k (.periodNow c ns)

/-- A link-control message of a port's peer: its shutdown makes the port DARK (R293); its lane swap is agreed if the spare is free here, and
its answer to a swap names the frame (R280); a period is passed on and switched to at its count (R295); the acting root (R299). What training
exchanges is the operand of TRAINING_STEP_DONE. -/
def takeControl (s : State) (k : Nat) (c : LinkControl) : State :=
  match c with
  | .shutdown => darkenPort s k
  | .laneSwap l sp => takeSwap s k l sp
  | .laneAgree l sp at' =>
    let p := portGet s k
    if p.swap = some (l, sp) ∧ p.agreed = false then portSet s k { p with agreed := true, swapAt := at' } else s
  | .period c ns => takePeriod s k true c ns
  | .periodNow c ns => takePeriod s k false c ns
  | .root id => takeRoot s k id
  | .exchange .. | .pause .. => s

/-- Whether a port that carries no traffic hears its peer's frames. -/
def hearsPeer (p : Port) : Bool :=
  match p.st with
  | .training | .retrain | .miswired => true
  | _ => false

/-- FRAME_RECEIVED: a frame with a valid framing slice on an ACTIVE Shuaskol port. Frames leave a port without a break: the next one carries
the acknowledgement, a NAK and the freed places (11 R275, R276, R283). On a port that carries no traffic only the peer's shutdown counts
(R293). On an Ethernet port the command brings the peer's flow-control frames (R286; DESIGN CHOICE, log entry 143). -/
def frameIn (s : State) (k : Nat) (fr : Framing) (fs : List Flit) : State :=
  if objGet s 0x2301 (k + 1) = 2 ∧ portActive s k then
    fr.control.foldl (fun s c => match c with
      | .pause i cls quanta => takePause s k i cls quanta
      | _ => s) s
  else if objGet s 0x2301 (k + 1) ≠ 1 ∨ fr.sync ≠ 0xF628 then s
  else if !(portActive s k) then (if hearsPeer (portGet s k) && fr.control.contains .shutdown then darkenPort s k else s)
  else
    let s := takeFraming s k fr
    let r := takeFlits s k fr fs
    let s := if fr.bm then takeMarker r.1 k fr.beat else r.1
    let s := if r.2 then fr.control.foldl (fun s c => takeControl s k c) s else s
    if portActive s k then openFrame s k false [] else s

/-! ### The watchdog's faults (03 R480) -/

/-- A watchdog fault as a deferred one: subcode, slot and bundle (DEDUCED, log entry 64). -/
def watchFault (s : State) (sub slot : Nat) (bundle : IAddr) : State :=
  pushDeferred s
    { code := 9, sub := BitVec.ofNat 8 sub, faddr := 0, slot := BitVec.ofNat 3 slot, slice := 0, level := s.seq.pl, bundle := bundle,
      op := s.cnt.op, clk := s.cnt.clk, replay := none }

/-- WATCHDOG_EXPIRY: the count has reached MX_WDT; it restarts from zero. The fault belongs to no bundle: OPA and SLOT read 0 (DESIGN
CHOICE, log entry 64). -/
def watchExpire (s : State) : State :=
  let lim := field s.ctl.wdt 31 0
  if s.seq.running = true ∧ lim ≠ 0 ∧ lim ≤ s.cnt.watchdog then
    (watchFault s 1 0 0).onCnt fun c => { c with watchdog := 0 }
  else s

/-- WAIT_HOLD_WATCHDOG_EXPIRY: one hold has met MX_WDT boundaries. -/
def waitExpire (s : State) : State :=
  let lim := field s.ctl.wdt 31 0
  match s.seq.wait with
  | w :: _ =>
    if s.seq.running = true ∧ lim ≠ 0 ∧ lim ≤ s.seq.waitBeats then
      (watchFault s 2 (waitSlot w) s.seq.waitAt).onSeq fun q => { q with waitBeats := 0 }
    else s
  | [] => s

end Sys2Proof.Machine
end

