-- ==== Sys2Proof/Machine/BeatCmds.lean ====
section
/-! DEFINITION. The beat, and the start after a wake (11 R294 to R300, 15 R396). -/

namespace Sys2Proof.Machine
open Sys2Proof

/-- BEAT_BOUNDARY (11 R298). -/
def execBeatBoundary (seq1CrcOk : Bool) (s : State) : Host.Outcome State Fault Refusal := .next (takeBoundary s seq1CrcOk)

/-- STREAM_START_AFTER_WAKE (15 R396). -/
def execStreamStartAfterWake (s : State) : Host.Outcome State Fault Refusal := .next (startAfterWake s)

/-- BEAT_ROOT_ENABLE (11 R294). -/
def execBeatRootEnable (s : State) : Host.Outcome State Fault Refusal := .next (rootEnable s)

/-- BEAT_PERIOD_SWITCH (11 R295). -/
def execBeatPeriodSwitch (s : State) : Host.Outcome State Fault Refusal := .next (periodSwitch s)

/-- BACKUP_ROOT_TAKEOVER (11 R299). -/
def execBackupRootTakeover (s : State) : Host.Outcome State Fault Refusal := .next (backupTakeover s)

/-- HOLDOVER_EXPIRY (11 R300). -/
def execHoldoverExpiry (s : State) : Host.Outcome State Fault Refusal := .next (holdoverExpire s)

/-- BEAT_REACQUIRED (11 R300). -/
def execBeatReacquired (port : BitVec 3) (count : BitVec 48) (s : State) : Host.Outcome State Fault Refusal :=
  .next (reacquire s port.toNat count)

end Sys2Proof.Machine
end

