-- ==== Sys2Proof/Machine/Trust.lean ====
section
/-! DEFINITION. Trust, firmware update, debug levels, tokens and attestation (16 R411 to R431), and the installation of peals (13
R365). -/

namespace Sys2Proof.Machine

/-! ### Identity (16 R422, R423) -/

/-- The 16-byte serial of object 1018h:04. -/
def serialBytes : List Byte := slice (padTo 16 (Config.asBuiltBytes (objKey 0x1018 4))) 0 16

/-- The security state as object 5000h:01 shows it: 3 in recovery. -/
def securityShown (s : State) : Nat := if s.trust.boot = 4 then 3 else s.trust.security

/-- The rest of the last reserved block of 256 is skipped. -/
def skipBlock (n : Nat) : Nat := n / 256 * 256

/-- HMAC-SHA-384, whose block is 128 bytes (FIPS 198-1; PRESUMED, log entry 11). -/
def hmac384 (key msg : List Byte) : List Byte :=
  let k := padTo 128 (if 128 < key.length then Config.sha384 key else key)
  Config.sha384 (k.map (fun b => b ^^^ 0x5C) ++ Config.sha384 (k.map (fun b => b ^^^ 0x36) ++ msg))

/-- The KDF in counter mode of NIST SP 800-108 with HMAC-SHA-384, for one block of 384 bits (PRESUMED, log entry 11). -/
def kdf (key : List Byte) (label : Nat) (context : List Byte) : List Byte :=
  hmac384 key ([0, 0, 0, 1] ++ Config.kdfLabel label ++ [0] ++ context ++ [0, 0, 1, 0x80])

/-- 48 bytes drawn for a new UDS; the UDS in OTP. -/
def drawUds (n : Nat) : List Byte := slice (padTo 48 (Config.random 48 n)) 0 48
def udsNow (s : State) : List Byte := if s.trust.uds.isEmpty then slice (padTo 48 Config.shippedUds) 0 48 else s.trust.uds

/-- Whether the security state has DeviceID and Alias keys (16 Table 16-7). -/
def hasIdentity (s : State) : Bool := decide (1 ≤ s.trust.security ∧ s.trust.security ≤ 2)

/-- What ROM derives before it looks for an image: the DeviceID keys, from the UDS and the fused security state (16 Table 16-6). -/
def deriveDevice (s : State) : State :=
  if hasIdentity s then s.onTrust fun t => { t with deviceSeed := kdf (udsNow s) 0 [BitVec.ofNat 8 t.security], cdi := [] } else s

/-- ROM starts the steward firmware of an image: it derives the CDI and closes the UDS. Where an earlier start since the AON reset has closed
it, no CDI and so no Alias key is derived until the next one (DESIGN CHOICE, log entry 141). The rest of the last reserved block of DeviceID's
leaves is skipped (16 R412, R422, R423). -/
def startFirmware (s : State) (image : List Byte) : State :=
  let part := Config.sha384 (componentOf image 1) ++ leBytes 4 (svnOf image 1)
  let c := if hasIdentity s && !s.trust.udsClosed
    then hmac384 (udsNow s) (part ++ [BitVec.ofNat 8 s.trust.security, BitVec.ofNat 8 s.trust.level]) else []
  s.onTrust fun t => { t with boot := 2, running := image, cdi := c, udsClosed := true, leaves := skipBlock t.leaves }

/-- The Alias key in use; none. -/
def aliasNow (s : State) : AliasKey := s.trust.aliases.headD { cdi := [], gen := 0, left := 0 }

/-- At boot the steward takes the Alias key of its CDI: the certified one, or a new one that DeviceID certifies with a leaf. -/
def deriveAlias (s : State) : State :=
  let rest := s.trust.aliases.filter fun k => decide (k.cdi ≠ s.trust.cdi)
  if s.trust.cdi.isEmpty then s
  else
    match s.trust.aliases.find? fun k => decide (k.cdi = s.trust.cdi) with
    | some k => s.onTrust fun t => { t with aliasOk := true, aliases := { k with left := skipBlock k.left } :: rest }
    | none =>
      let left := if s.trust.leaves = 0 then 0 else 1048576
      s.onTrust fun t => { t with aliasOk := true, leaves := t.leaves - 1, aliases := ⟨t.cdi, 0, left⟩ :: rest }

/-- One HSS signature of the Alias key is used; when the last is gone the generation rises and DeviceID certifies the new key, if
it has a leaf. -/
def useAlias (s : State) : State :=
  match s.trust.aliases with
  | [] => s
  | k :: r =>
    if 2 ≤ k.left then s.onTrust fun t => { t with aliases := { k with left := k.left - 1 } :: r }
    else if k.left = 1 ∧ 0 < s.trust.leaves then
      s.onTrust fun t => { t with leaves := t.leaves - 1, aliases := { k with left := 1048576, gen := k.gen + 1 } :: r }
    else s.onTrust fun t => { t with aliases := { k with left := 0 } :: r }

/-! ### Firmware update (16 R418 to R420) -/

/-- The update status changes: vector 6. -/
def setUpdate (s : State) (st : Nat) : State :=
  if s.trust.updStatus = st then s else signal (s.onTrust fun t => { t with updStatus := st }) 6

/-- An update in status 1 to 3 is discarded (DEDUCED, log entry 72). -/
def discardUpdate (s : State) : State :=
  if 1 ≤ s.trust.updStatus ∧ s.trust.updStatus ≤ 3 then
    setUpdate (s.onTrust fun t => { t with staged := [], goAhead := false, updBy := none }) 7
  else s

/-- The transfer of an image begins: false where an update is under way, with reason 01h. -/
def beginTransfer (s : State) (cls : Cls) : State × Bool :=
  if 1 ≤ s.trust.updStatus ∧ s.trust.updStatus ≤ 4 then (s.onTrust fun t => { t with updReason := 1 }, false)
  else (setUpdate (s.onTrust fun t => { t with updBy := some cls, staged := [], updReason := 0, goAhead := false }) 1, true)

/-- A transfer that is aborted leaves no update. -/
def dropTransfer (s : State) : State :=
  if s.trust.updStatus = 1 then setUpdate (s.onTrust fun t => { t with updBy := none, staged := [] }) 0 else s

/-- The transfer is complete: the steward verifies. -/
def endTransfer (s : State) (image : List Byte) : State :=
  if s.trust.updStatus = 1 then setUpdate (s.onTrust fun t => { t with updBy := none, staged := image }) 2 else s

/-- UPDATE_VERIFY_COMPLETE: the image waits for activation or is refused. In recovery a good image boots from RAM at once, and its
flash write follows (R421). -/
def verifyUpdate (s : State) : State :=
  if s.trust.updStatus ≠ 2 then s
  else
    let r := imageRefusal s s.trust.staged
    if r ≠ 0 then setUpdate (s.onTrust fun t => { t with updReason := r, staged := [] }) 6
    else if s.trust.boot = 4 then
      setUpdate (startFirmware (s.onTrust fun t => { t with level := 0 }) s.trust.staged) 4
    else setUpdate s 3

/-- An engine's start check fails: RETRAIN and a record, whose type and severity no rule gives (DESIGN CHOICE, log entry 40); the third time the
port is FAILED. -/
def engineFail (s : State) (k : Nat) : State :=
  let n := storeGet 0 s.trust.engineFails k + 1
  let s := s.onTrust fun t => { t with engineFails := storeSet 0 t.engineFails k n }
  let (v, s) := freshFree s
  let s := fileToll s (tollOf (field v 15 0) (field v 17 16) k)
  if 3 ≤ n then
    if portActive s k then leaveActive s k .failed else portSet s k { portGet s k with st := .failed }
  else if portActive s k then retrainPort s k else s

/-- UPDATE_ACTIVATION: at a beat boundary with no peal and no follow the engines switch, issue is held while the runtime lines are
written, and the steward restarts (R419). The length of the hold, at most 40 µs of the clock in force, is a free value (DESIGN CHOICE, log entry 66). -/
def activateUpdate (s : State) (failed : List (BitVec 3)) : State :=
  if s.trust.updStatus ≠ 3 ∨ s.trust.goAhead = false ∨ s.rel.running.isSome ∨ s.rel.follows ≠ [] ∨ atBeat s = false then s
  else
    let s := setUpdate (s.onTrust fun t => { t with running := t.staged, goAhead := false, restarting := true, since := realClk s, loaded := false }) 4
    let s := (List.range 8).foldl (fun s k =>
      if failed.contains (BitVec.ofNat 3 k) then engineFail s k
      else s.onTrust fun t => { t with engineFails := storeSet 0 t.engineFails k 0 }) s
    let s := loadIfNeeded s
    let s := s.onSeq fun q => { q with lines := [] }
    if !s.seq.running then s
    else
      let (v, s) := freshFree s
      s.onSeq fun q => { q with holdTo := s.cnt.clk + v.toNat % (40 * pointMhz s.power.dvfs + 1) }

/-- STEWARD_RESTART_COMPLETE: the records that have waited in AON are filed. -/
def restartDone (s : State) : State :=
  s.rel.waiting.foldl enterToll ((s.onTrust fun t => { t with restarting := false }).onRel fun r => { r with waiting := [] })

/-- Whether the restarting steward answers dictionary requests as busy: from the commit point on, where a request that lands at that boundary is
still taken (16 R419, worked example). -/
def stewardBusy (s : State) : Bool := s.trust.restarting && decide (s.trust.since ≠ realClk s)

/-- FLASH_WRITE_COMPLETE. -/
def flashDone (s : State) : State :=
  if s.trust.updStatus = 4 ∧ s.trust.restarting = false ∧ s.trust.boot = 3 then
    setUpdate (s.onTrust fun t => { t with flash := t.running, flashBad := false, staged := [] }) 5
  else s

/-- A write of 1 to 1F50h:02: the status it is answered with (DEDUCED, log entry 79). -/
def askActivate (s : State) : State × Nat :=
  if s.trust.updStatus = 3 then (s.onTrust fun t => { t with goAhead := true }, 0) else (s, 0xA)

/-- A write of 0 to 1F50h:02. -/
def abortUpdate (s : State) : State × Nat :=
  if 1 ≤ s.trust.updStatus ∧ s.trust.updStatus ≤ 3 then
    let s := discardUpdate s
    ({ s with dict := { s.dict with sessions := s.dict.sessions.filter fun e => decide (e.2.idx ≠ 0x1F50) } }, 0)
  else (s, 7)

/-- A write of 1 to 5021h:01 (R416). A counter has 64 fuses (R415): the lowest version of the peals counts as 64 above that (DESIGN CHOICE, log
entry 139). -/
def commitVersions (s : State) : State :=
  if s.trust.updStatus ≠ 5 ∧ s.trust.updStatus ≠ 0 then s
  else
    let up := fun (s : State) (t v : Nat) => if versionCounter s t < v then objSet s 0x5020 t v else s
    let s := [1, 2, 3].foldl (fun s t => up s t (svnOf s.trust.running t)) s
    let svns := s.rel.peals.map fun p => min 64 p.version.toNat
    let s : State := match svns with
      | [] => s
      | v :: r => up s 4 (r.foldl min v)
    if s.trust.updStatus = 5 then setUpdate s 0 else s

/-! ### Peals (13 R365) -/

/-- A package's content without its block. -/
def pealBody (pkg : List Byte) : List Byte := pkg.take (pkg.length - blockSize)

/-- Whether a package is well formed. -/
def pealFormOk (pkg : List Byte) : Bool :=
  decide (64 + blockSize ≤ pkg.length) && decide (numAt pkg 0 4 = 1) && decide (1 ≤ numAt pkg 4 2 ∧ numAt pkg 4 2 ≤ 0xFFFE)
    && decide (numAt pkg 6 2 < 8) && decide (numAt pkg 16 4 = pkg.length - blockSize - 64) && zeroAt pkg 20 44

/-- Whether a package verifies (R413): every key set may sign peals (Table 16-3). -/
def pealSigned (s : State) (pkg : List Byte) : Bool := match verifySigned s pkg fun _ => true with
  | .ok _ => true
  | _ => false

/-- Whether every installed peal verifies, as each boot asks (Table 16-1, R415). -/
def pealsVerify (s : State) : Bool := s.rel.peals.all fun p => pealSigned s p.package && decide (versionCounter s 4 ≤ p.version.toNat)

/-- Install a package: the status. Only with both signatures good, a security version not below the peal counter, and room for
it. -/
def installPeal (s : State) (pkg : List Byte) : State × Nat :=
  let good := pealSigned s pkg
  let p : Peal :=
    { num := BitVec.ofNat 16 (numAt pkg 4 2), flags := BitVec.ofNat 16 (numAt pkg 6 2), version := BitVec.ofNat 32 (numAt pkg 8 4),
      dur := BitVec.ofNat 32 (numAt pkg 12 4), body := (pealBody pkg).drop 64, package := pkg }
  let rest : List Peal := s.rel.peals.filter fun q => decide (q.num ≠ p.num)
  if pealFormOk pkg = true ∧ good = true ∧ versionCounter s 4 ≤ p.version.toNat ∧ rest.length < 64 then
    (s.onRel fun r => { r with peals := rest ++ [p] }, 0)
  else (s, 0xA)

/-! ### The challenge and tokens (16 R428, R429, R414) -/

/-- A new challenge: a 32-byte nonce and the serial; the earlier one is void. -/
def newChallenge (s : State) : State × List Byte :=
  let nonce := slice (padTo 32 (Config.random 32 s.cnt.free)) 0 32
  ((s.onCnt fun c => { c with free := c.free + 1 }).onTrust fun t => { t with challenge := some nonce }, nonce ++ serialBytes)

/-- A debugger's halt ends: the halted stream runs on from where it stood, which is a start that the host is told (01 R25). No rule says
what ends a halt; the model ends it with the invasive level (DESIGN CHOICE, log entry 106). -/
def releaseHalt (s : State) : State :=
  let t := s.onTrust fun t => { t with halted := false }
  if s.trust.halted && s.seq.running then signal (t.emit (.stream true s.seq.pc.toNat)) 3 else t

/-- The debug level returns to closed at once. -/
def closeDebug (s : State) : State := releaseHalt (s.onTrust fun t => { t with level := 0 })

/-- The bytes of a token. -/
def tokenSize : Nat := 2112

/-- Whether a key set may sign a token of a kind and target in the security state shown (16 Tables 16-3, 16-7). -/
def tokenSigner (sec kind target k : Nat) : Bool :=
  if kind = 1 then vendorSet k || (decide (sec = 1)) || (decide (sec = 2) && decide (target = 1)) else vendorSet k

/-- Whether a token's change is one that the security state allows. -/
def tokenAllowed (s : State) (kind target signer : Nat) : Bool :=
  let sec := securityShown s
  if kind = 1 then
    (decide (target = 1) && decide (1 ≤ sec ∧ sec ≤ 3)) || (decide (target = 2) && decide (1 ≤ sec ∧ sec ≤ 2))
  else if kind = 2 then
    (decide (sec = 0) && decide (target = 1 ∨ target = 2)) || (decide (sec = 1) && decide (target = 2))
      || (decide (sec ≤ 2) && decide (target = 4))
  else
    decide (target < 6) && decide (target ≠ signer) && (decide (target < 4) || decide (keySetState s target ≠ 0))
      && (decide (4 ≤ target) || (List.range 4).any fun k => decide (k ≠ target) && decide (keySetState s k = 1))

/-- The bytes 16 to 47 of every peer set record cleared, and object 4101h. -/
def clearKeys (s : State) : State :=
  let d := s.dict
  let table := storeGet [] d.blobs (objKey 0x2340 0)
  let wiped := (table.zipIdx).map fun b => if 16 ≤ b.2 % 48 then (0 : Byte) else b.1
  { s with dict := { d with blobs := storeSet [] (storeErase d.blobs (objKey 0x4101 0)) (objKey 0x2340 0) wiped } }

/-- The acceptance of an invasive token in production (R429), before the level changes. The type and severity of its record
are free values (DESIGN CHOICE, log entry 40). -/
def invasiveAccepted (s : State) : State :=
  let s := clearKeys (stopStream s)
  let s := s.onTrust fun t => { t with aliasOk := false }
  let (v, s) := freshFree s
  fileToll s (tollOf (field v 15 0) (field v 17 16) 0)

/-- The security state moves (R412, R429, R431): an update is discarded, debug closes; out of manufacturing the steward draws the UDS and fuses
it. Decommissioning destroys the UDS and leaves
D3cold only; no rule says how a running stream ends then, and the model stops it at once and drops every domain, after the write-back of the
dirty lines (15 R391; DESIGN CHOICE, log entry 107). -/
def moveSecurity (s : State) (t : Nat) : State :=
  let s := discardUpdate s
  let s := closeDebug s
  let leaves := decide (s.trust.security = 0)
  let drawn := drawUds s.cnt.free
  let s := if leaves then s.onCnt fun c => { c with free := c.free + 1 } else s
  let s := s.onTrust fun x => { x with
    udsFused := decide (t ≠ 4), security := t, uds := if t = 4 then List.replicate 48 0xFF else if leaves then drawn else x.uds }
  if t = 4 then
    let s := clearKeys s
    let s := s.onTrust fun x => { x with aliasOk := false }
    loseAllDomains (writeBackAll (stopStream s))
  else s

/-- Submit a token: the result that object 5000h:04 records. -/
def submitToken (s : State) (tok : List Byte) : State :=
  let kind := numAt tok 4 1
  let target := numAt tok 5 1
  let put := fun (s : State) (r : Nat) => s.onTrust fun t => { t with token := r }
  if tok.length ≠ tokenSize ∨ slice tok 0 4 ≠ asciiBytes "IQTK" ∨ kind = 0 ∨ 3 < kind ∨ zeroAt tok 6 2 = false
    ∨ zeroAt tok 56 8 = false then put s 5
  else
    match verifySigned s tok (tokenSigner (securityShown s) kind target) with
    | .malformed => put s 5
    | .keyset => put s 4
    | .signature => put s 2
    | .ok k =>
      if s.trust.challenge ≠ some (slice tok 24 32) ∨ slice tok 8 16 ≠ serialBytes then put s 3
      else if tokenAllowed s kind target k = false then put s 4
      else
        let s := put (s.onTrust fun t => { t with challenge := none }) 1
        if kind = 1 then
          let s := if target = 2 ∧ s.trust.security = 2 ∧ s.trust.boot ≠ 4 then invasiveAccepted s else s
          s.onTrust fun t => { t with level := max t.level target }
        else if kind = 2 then moveSecurity s target
        else s.onTrust fun t => { t with revoked := storeSet false t.revoked target true }

/-- A write of 5030h:02: 0 closes the level; 1 and 2 raise it in the manufacturing state only. -/
def requestLevel (s : State) (v : Nat) : State × Nat :=
  if v = 0 then (closeDebug s, 0)
  else if s.trust.security = 0 ∧ s.trust.boot ≠ 4 ∧ v ≤ 2 then
    let s := s.onTrust fun t => { t with level := v }
    (if v = 2 then s else releaseHalt s, 0)
  else (s, 0xA)

/-- A once-only write of the hashes of an owner key set (5010h:07, :08). -/
def provisionOwner (s : State) (k : Nat) (hashes : List Byte) : State :=
  s.onTrust fun t => { t with ownerKeys := storeSet [] t.ownerKeys k hashes }

/-! ### Attestation (16 R424, R425, Table 16-5) -/

/-- Whether SPDM is answered at all, and in full: not before the steward is up, not when decommissioned; in the manufacturing state
version and capabilities only; in recovery up to CHALLENGE (PRESUMED, log entry 70). -/
def spdmLevel (s : State) : Nat :=
  if s.trust.security = 4 ∨ s.trust.restarting then 0
  else if s.trust.boot = 4 then 2
  else if s.trust.boot ≠ 3 then 0
  else if s.trust.security = 0 then 1
  else 3

/-- The chain of slot 0. -/
def chainBytes (s : State) : List Byte :=
  if !s.trust.slot0Set then []
  else if s.trust.chain.isEmpty then Config.certChain s.trust.deviceSeed (aliasNow s).cdi (aliasNow s).gen else s.trust.chain

/-- An SPDM answer: its response code and its contents (PRESUMED, log entry 11). -/
def spdm (s : State) (code : Nat) (data : List Byte) : State := s.emit (.bytes (0x500 + code) data)

/-- An ERROR response: 01h invalid request, 05h unspecified, 07h unsupported request. -/
def spdmError (s : State) (e : Nat) : State := spdm s 0x7F [BitVec.ofNat 8 e]

/-- A message of SPDM 1.3 as the transcripts hold it. -/
def spdmBytes (code : Nat) (data : List Byte) : List Byte := 0x13 :: BitVec.ofNat 8 code :: data

/-- Keep a request and its answer in the transcript of version, capabilities and algorithms, or of digests and certificates (R425). -/
def keepVca (s : State) (request answer : List Byte) : State := s.onTrust fun t => { t with vca := t.vca ++ request ++ answer, msgB := [] }
def keepB (s : State) (request answer : List Byte) : State := s.onTrust fun t => { t with msgB := t.msgB ++ request ++ answer }

/-- GET_VERSION: 1.3. -/
def spdmVersion (s : State) : State :=
  if spdmLevel s = 0 then s
  else spdm (keepVca (s.onTrust fun t => { t with vca := [] }) (spdmBytes 0x84 []) (spdmBytes 0x04 [0x13])) 0x04 [0x13]

/-- GET_CAPABILITIES: certificates, challenge and signed measurements. -/
def spdmCapabilities (s : State) : State :=
  if spdmLevel s = 0 then s else spdm (keepVca s (spdmBytes 0xE1 []) (spdmBytes 0x61 [0x16])) 0x61 [0x16]

/-- NEGOTIATE_ALGORITHMS: of the offers, asymmetric and hash, the two that the device supports, and SHA-384 for measurements. -/
def spdmAlgorithms (s : State) (offers : List Byte) : State :=
  if spdmLevel s < 2 then (if spdmLevel s = 1 then spdmError s 7 else s)
  else
    let chosen := [offers.headD 0 &&& 0x80, (offers.drop 1).headD 0 &&& 0x02, 0x04]
    spdm (keepVca s (spdmBytes 0xE3 offers) (spdmBytes 0x63 chosen)) 0x63 chosen

/-- GET_DIGESTS. -/
def spdmDigests (s : State) : State :=
  if spdmLevel s < 2 then (if spdmLevel s = 1 then spdmError s 7 else s)
  else
    let d : List Byte := if s.trust.slot0Set then 1 :: Config.sha384 (chainBytes s) else [0]
    spdm (keepB s (spdmBytes 0x81 []) (spdmBytes 0x01 d)) 0x01 d

/-- GET_CERTIFICATE. -/
def spdmCertificate (s : State) (slot ofs len : Nat) : State :=
  if spdmLevel s < 2 then (if spdmLevel s = 1 then spdmError s 7 else s)
  else if slot ≠ 0 ∨ s.trust.slot0Set = false ∨ (chainBytes s).length < ofs then spdmError s 1
  else
    let d := slice (chainBytes s) ofs len
    spdm (keepB s (spdmBytes 0x82 (BitVec.ofNat 8 slot :: leBytes 2 ofs ++ leBytes 2 len)) (spdmBytes 0x02 d)) 0x02 d

/-- The OpaqueData of a signed response in the DMTF general format: one element of the vendor of object 1018h:01, a flag byte and the HSS
signature (R425; PRESUMED, log entry 11). -/
def opaqueData (s : State) (flag : Byte) (sig : List Byte) : List Byte :=
  let e := [3, 2] ++ leBytes 2 (objGet s 0x1018 1) ++ leBytes 2 (1 + sig.length) ++ flag :: sig
  let all := [1, 0, 0, 0] ++ e ++ List.replicate ((4 - e.length % 4) % 4) 0
  leBytes 2 all.length ++ all

/-- What is signed of a transcript: the prefix of SPDM 1.3 with the response's context, and the transcript's SHA-384 (PRESUMED, log entry 11). -/
def signedMessage (context : String) (transcript : List Byte) : List Byte :=
  (List.range 4).flatMap (fun _ => asciiBytes "dmtf-spdm-v1.3.*") ++ List.replicate (36 - context.length) 0 ++ asciiBytes context
    ++ Config.sha384 transcript

/-- OpaqueData and the ECDSA signature that end a signed response, of the Alias key, or of DeviceID in recovery (R425). Both signatures cover one
hash: that of the transcript with the HSS signature in OpaqueData empty, as a certificate's own extension is signed (R422; DEDUCED, log entry
142). Flag bit 0 says that no HSS signature is left (R423). -/
def signBoth (s : State) (context : String) (transcript : List Byte) : State × List Byte :=
  let k := aliasNow s
  let m := fun flag => signedMessage context (transcript ++ opaqueData s flag [])
  let ends := fun (s : State) (flag : Byte) (hss ecdsa : List Byte) => opaqueData s flag hss ++ ecdsa
  if s.trust.boot = 4 then
    let d := s.trust.deviceSeed
    if s.trust.leaves = 0 then (s, ends s 1 [] (Config.ecdsaSign d (m 1)))
    else (s.onTrust fun t => { t with leaves := t.leaves - 1 },
      ends s 0 (Config.hssSign 1 (kdf d 1 []) (32768 - s.trust.leaves) (m 0)) (Config.ecdsaSign d (m 0)))
  else
    let a := fun label => kdf k.cdi label (leBytes 4 k.gen)
    if k.left = 0 then (s, ends s 1 [] (Config.ecdsaSign (a 2) (m 1)))
    else (useAlias s, ends s 0 (Config.hssSign 2 (a 3) (1048576 - k.left) (m 0)) (Config.ecdsaSign (a 2) (m 0)))

/-- A nonce of the steward's own. -/
def ownNonce (s : State) : State × List Byte := (s.onCnt fun c => { c with free := c.free + 1 }, Config.random 32 s.cnt.free)

/-- CHALLENGE: the chain's digest, a fresh nonce, OpaqueData and the signature over the messages since GET_VERSION, of which those of
digests and certificates are then done with. -/
def spdmChallenge (s : State) (slot : Nat) (nonce : List Byte) : State :=
  if spdmLevel s < 2 then (if spdmLevel s = 1 then spdmError s 7 else s)
  else if slot ≠ 0 ∨ s.trust.slot0Set = false then spdmError s 1
  else if s.trust.boot ≠ 4 ∧ s.trust.aliasOk = false then spdmError s 5
  else
    let (s, own) := ownNonce s
    let body := Config.sha384 (chainBytes s) ++ own
    let request := spdmBytes 0x83 (BitVec.ofNat 8 slot :: nonce)
    let (s, rest) := signBoth s "responder-challenge_auth signing" (s.trust.vca ++ s.trust.msgB ++ request ++ spdmBytes 0x03 body)
    spdm (s.onTrust fun t => { t with msgB := [] }) 0x03 (body ++ rest)

/-- The records of object 4031h: 64 of 16 bytes: number, security version, DUR, flags. -/
def pealRecords (s : State) : List Byte :=
  padTo 1024 (s.rel.peals.flatMap fun p =>
    padTo 16 (leBytes 2 p.num.toNat ++ leBytes 4 p.version.toNat ++ leBytes 4 p.dur.toNat ++ leBytes 2 p.flags.toNat))

/-- The measurement blocks of 16 Table 16-5. -/
def measurement (s : State) (b : Nat) : List Byte :=
  if 1 ≤ b ∧ b ≤ 3 then Config.sha384 (componentOf s.trust.running b)
  else if b = 4 then Config.sha384 (pealRecords s)
  else if b = 5 then
    [BitVec.ofNat 8 (securityShown s), BitVec.ofNat 8 s.trust.level] ++ (List.range 4).map (fun k => BitVec.ofNat 8 (versionCounter s (k + 1)))
      ++ [0, 0]
  else (List.range 6).map fun k => BitVec.ofNat 8 (keySetState s k)

/-- A measurement block of the DMTF specification: its index, the digest or raw value, and its type (PRESUMED, log entry 11). -/
def measurementBlock (s : State) (b : Nat) : List Byte :=
  let v := measurement s b
  let kind : Byte := if b ≤ 3 then 1 else if b = 4 then 3 else 0x83
  [BitVec.ofNat 8 b, 1] ++ leBytes 2 (v.length + 3) ++ [kind] ++ leBytes 2 v.length ++ v

/-- GET_MEASUREMENTS of a block, of all (FFh), or of their number (0). -/
def spdmMeasurements (s : State) (block : Nat) (nonce : List Byte) : State :=
  if spdmLevel s = 0 then s
  else if spdmLevel s ≠ 3 then spdmError s 7
  else if 6 < block ∧ block ≠ 0xFF then spdmError s 1
  else if s.trust.aliasOk = false then spdmError s 5
  else
    let bs := if block = 0 then [] else if block = 0xFF then [1, 2, 3, 4, 5, 6] else [block]
    let blocks := bs.flatMap (measurementBlock s)
    let (s, own) := ownNonce s
    let body := 6 :: BitVec.ofNat 8 bs.length :: leBytes 3 blocks.length ++ blocks ++ own
    let request := spdmBytes 0xE0 (BitVec.ofNat 8 block :: nonce)
    let (s, rest) := signBoth s "responder-measurements signing" (s.trust.vca ++ request ++ spdmBytes 0x60 body)
    spdm s 0x60 (body ++ rest)

/-- Whether GET_CSR and SET_CERTIFICATE are answered: manufacturing, development, and production with slot 0 empty. -/
def csrAllowed (s : State) : Bool :=
  decide (s.trust.boot = 3) && !s.trust.restarting
    && (decide (s.trust.security ≤ 1) || (decide (s.trust.security = 2) && !s.trust.slot0Set))

/-- GET_CSR. -/
def spdmCsr (s : State) : State :=
  if csrAllowed s then spdm s 0x6D Config.csr else if spdmLevel s = 0 then s else spdmError s 7

/-- SET_CERTIFICATE. -/
def spdmSetCertificate (s : State) (slot : Nat) (chain : List Byte) : State :=
  if !(csrAllowed s) then (if spdmLevel s = 0 then s else spdmError s 7)
  else if slot ≠ 0 then spdmError s 1
  else spdm (s.onTrust fun t => { t with slot0Set := !chain.isEmpty, chain := chain }) 0x6E [0]

end Sys2Proof.Machine
end

