-- ==== Sys2Proof/Machine/Dict.lean ====
section
/-! DEFINITION. The object dictionary as its three requester classes see it: rights, values, writes with their effects, sessions and
the two views (17 R446 to R456). -/

namespace Sys2Proof.Machine

/-! ### Rights (17 R447, Table 17-8) -/

/-- The right of a class in a row. -/
def rightOf (r : ObjRow) (cls : Cls) : Right :=
  match cls with
  | .host => r.host
  | .bmc => r.bmc
  | .m => r.m

/-- The right as it stands now: a right with a condition is none while the condition does not hold. -/
def rightNow (s : State) (r : ObjRow) (cls : Cls) : Right :=
  match rightOf r cls with
  | .woWhenUpdate => if objGet s 0x5040 1 = 1 then .wo else .none
  | x => x

/-- Whether a row is a counter, which M level clears by a write of zero. -/
def isCounter (r : ObjRow) : Bool := decide (0x7000 ≤ r.idx) && decide (r.idx ≤ 0x7FFF)

/-- Whether a right reads. -/
def mayRead (x : Right) : Bool :=
  match x with
  | .ro | .rw | .const | .rwIdle => true
  | _ => false

/-- Whether an object that is written once still holds its Default. -/
def stillDefault (s : State) (idx sub : Nat) : Bool :=
  if idx = 0x5010 then (storeGet [] s.trust.ownerKeys (sub - 3)).isEmpty else true

/-- The status that a write by a class meets: 0, 03h or 06h. -/
def writeRight (s : State) (r : ObjRow) (cls : Cls) (sub : Nat) : Nat :=
  match rightNow s r cls with
  | .rw | .wo => 0
  | .rwIdle => if s.seq.running then 6 else 0
  | .woOnce => if stillDefault s r.idx sub then 0 else 3
  | _ => if cls = .m ∧ isCounter r = true then 0 else 3

/-- Whether a value lies in a row's Range. -/
def inRange (r : ObjRow) (v : Nat) : Bool :=
  match r.range with
  | .any => true
  | .upTo lo hi => decide (lo ≤ v ∧ v ≤ hi)
  | .oneOf vs => vs.contains v
  | .multiple k => decide (v % k = 0)
  | .native => decide (v < 2 ^ 22 ∧ v % 16 ≤ 11)

/-- Whether the dictionary answers for an object: in recovery the objects of 16 R421 only. -/
def inRecoveryList (idx sub : Nat) : Bool :=
  [0x1000, 0x1008, 0x1018, 0x1F50, 0x5000, 0x5001].contains idx || (decide (idx = 0x2100) && decide (sub = 1))

/-! ### Scalars as they read -/

/-- A port's state code (11 Table 11-2). -/
def portCode (p : PortState) : Nat :=
  match p with
  | .off => 0
  | .dark => 1
  | .training => 2
  | .active => 3
  | .retrain => 4
  | .miswired => 5
  | .failed => 6

/-- Object 2304h of a port: the physical lanes in use, half width, the retired lanes, 1Fh none (DEDUCED, log entry 76). -/
def laneWord (p : Port) : Nat :=
  if p.laneMap.isEmpty ∧ p.retired.isEmpty ∧ p.half = false then 0xFFFF
  else
    let all := ((List.range 16).map fun k => storeGet k p.laneMap k).filter fun x => !(p.retired.contains x)
    let used := if p.half then all.take 8 else all
    let bits := ((List.range 18).map fun x => if used.contains x then 2 ^ x else 0).sum
    bits + b2n p.half * 2 ^ 18 + p.retired.headD 0x1F * 2 ^ 22 + (p.retired.drop 1).headD 0x1F * 2 ^ 27

/-- Object 2306h of a port (11 R285): 1,024 · 1,820 · t_f / RTT, at most 1,024. -/
def rateFraction (p : Port) : Nat :=
  if p.st ≠ .active then 0
  else
    let mult := (if p.gen = 2 then 1 else 2) * (if p.half then 2 else 1)
    if p.rtt = 0 then 1024 else min 1024 (1024 * 1820 * 72 * mult / (100 * p.rtt))

/-- The ID of the acting root (object 2320h:07). -/
def actingRootId (s : State) : Nat :=
  if s.fab.beat.st = 0 then 0 else s.fab.beat.root.toNat

/-- Object 4023h of a quarter: its spare is free, following or mapped (13 R361). -/
def spareUse (s : State) (q : Nat) : Nat :=
  if (List.range 20).any fun i => decide (physSlice s (20 * q + i) ≠ 21 * q + i) then 2
  else if s.rel.follows.any fun f => decide (f.ucls = 1 ∧ f.unit.toNat / 21 = q) then 1
  else 0

/-- A scalar whose value follows from other state. -/
def derived (s : State) (idx sub : Nat) : Option Nat :=
  if idx = 0x1F50 then
    (if sub = 2 then some (b2n s.trust.goAhead) else if sub = 3 then some s.trust.updStatus
      else if sub = 4 then some s.trust.updReason else if sub = 5 then some (releaseOf s.trust.running) else none)
  else if idx = 0x2031 then (if sub = 2 then some (granulesUsed s) else none)
  else if idx = 0x2101 then some (if s.host.link then (if sub = 1 then s.host.rate else s.host.width) else 0)
  else if idx = 0x2104 then some s.board.straps.toNat
  else if idx = 0x2302 then some (portCode (portGet s (sub - 1)).st)
  else if idx = 0x2303 ∧ 2 ≤ sub then some (portGet s (sub - 2)).gen
  else if idx = 0x2304 then some (laneWord (portGet s (sub - 1)))
  else if idx = 0x2305 then some ((portGet s (sub - 1)).rtt % 2 ^ 16)
  else if idx = 0x2306 then some (rateFraction (portGet s (sub - 1)))
  else if idx = 0x2320 then
    (if sub = 1 ∧ s.fab.beat.gen = true ∧ s.fab.beat.st ≠ 1 then some s.fab.beat.period
      else if sub = 5 then some s.fab.beat.st else if sub = 6 then some (myHop s)
      else if sub = 7 then some (actingRootId s) else none)
  else if idx = 0x2500 then (if sub = 4 then some (registeredSlots s) else if sub = 5 then some (nfSlots s) else none)
  else if idx = 0x3000 ∧ sub = 3 then some s.power.state
  else if idx = 0x3001 then some s.power.domains.toNat
  else if idx = 0x3011 then some s.power.mute
  else if idx = 0x3020 ∧ sub = 2 then some s.power.dvfs
  else if idx = 0x3020 ∧ 3 ≤ sub then some (setMv (sub - 3))
  else if idx = 0x4000 ∧ sub = 4 then some s.rel.poison.length
  else if idx = 0x4011 then some s.rel.nextSeq.toNat
  else if idx = 0x4023 then some (spareUse s (sub - 1))
  else if idx = 0x5000 then
    (if sub = 1 then some (securityShown s) else if sub = 2 then some s.trust.level else if sub = 4 then some s.trust.token else none)
  else if idx = 0x5002 ∧ sub = 1 then some (aliasNow s).gen
  else if idx = 0x5003 then some (if sub = 1 then (aliasNow s).left else s.trust.leaves)
  else if idx = 0x5010 ∧ sub ≤ 6 then some (keySetState s (sub - 1))
  else none

/-- Whether an object reads as a free value: the input's voltage and current, which the board's sensors give (DESIGN CHOICE, log
entry 41). -/
def readsFree (idx sub : Nat) : Bool := decide (idx = 0x3040) && decide (sub ≤ 2)

/-- The value of a scalar object. -/
def scalarRead (s : State) (r : ObjRow) (idx sub : Nat) : State × Nat :=
  if readsFree idx sub then
    let (v, s) := freshFree s
    (s, v.toNat % 2 ^ (8 * typeSize r.ty))
  else (s, (derived s idx sub).getD (objGet s idx sub))

/-! ### Strings, blobs and domains as they read -/

/-- The 8-byte record of a mismatch in force (object 2103h). -/
def mismatchRecord (s : State) (k : Nat) : List Byte :=
  let i := k / 256
  let j := k % 256
  leBytes 2 i ++ leBytes 1 j ++ leBytes 1 (mgmtView s i j) ++ leBytes 1 (dataView s i j) ++ leBytes 1 (viewInForce s i j) ++ [0, 0]

/-- The 32-byte entry of the ledger (13 R359). -/
def ledgerRecord (e : LedgerEnt) : List Byte :=
  leBytes 8 e.utc.toNat ++ leBytes 1 e.ucls.toNat ++ [0] ++ leBytes 2 e.unit.toNat ++ leBytes 2 e.type.toNat ++ [0, 0]
    ++ leBytes 8 e.seqNo.toNat ++ leBytes 1 e.kind.toNat ++ List.replicate 7 0

/-- A record of the thermal trip log: beat, sensor, temperature. -/
def tripRecord (t : BitVec 48 × Nat × Int) : List Byte :=
  padTo 16 (leBytes 6 t.1.toNat ++ leBytes 1 t.2.1 ++ leBytes 4 (patternOf 32 t.2.2))

/-- A record of the input fault log: UTC seconds, kind, whether RESET_N coincided. -/
def inputRecord (t : W64 × Nat × Nat) : List Byte := padTo 16 (leBytes 8 t.1.toNat ++ leBytes 1 t.2.1 ++ leBytes 1 t.2.2)

/-- The peer set table, bytes 16 to 47 of each record zero to the host (12 R340). -/
def peerTable (s : State) (cls : Cls) : List Byte :=
  let t := padTo 768 (storeGet [] s.dict.blobs (objKey 0x2340 0))
  if cls = .host then (t.zipIdx).map fun b => if 16 ≤ b.2 % 48 then (0 : Byte) else b.1 else t

/-- The check matrix H of the device's code, 18 bytes a row: its columns 128 to 143 form the identity (13 R341, object 4001h:00). -/
def checkMatrix : List Byte :=
  (List.range 16).flatMap fun i => (List.range 16).map (Config.checkRow i) ++ leBytes 2 (2 ^ i)

/-- The bytes of an object. The checkpoint keys read as zero to the host and the BMC (14 R389) (DEDUCED, log entry 75). -/
def bytesRead (s : State) (cls : Cls) (idx sub size : Nat) : List Byte :=
  if idx = 0x1008 then asciiBytes "IQT-4416 Tilrad T4"
  else if idx = 0x1018 then serialBytes
  else if idx = 0x2103 then s.dict.mismatch.flatMap (mismatchRecord s)
  else if idx = 0x2340 then peerTable s cls
  else if idx = 0x2401 then (List.range 1024).flatMap fun e => cueRecord (cueGet s e)
  else if idx = 0x2501 then (List.range 16384).flatMap fun k => slotRecord (slotGet s k)
  else if idx = 0x3031 then padTo size (s.power.trips.flatMap tripRecord)
  else if idx = 0x3032 then padTo size (s.board.faultLog.flatMap inputRecord)
  else if idx = 0x4001 then checkMatrix
  else if idx = 0x4010 then padTo size (s.rel.ring.flatMap fun t => leBytes 64 (tollWord t))
  else if idx = 0x4021 then padTo size (s.rel.ledger.flatMap ledgerRecord)
  else if idx = 0x4031 then pealRecords s
  else if idx = 0x4101 then (if cls = .m then ckKeys s else List.replicate 32 0)
  else if idx = 0x5001 then chainBytes s
  else if idx = 0x5002 then slice (padTo size (Config.asBuiltBytes (objKey idx sub))) 0 size
  else if idx = 0x5010 then padTo size (storeGet [] s.trust.ownerKeys (sub - 3))
  else if idx = 0x6000 then moduleCodes.flatMap (moduleRecord s)
  else if idx = 0x6001 then (match moduleOf s (moduleCodes.getD (sub - 1) 0) with
    | some m => m.1.image
    | none => [])
  else padTo size (storeGet [] s.dict.blobs (objKey idx sub))

/-- The steward reads the words of the records that an object shows (13 R342, R348). -/
def meetRecords (s : State) (idx : Nat) : State :=
  if idx = 0x2401 then meetCues (stewardCues s) else if idx = 0x2501 then meetSlots (stewardSlots s) else s

/-- Whether a type is a number. -/
def isScalar (t : OType) : Bool :=
  match t with
  | .str | .blob _ | .domain _ => false
  | _ => true

/-- Whether a type is a domain. -/
def isDomain (t : OType) : Bool :=
  match t with
  | .domain _ => true
  | _ => false

/-! ### Looking an object up -/

/-- Whether the dictionary answers, and for which object: a row, or a status. -/
def lookUp (s : State) (idx sub : Nat) : ObjRow ⊕ Nat :=
  if stewardBusy s then .inr 1
  else if s.trust.boot = 4 ∧ inRecoveryList idx sub = false then .inr 0xB
  else
    match objRow idx sub with
    | some r => .inl r
    | none => .inr 2

/-- READ: status and value. Reading 5030h:01 issues a challenge. -/
def dictRead (s : State) (cls : Cls) (idx sub : Nat) : State × Nat × List Byte :=
  match lookUp s idx sub with
  | .inr st => (s, st, [])
  | .inl r =>
    if !(mayRead (rightNow s r cls)) && !(decide (idx = 0x4101)) then (s, 3, [])
    else if isDomain r.ty then (s, 4, [])
    else if idx = 0x5030 ∧ sub = 1 then
      let (s, bs) := newChallenge s
      (s, 0, bs)
    else if isScalar r.ty then
      let (s, v) := scalarRead s r idx sub
      (s, 0, leBytes (typeSize r.ty) v)
    else
      let s := meetRecords s idx
      (s, 0, bytesRead s cls idx sub (typeSize r.ty))

/-! ### The host port's reset (17 R437) -/

/-- The sessions of a class end; a firmware transfer with one of them is dropped, and the object stands as it was. -/
def dropSession (s : State) (cls : Nat) : State :=
  let firmware := s.dict.sessions.any fun e => decide (e.1 = cls) && decide (e.2.idx = 0x1F50) && e.2.write
  let s := s.onDict fun d => { d with sessions := storeErase d.sessions cls }
  if firmware then dropTransfer s else s

/-- Function level reset, hot reset or loss of the link: configuration space and BAR0 at reset, the host's power request D0, its
staging discarded, its session aborted. `link` says whether the link stays up. -/
def resetHostPort (s : State) (link : Bool) : State :=
  let h := s.host
  let s := s.onHost fun _ => { resetHost with
    perstHigh := h.perstHigh, link := h.link && link, rate := if h.link && link then h.rate else 0,
    width := if h.link && link then h.width else 0, flit := h.flit && h.link && link }
  let s := s.onFab fun f => { f with hostStage := none }
  let s := dropSession s 0
  if objGet s 0x3000 2 = 0 then s else writeDataView s 0x3000 1 0

/-- The domains follow their enables; where PCI has gone down, the link goes with it. -/
def followEnables (s : State) : State :=
  let s := refreshDomains s
  if domOn s 29 then s else if s.host.link then resetHostPort s false else s

/-- In recovery, AON and, when enabled, PCI are on (16 R421). -/
def recoveryDomains (s : State) : State :=
  let d : BitVec 32 := if partEnabled s 29 then BitVec.ofNat 32 (1 + 2 ^ 29) else 1
  let s := s.onPower fun p => { p with domains := d }
  if domOn s 29 then s else if s.host.link then resetHostPort s false else s

/-- The domains after a write of an enable. -/
def afterEnable (s : State) : State := if s.trust.boot = 4 then recoveryDomains s else followEnables s

/-! ### Writes of scalars with an effect of their own -/

/-- The identities that the steward reads where a command brings none: a module already read answers as it did; any other gives a free
value (DESIGN CHOICE, log entry 110). -/
def knownIds (s : State) : List (Nat × ModuleId) :=
  moduleCodes.filterMap fun k => match moduleOf s k with
    | some m => some (k, m.1)
    | none => (Config.moduleAt s.cnt.free k).map fun m => (k, m)

/-- A requested power state (15 R395, 18 R467): a BMC write of a higher state clears the latch of THERMTRIP_N; a request for
D3cold discards an update (16 R420). -/
def writeRequest (s : State) (cls : Cls) (v : Nat) : State :=
  let s := if v = 3 then discardUpdate s else s
  let clear := decide (cls = .bmc) && decide (v < s.power.state) && s.power.thermtrip
  let s := if clear then (s.onPower fun p => { p with thermtrip := false }).emit (.pin 0 false) else s
  writeMgmtView s 0x3000 1 v

/-- A view written by a class. -/
def writeView (s : State) (cls : Cls) (idx sub v : Nat) : State :=
  if cls = .bmc then writeMgmtView s idx sub v else writeDataView s idx sub v

/-- Clay enable (10 R242, 15 R392) (DEDUCED, log entry 60). -/
def writeClay (s : State) (cls : Cls) (v : Nat) : State := afterEnable (writeView s cls 0x2200 1 v)

/-- Marl enable: each write of 1 reads the SPD hubs (17 R457). -/
def writeMarl (s : State) (cls : Cls) (v : Nat) (spd : List (Nat × ModuleId)) : State :=
  let s := writeView s cls 0x2200 2 v
  let s := if v = 1 then s.onPower fun p => { p with down := p.down &&& ~~~(BitVec.ofNat 32 (2 ^ 24)) } else s
  afterEnable (if v = 1 then configureMarl (freshFree s).2 spd else s)

/-- Pairs that have come on since `old` are read (11 R272). -/
def readNewPairs (s : State) (old : BitVec 32) (ids : List (Nat × ModuleId)) : State :=
  refreshLight ((List.range 4).foldl (fun s k =>
    if domOn s (25 + k) && !(old.getLsbD (25 + k)) then readLaser (freshFree s).2 k (idIn ids (0x10 + k)) else s) s)

/-- Laser enable (11 R273). -/
def writeLaser (s : State) (v : Nat) (ids : List (Nat × ModuleId)) : State :=
  let old := s.power.domains
  let s := s.onPower fun p => { p with down := p.down &&& BitVec.ofNat 32 (2 ^ 25 - 1) }
  readNewPairs (afterEnable (objSet s 0x2310 1 v)) old ids

/-- A port's mode (11 R277, R286): a port whose mode changes goes OFF first. -/
def writePortMode (s : State) (k v : Nat) (ids : List (Nat × ModuleId)) : State :=
  if objGet s 0x2301 (k + 1) = v then s
  else
    let old := s.power.domains
    let s := lightPort (objSet s 0x2301 (k + 1) 0) k
    readNewPairs (afterEnable (objSet s 0x2301 (k + 1) v)) old ids

/-- Flash port enable (17 R457): off, the module is unused and its drains are abandoned. -/
def writeFlashPort (s : State) (v : Nat) : State :=
  let s := objSet s 0x2100 8 v
  if v = 0 then forgetModule (nvmeGone s) 0x20 else s

/-- PCIe enable (17 R434). -/
def writePcie (s : State) (v : Nat) : State := afterEnable (objSet s 0x2100 1 v)

/-- The highest DVFS point allowed (15 R405): a point in force above it is left. -/
def writePoint (s : State) (v : Nat) : State :=
  let s := objSet s 0x3020 1 v
  if pointDue s < v then askPoint s v else s

/-- A write of a scalar that has passed its checks: its effect, and a status of the object's own rule. -/
def scalarWrite (s : State) (cls : Cls) (idx sub v : Nat) (ids : List (Nat × ModuleId)) : State × Nat :=
  if idx = 0x1F50 then (if v = 1 then askActivate s else abortUpdate s)
  else if idx = 0x5021 then (commitVersions s, 0)
  else if idx = 0x5030 then requestLevel s v
  else if idx = 0x2100 ∧ sub = 1 then (writePcie s v, 0)
  else if idx = 0x2100 ∧ sub = 8 then (writeFlashPort s v, 0)
  else if idx = 0x2200 ∧ sub = 1 then (writeClay s cls v, 0)
  else if idx = 0x2200 ∧ sub = 2 then (writeMarl s cls v ids, 0)
  else if idx = 0x2301 ∧ sub ≤ 8 then (writePortMode s (sub - 1) v ids, 0)
  else if idx = 0x2310 then (writeLaser s v ids, 0)
  else if idx = 0x2320 ∧ sub = 1 then (announcePeriod (objSet s idx sub v) v, 0)
  else if idx = 0x3000 then (writeRequest s cls v, 0)
  else if idx = 0x3020 then (writePoint s v, 0)
  else if idx = 0x4111 ∧ sub = 2 then (storedSeq s (BitVec.ofNat 64 v), 0)
  else (objSet s idx sub v, 0)

/-! ### Writes of blobs and domains -/

/-- Bytes of a list replaced from an offset on. -/
def patch (bs : List Byte) (ofs : Nat) (new : List Byte) : List Byte := bs.take ofs ++ new ++ bs.drop (ofs + new.length)

/-- Commit the cue records that bytes from an offset touch, in ascending order (object 2401h). OWN is 11b for M level. -/
def writeCueRecords (s : State) (cls : Cls) (ofs : Nat) (bs : List Byte) : State :=
  let first := ofs / 32
  let last := (ofs + bs.length + 31) / 32
  (List.range (last - first)).foldl (fun s i =>
    let e := first + i
    let base := e * 32
    let new := (bs.drop (base - ofs)).take (base + 32 - max ofs base)
    let rec' := patch (cueRecord (cueGet s e)) (ofs - base) new
    let w := fun k => (BitVec.ofNat 64 (numAt rec' (8 * k) 8) : W64)
    (commitCue s e (if cls = .m then 3 else 1) false (w 0) [(1, w 1), (2, w 2), (3, w 3)]).1) s

/-- Write the slot records that bytes from an offset touch (object 2501h). -/
def writeSlotRecords (s : State) (ofs : Nat) (bs : List Byte) : State :=
  let first := ofs / 80
  let last := (ofs + bs.length + 79) / 80
  (List.range (last - first)).foldl (fun s i =>
    let k := first + i
    let base := k * 80
    let new := (bs.drop (base - ofs)).take (base + 80 - max ofs base)
    let v := slotGet s k
    slotMerge s k (coverOf (ofs - base) new.length) { slotOfRecord (patch (slotRecord v) (ofs - base) new) with marks := v.marks }) s

/-- The bits of byte i of a table that are not reserved (11 Table 11-10, 12 Table 12-1). -/
def tableBits (idx i : Nat) : Byte :=
  if idx = 0x2309 then (if i % 8 = 7 then 0 else if i % 8 = 6 then 7 else 255)
  else if idx = 0x2340 then (if 10 ≤ i % 48 ∧ i % 48 < 16 then 0 else 255)
  else 255

/-- Bytes put into a blob or table held as bytes; a reserved bit ignores the write (00 R11). -/
def writeTable (s : State) (idx sub size ofs : Nat) (bs : List Byte) : State :=
  s.onDict fun d =>
    let old := padTo size (storeGet [] d.blobs (objKey idx sub))
    { d with blobs := storeSet [] d.blobs (objKey idx sub) ((patch old ofs bs).zipIdx.map fun b => b.1 &&& tableBits idx b.2) }

/-- Bytes of a blob or domain applied under the object's own rule: a status. -/
def bytesWrite (s : State) (cls : Cls) (idx sub size ofs : Nat) (bs : List Byte) : State × Nat :=
  if idx = 0x1F50 then (endTransfer s bs, 0)
  else if idx = 0x5000 then
    let s := submitToken s bs
    (s, if s.trust.token = 1 then 0 else 0xA)
  else if idx = 0x5010 then (provisionOwner s (sub - 3) bs, 0)
  else if idx = 0x4030 then installPeal s bs
  else if idx = 0x2401 then (writeCueRecords s cls ofs bs, 0)
  else if idx = 0x2501 then (writeSlotRecords s ofs bs, 0)
  else (writeTable s idx sub size ofs bs, 0)

/-! ### Watches (17 R454) -/

/-- A write by the host or the BMC to a watched object: its bit of ODWHIT, and interrupt 18h. -/
def noteWatch (s : State) (cls : Cls) (idx sub : Nat) : State :=
  if cls = .m then s
  else
    let hits := (List.range 8).filter fun j =>
      let w := storeGet 0 s.ctl.odw j
      bit w 63 && decide (field w 23 0 = idx * 256 + sub)
    if hits.isEmpty then s
    else raiseInt (s.onCtl fun c => { c with odwhit := hits.foldl (fun w j => setBit w j true) c.odwhit }) 0x18

/-- WRITE: a status. Access, then length, then Range, then the object's own rule (DEDUCED, log entry 74). -/
def dictWrite (s : State) (cls : Cls) (idx sub : Nat) (data : List Byte) (ids : List (Nat × ModuleId)) : State × Nat :=
  match lookUp s idx sub with
  | .inr st => (s, st)
  | .inl r =>
    let acc := writeRight s r cls sub
    let v := ofLe data
    if acc ≠ 0 then (s, acc)
    else if isDomain r.ty then (s, 4)
    else if (match r.ty with
      | .str => decide (255 < data.length)
      | t => decide (data.length ≠ typeSize t)) then (s, 4)
    else if isScalar r.ty ∧ (inRange r v = false ∨ (isCounter r = true ∧ v ≠ 0)) then (s, 5)
    else
      let (s', st) := if isScalar r.ty then scalarWrite s cls idx sub v ids else bytesWrite s cls idx sub (typeSize r.ty) 0 data
      (if st = 0 then noteWatch s' cls idx sub else s', st)

/-! ### DESCRIBE and VIEW (17 Table 17-11, R456) -/

def typeCode (t : OType) : Nat :=
  match t with
  | .u8 => 1
  | .u16 => 2
  | .u32 => 3
  | .u64 => 4
  | .i32 => 5
  | .i64 => 6
  | .f32 => 7
  | .str => 8
  | .blob _ => 9
  | .domain _ => 10

def rightCode (x : Right) : Nat :=
  match x with
  | .none | .woWhenUpdate => 0
  | .ro => 1
  | .rw => 2
  | .wo => 3
  | .const => 4
  | .rwIdle => 5
  | .woOnce => 6

/-- The least and greatest value of a row's Range. -/
def rangeEnds (r : ObjRow) : Nat × Nat :=
  match r.range with
  | .any => (0, 2 ^ (8 * typeSize r.ty) - 1)
  | .upTo lo hi => (lo, hi)
  | .oneOf vs => (vs.foldl min (vs.headD 0), vs.foldl max 0)
  | .multiple k => (0, (2 ^ (8 * typeSize r.ty) - 1) / k * k)
  | .native => (0, 2 ^ 22 - 5)

/-- DESCRIBE: status and data. -/
def dictDescribe (s : State) (idx sub : Nat) : Nat × List Byte :=
  match lookUp s idx sub with
  | .inr st => (st, [])
  | .inl r =>
    let rights := [Cls.host, Cls.bmc, Cls.m].map fun c => (BitVec.ofNat 8 (rightCode (rightNow s r c)) : Byte)
    let ends := rangeEnds r
    let tail := if isScalar r.ty then leBytes 8 (objDefault idx sub) ++ leBytes 8 ends.1 ++ leBytes 8 ends.2
      else List.replicate 24 0
    (0, BitVec.ofNat 8 (typeCode r.ty) :: rights ++ leBytes 4 (typeSize r.ty) ++ tail)

/-- Whether an object has two views (17 Table 17-15). -/
def twoViews (idx sub : Nat) : Bool := decide (idx = 0x3000) || (decide (idx = 0x2200) && decide (1 ≤ sub ∧ sub ≤ 2))

/-- VIEW: status and data. -/
def dictView (s : State) (cls : Cls) (idx sub : Nat) : State × Nat × List Byte :=
  if twoViews idx sub then
    match lookUp s idx sub with
    | .inr st => (s, st, [])
    | .inl r =>
      if !(mayRead (rightNow s r cls)) then (s, 3, [])
      else (s, 0, [mgmtView s idx sub, dataView s idx sub, viewInForce s idx sub].map fun v => (BitVec.ofNat 8 v : Byte))
  else
    let (s, st, bs) := dictRead s cls idx sub
    (s, st, if st = 0 then bs ++ bs ++ bs else [])

/-! ### Sessions (17 R453) -/

/-- The number of a class. -/
def clsNum (cls : Cls) : Nat :=
  match cls with
  | .host => 0
  | .bmc => 1
  | .m => 2

/-- The session of a class. -/
def sessionOf (s : State) (cls : Cls) : Option Session := (s.dict.sessions.find? fun e => decide (e.1 = clsNum cls)).map fun e => e.2

/-- Keep a session. -/
def putSession (s : State) (cls : Cls) (x : Session) : State :=
  s.onDict fun d => { d with sessions := storeInsert (storeErase d.sessions (clsNum cls)) (clsNum cls) x }

/-- OPEN: an earlier session of the class is aborted; a read session holds the object as it stands. -/
def dictOpen (s : State) (cls : Cls) (tag : BitVec 8) (idx sub : Nat) (write : Bool) : State × Nat :=
  match lookUp s idx sub with
  | .inr st => (s, st)
  | .inl r =>
    let acc := if write then writeRight s r cls sub else if mayRead (rightNow s r cls) then 0 else 3
    if acc ≠ 0 then (s, acc)
    else if !(isDomain r.ty) then (s, 4)
    else
      let s := meetRecords (dropSession s (clsNum cls)) idx
      let x : Session :=
        { tag := tag, idx := BitVec.ofNat 16 idx, sub := BitVec.ofNat 8 sub, write := write, offset := 0,
          bytes := if write then [] else bytesRead s cls idx sub (typeSize r.ty) }
      if write = true ∧ idx = 0x1F50 then
        let (s, ok) := beginTransfer s cls
        if ok then (putSession s cls x, 0) else (s, 0xA)
      else (putSession s cls x, 0)

/-- SEGMENT: status and, of a read session, the bytes (DEDUCED, log entry 74). An image too large is refused, and its session ends (16 R418). -/
def dictSegment (s : State) (cls : Cls) (ofs len : Nat) (data : List Byte) : State × Nat × List Byte :=
  if stewardBusy s then (s, 1, [])
  else
    match sessionOf s cls with
    | none => (s, 9, [])
    | some x =>
      if ofs ≠ x.offset then (s, 9, [])
      else if 1008 < len then (s, 0xC, [])
      else if x.write then
        let size := match objRow x.idx.toNat x.sub.toNat with
          | some r => typeSize r.ty
          | none => 0
        if data.length ≠ len ∨ x.offset % 16 ≠ 0 then (s, 4, [])
        else if size < ofs + len then
          (if x.idx = 0x1F50 then
            let s := s.onDict fun d => { d with sessions := storeErase d.sessions (clsNum cls) }
            (setUpdate (s.onTrust fun t => { t with updReason := 7, updBy := none, staged := [] }) 6, 0xA, [])
          else (s, 4, []))
        else (putSession s cls { x with offset := ofs + len, bytes := x.bytes ++ data }, 0, [])
      else
        let out := slice x.bytes ofs len
        if len % 16 ≠ 0 ∧ ofs + len < x.bytes.length then (s, 4, [])
        else (putSession s cls { x with offset := ofs + out.length }, 0, out)

/-- CLOSE: a write session is applied under its object's rule. -/
def dictClose (s : State) (cls : Cls) : State × Nat :=
  if stewardBusy s then (s, 1)
  else
    match sessionOf s cls with
    | none => (s, 9)
    | some x =>
      let gone := s.onDict fun d => { d with sessions := storeErase d.sessions (clsNum cls) }
      if !x.write then (gone, 0)
      else
        match objRow x.idx.toNat x.sub.toNat with
        | none => (gone, 2)
        | some r =>
          let acc := writeRight s r cls x.sub.toNat
          if acc ≠ 0 then ((if x.idx = 0x1F50 then dropTransfer gone else gone), acc)
          else
            let (s', st) := bytesWrite gone cls x.idx.toNat x.sub.toNat (typeSize r.ty) 0 x.bytes
            (if st = 0 then noteWatch s' cls x.idx.toNat x.sub.toNat else s', st)

/-- ABORT naming the TAG of an OPEN: 08h where a session is aborted; 07h where there is none, or a read session has had its last
segment. Every other request is answered as it is taken. -/
def dictAbort (s : State) (cls : Cls) (tag : BitVec 8) : State × Nat :=
  if stewardBusy s then (s, 1)
  else
    match sessionOf s cls with
    | none => (s, 7)
    | some x =>
      if x.tag ≠ tag ∨ (x.write = false ∧ x.bytes.length ≤ x.offset ∧ 0 < x.offset) then (s, 7)
      else (dropSession s (clsNum cls), 8)

/-- SESSION_TIMEOUT: 10 s without a SEGMENT. -/
def sessionExpire (s : State) (cls : Cls) : State := if (sessionOf s cls).isSome then dropSession s (clsNum cls) else s

/-! ### Answers -/

/-- Whether the steward takes requests of a class at all: it is up or in recovery, and the host's or M's path is there. -/
def dictAnswers (s : State) (cls : Cls) : Bool :=
  (decide (s.trust.boot = 3) || decide (s.trust.boot = 4))
    && (match cls with
      | .host => domOn s 29 && s.host.link
      | .bmc => true
      | .m => domOn s 6)

/-- A request is counted, and a refusal too (7440h:07, :08). -/
def countRequest (s : State) (st : Nat) : State :=
  let s := objAdd s 0x7440 7 1
  if st = 0 ∨ st = 7 ∨ st = 8 then s else objAdd s 0x7440 8 1

/-- A request of a class with what it does, answered. -/
def answered (s : State) (cls : Cls) (f : State → State × Nat × List Byte) : State :=
  if !(dictAnswers s cls) then s
  else
    let (s', st, bs) := f s
    (countRequest s' st).emit (.answer cls st bs)

/-- A WRITE as a command. -/
def answerWrite (s : State) (cls : Cls) (idx sub : Nat) (data : List Byte) (ids : List (Nat × ModuleId)) : State :=
  answered s cls fun s =>
    let (s, st) := dictWrite s cls idx sub data ids
    (s, st, [])

/-- A package written to 4030h:00 (13 R365): the rights of the object, then its own rule. -/
def writePackage (s : State) (cls : Cls) (pkg : List Byte) : State × Nat :=
  match lookUp s 0x4030 0 with
  | .inr st => (s, st)
  | .inl r =>
    let acc := writeRight s r cls 0
    if acc ≠ 0 then (s, acc)
    else
      let (s', st) := installPeal s pkg
      (if st = 0 then noteWatch s' cls 0x4030 0 else s', st)

end Sys2Proof.Machine
end

