-- ==== Sys2Proof/Machine/HostPort.lean ====
section
/-! DEFINITION. The host port: the control window, dictionary messages through BAR0, the cue window, the memory window, resets of
the port, and the flash port (17 R433 to R445, R449, R457 to R459). -/

namespace Sys2Proof.Machine

/-- Whether the function takes requests to its BARs: PCI on, link up, PMCSR in D0 (17 R442). -/
def hostOk (s : State) : Bool := domOn s 29 && s.host.link && decide (s.host.pmcsr = 0)

/-! ### Messages through BAR0 (17 R449, Table 17-9) -/

/-- A dictionary message of the host, carried out: state, status, data. -/
def runMessage (s : State) (msg : List Byte) : State × Nat × List Byte :=
  let op := numAt msg 1 1
  let idx := numAt msg 4 2
  let sub := numAt msg 6 1
  let flg := numAt msg 7 1
  let ofs := numAt msg 8 4
  let len := numAt msg 12 2
  let data := slice msg 16 len
  let tag : BitVec 8 := BitVec.ofNat 8 (numAt msg 2 1)
  let carries := decide (op = 2) || decide (op = 7)
    || (decide (op = 5) && (match sessionOf s .host with
      | some x => x.write
      | none => false))
  if msg.length < 16 ∨ numAt msg 0 1 ≠ 1 ∨ op = 0 ∨ 8 < op ∨ numAt msg 3 1 ≠ 0 ∨ 2 ≤ flg ∨ numAt msg 14 2 ≠ 0 ∨ 1008 < len
    ∨ (carries = true ∧ data.length ≠ len) then (s, 0xC, [])
  else if op = 1 then dictRead s .host idx sub
  else if op = 2 then
    let (s, st) := dictWrite s .host idx sub data (knownIds s)
    (s, st, [])
  else if op = 3 then
    let (st, bs) := dictDescribe s idx sub
    (s, st, bs)
  else if op = 4 then
    let (s, st) := dictOpen s .host tag idx sub (decide (flg = 1))
    (s, st, [])
  else if op = 5 then dictSegment s .host ofs len (if carries then data else [])
  else if op = 6 then
    let (s, st) := dictClose s .host
    (s, st, [])
  else if op = 7 then
    let (s, st) := dictAbort s .host (data.headD 0)
    (s, st, [])
  else dictView s .host idx sub

/-- The response to a message: its header with the status and the length of the data that follow. -/
def responseTo (msg : List Byte) (st : Nat) (data : List Byte) : List Byte :=
  [1] ++ slice (padTo 16 msg) 1 2 ++ leBytes 1 st ++ slice (padTo 16 msg) 4 8 ++ leBytes 2 data.length ++ [0, 0] ++ data

/-- DPOST: the request in the buffer is posted; the response stands in the response buffer, ready, with vector 1. -/
def postRequest (s : State) (len : Nat) : State :=
  if !(hostOk s) then s
  else
    let s := s.onHost fun h => { h with dresp := 0 }
    -- in recovery the ROM answers over MCTP only (16 R421)
    if !(dictAnswers s .host) || decide (s.trust.boot = 4) then s
    else
      let msg := (List.range (min len 1024)).map fun i => storeGet 0 s.host.reqBuf i
      let (s, st, data) := runMessage s msg
      let s := (countRequest s st).emit (.answer .host st data)
      let out := responseTo msg st data
      if s.host.link then
        signal (s.onHost fun h => { h with respBuf := out, dresp := BitVec.ofNat 64 (out.length % 2048 + 2 ^ 15) }) 1
      else s

/-! ### The cue window (17 R443 to R445) -/

/-- HQEN: the bits of CQEN of the queues in 2100h:07. -/
def hqenView (s : State) : W64 := s.ctl.cqen &&& BitVec.ofNat 64 (objGet s 0x2100 7)

/-- A host write of HQEN. -/
def writeHqen (s : State) (v : W64) : State :=
  let m : W64 := BitVec.ofNat 64 (objGet s 0x2100 7)
  s.onCtl fun c => { c with cqen := (c.cqen &&& ~~~m) ||| (v &&& m) }

/-- Whether the host may write cue entries. -/
def hostCuesOn (s : State) : Bool := decide (objGet s 0x2100 7 ≠ 0) && decide (objGet s 0x2100 6 = 1)

/-- A write that the port discards and counts (7440h:05). -/
def discardCueWrite (s : State) : State := objAdd s 0x7440 5 1

/-- A host write of W1, W2 or W3: staged under its entry; words staged under another entry are discarded. -/
def hostStage (s : State) (e : BitVec 10) (w : Nat) (v : W64) : State :=
  if !(hostCuesOn s) then discardCueWrite s
  else s.onFab fun f =>
    let old := match f.hostStage with
      | some (e', l) => if e' = e then l else []
      | none => []
    { f with hostStage := some (e, storeInsert (storeErase old w) w v) }

/-- HCQRES: entry, result, valid. -/
def setHcqres (s : State) (e : BitVec 10) (r : CueRes) : State :=
  let k := match r with
    | .committed => 0
    | .aborted => 1
    | .nothing => 2
    | .refused => 3
  s.onHost fun h => { h with hcqres := BitVec.ofNat 64 (e.toNat + k * 2 ^ 16 + 2 ^ 18) }

/-- A refused host commit: HCQRES 11b, 7440h:06, vector 2. -/
def hostRefused (s : State) (e : BitVec 10) : State := signal (objAdd (setHcqres s e .refused) 0x7440 6 1) 2

/-- A host write of W0: it commits the entry with OWN 01b (DEDUCED, log entry 85). -/
def hostCommit (s : State) (e : BitVec 10) (v : W64) : State :=
  let q := field v 59 56
  if !(hostCuesOn s) || decide (960 ≤ e.toNat) || !((objGet s 0x2100 7).testBit q) then hostRefused (refuseCue s e.toNat 2) e
  else
    let staged := match s.fab.hostStage with
      | some (e', l) => if e' = e then l else []
      | none => []
    let (s, r) := commitCue s e.toNat 1 true v staged
    match r with
    | .refused => hostRefused s e
    | r => setHcqres (s.onFab fun f => { f with hostStage := none }) e r

/-- A host write of one word of an entry. -/
def hostCueWord (s : State) (e : BitVec 10) (w : Nat) (v : W64) : State :=
  if w = 0 then hostCommit s e v else hostStage s e w v

/-- A host write into the cue window: whole, aligned 8-byte words only; one write that covers an entry applies W1, W2, W3, then
W0. -/
def hostCueBytes (s : State) (ofs : Nat) (bs : List Byte) : State :=
  if ofs % 8 ≠ 0 ∨ bs.length % 8 ≠ 0 ∨ 0x8000 < ofs + bs.length then discardCueWrite s
  else
    let words := (List.range (bs.length / 8)).map fun i => (ofs / 8 + i, (BitVec.ofNat 64 (numAt bs (8 * i) 8) : W64))
    let first := ofs / 32
    let last := (ofs + bs.length + 31) / 32
    (List.range (last - first)).foldl (fun s i =>
      let e := first + i
      let mine := words.filter fun x => decide (x.1 / 4 = e)
      let seq := if mine.length = 4 then mine.drop 1 ++ mine.take 1 else mine
      seq.foldl (fun s x => hostCueWord s (BitVec.ofNat 10 e) (x.1 % 4) x.2) s) s

/-! ### The control window (17 Table 17-4) -/

/-- Messages that wait go out once they may. -/
def flushMsix (s : State) : State :=
  (List.range 64).foldl (fun s v =>
    if storeGet false s.host.pba v && msixOpen s v then
      (s.onHost fun h => { h with pba := storeSet false h.pba v false }).emit (.msix v)
    else s) s

/-- An 8-byte register of BAR0 as it reads. -/
def windowRead (s : State) (ofs : Nat) : W64 :=
  let h := s.host
  if ofs = 0 then h.hevt
  else if ofs = 8 then h.hwofs
  else if ofs = 0x10 then h.hcqres
  else if ofs = 0x18 then hqenView s
  else if ofs = 0x20 then s.fab.beat.count.setWidth 64
  else if ofs = 0x28 then BitVec.ofNat 64 (s.cnt.angle.toNat + s.cnt.step.toNat * 2 ^ 16)
  else if ofs = 0x30 then
    BitVec.ofNat 64 (b2n (s.seq.running && !s.trust.halted) + b2n s.cnt.repeatPending * 2 + field s.ctl.clverd 2 0 * 4 + s.power.state * 32)
  else if ofs = 0x40 then h.dresp
  else if 0x1000 ≤ ofs ∧ ofs < 0x1400 then BitVec.ofNat 64 (ofLe ((List.range 8).map fun i => storeGet 0 h.reqBuf (ofs - 0x1000 + i)))
  else if 0x1400 ≤ ofs ∧ ofs < 0x1800 then BitVec.ofNat 64 (numAt h.respBuf (ofs - 0x1400) 8)
  else if 0x2000 ≤ ofs ∧ ofs < 0x2400 then
    let k := (ofs - 0x2000) / 4
    BitVec.ofNat 64 ((msixGet s k).toNat + (msixGet s (k + 1)).toNat * 2 ^ 32)
  else if ofs = 0x3000 then BitVec.ofNat 64 (((List.range 64).map fun v => if storeGet false h.pba v then 2 ^ v else 0).sum)
  else 0

/-- An 8-byte write into BAR0. -/
def windowWrite (s : State) (ofs : Nat) (v : W64) : State :=
  if ofs = 0 then s.onHost fun h => { h with hevt := h.hevt &&& ~~~v }
  else if ofs = 8 then s.onHost fun h => { h with hwofs := BitVec.ofNat 64 (field v 41 30 * 2 ^ 30) }
  else if ofs = 0x18 then writeHqen s v
  else if ofs = 0x38 then postRequest s (field v 10 0)
  else if 0x1000 ≤ ofs ∧ ofs < 0x1400 then
    s.onHost fun h => { h with reqBuf := ((leBytes 8 v.toNat).zipIdx).foldl (fun b x =>
      if ofs - 0x1000 + x.2 < 1024 then storeSet 0 b (ofs - 0x1000 + x.2) x.1 else b) h.reqBuf }
  else if 0x2000 ≤ ofs ∧ ofs < 0x2400 then
    let k := (ofs - 0x2000) / 4
    let put := fun (m : Store W32) (k : Nat) (x : W32) => storeSet (if k % 4 = 3 then 1 else 0) m k x
    flushMsix (s.onHost fun h => { h with msix := put (put h.msix k (v.setWidth 32)) (k + 1) ((v >>> 32).setWidth 32) })
  else s

/-- A write of bytes into BAR0, word by word: the bytes of a word that it does not cover keep what they read as, and are zero where the
register clears what is written to it or posts. -/
def windowBytes (s : State) (ofs : Nat) (bs : List Byte) : State :=
  (List.range ((ofs % 8 + bs.length + 7) / 8)).foldl (fun s i =>
    let base := ofs / 8 * 8 + 8 * i
    let old := leBytes 8 (if base = 0 ∨ base = 0x38 then 0 else (windowRead s base).toNat)
    let new := (old.zipIdx).map fun b => if ofs ≤ base + b.2 ∧ base + b.2 < ofs + bs.length then bs.getD (base + b.2 - ofs) 0 else b.1
    windowWrite s base (BitVec.ofNat 64 (ofLe new))) s

/-! ### Host memory accesses (17 R438 to R441) -/

/-- Where a host access goes. -/
inductive HostPlace where
  | window
  | cue (ofs : Nat)
  | mem (pa : Nat)
  | hole
deriving DecidableEq, Repr

/-- The place of a BAR and offset (17 Table 17-5, R438). -/
def hostPlace (s : State) (bar ofs : Nat) : HostPlace :=
  if bar = 0 then .window
  else if bar = 2 then
    (if ofs < 0x8000 then .cue ofs
      else if 0x40000000 ≤ ofs ∧ ofs < 0xE0000000 then .mem (scratchBase + (ofs - 0x40000000)) else .hole)
  else if bar = 4 ∧ ofs < 2 ^ s.host.bar4k then
    (let pa := s.host.hwofs.toNat + ofs
     if pa ≤ 0x3FFFFFFFFFF then .mem pa else .hole)
  else .hole

/-- Whether the domain of a scratch or program address is on: the SRAM periphery of its die (15 Table 15-1). -/
def memoryOn (s : State) (pa : Nat) : Bool :=
  match regionOf pa with
  | .scratch sl _ => domOn s (4 + sl / 80)
  | .program _ => domOn s 4
  | _ => true

/-- The outcome of a host access to memory: 0 allowed, 1 Unsupported Request, 2 Completer Abort. -/
def hostAllowed (s : State) (pa len : Nat) (write : Bool) : Nat :=
  let ws := wordsOf pa len
  if ws.any fun w => !(hasTarget s (16 * w) && memoryOn s (16 * w)) then 1
  else if objGet s 0x2100 4 < (if write then 2 else 1) then 2
  else if ws.any fun w => inReserved (16 * w) then 2
  else 0

/-- A host write is discarded: 1 Unsupported Request, 2 Completer Abort; it is counted and logged under AER at the bits that PCIe gives
these errors (PRESUMED, log entry 118). -/
def discardWrite (s : State) (k : Nat) : State :=
  (objAdd s 0x7440 k 1).onHost fun h => { h with aer := h.aer ||| BitVec.ofNat 32 (2 ^ (if k = 1 then 20 else 15)) }

/-- A completion of a host read: 0 success, 1 Unsupported Request, 2 Completer Abort, 3 success with EP; and its data. -/
def complete (s : State) (st : Nat) (data : List Byte) : State := s.emit (.bytes (0x400 + st) data)

/-- Read words for the host: every poisoned word returns zeros. -/
def hostWords (s : State) (ws : List Nat) : State × List Byte × Bool :=
  match ws with
  | [] => (s, [], false)
  | w :: r =>
    let (s, bad) := decodeWord s w 0
    let own := if bad then List.replicate 16 0 else peekBytes s (16 * w) 16
    let (s, rest, b) := hostWords s r
    (s, own ++ rest, bad || b)

/-- HOST_MEMORY_READ. -/
def hostRead (s : State) (bar ofs len : Nat) : State :=
  if !(hostOk s) then s
  else
    match hostPlace s bar ofs with
    | .window => complete s 0 (slice ((List.range ((ofs % 8 + len + 7) / 8)).flatMap fun i =>
        leBytes 8 (windowRead s (ofs / 8 * 8 + 8 * i)).toNat) (ofs % 8) len)
    | .cue o =>
      if !(domOn s 1) then complete (objAdd s 0x7440 1 1) 1 []
      else
      let s := meetCues s
      let bad := (wordsOf o len).any fun w => badMark ((cueGet s (w / 2)).marks.getD (w % 2) .good)
      let bs := slice ((List.range (1024 - o / 32)).flatMap fun i => cueRecord (cueGet s (o / 32 + i))) (o % 32) len
      if bad then complete (objAdd s 0x7440 3 1) 3 bs else complete s 0 bs
    | .hole => complete (objAdd s 0x7440 1 1) 1 []
    | .mem pa =>
      let k := hostAllowed s pa len false
      if k ≠ 0 then complete (objAdd s 0x7440 k 1) k []
      else
        let (s, bs, bad) := hostWords (useCache s pa len false 0) (wordsOf pa len)
        let s := if bad then objAdd s 0x7440 3 1 else s
        complete s (if bad then 3 else 0) (slice bs (pa % 16) len)

/-- The words that a write covers in part and that hold poison. -/
def partialPoison (s : State) (pa len : Nat) : Nat :=
  ((wordsOf pa len).filter fun w =>
    (decide (16 * w < pa) || decide (pa + len < 16 * w + 16)) && decide (markGet s w = .poison)).length

/-- HOST_MEMORY_WRITE. -/
def hostWrite (s : State) (bar ofs : Nat) (bs : List Byte) : State :=
  if !(hostOk s) then s
  else
    match hostPlace s bar ofs with
    | .window => windowBytes s ofs bs
    | .cue o => if domOn s 1 then hostCueBytes s o bs else discardWrite s 1
    | .hole => discardWrite s 1
    | .mem pa =>
      let k := hostAllowed s pa bs.length true
      if k ≠ 0 then discardWrite s k
      else
        let s := objAdd s 0x7440 4 (partialPoison s pa bs.length)
        guardReset s (writeAs .host s ((bs.zipIdx).map fun b => (pa + b.2, b.1)))

/-! ### The link and configuration space (17 R433, R435, R437, R442) -/

/-- PCIE_LINK_TRAINED with what the partner supports: at 64 and 128 GT/s in Flit mode, below where the partner supports it, which the
command does not carry (DESIGN CHOICE, log entry 118). -/
def linkTrained (s : State) (rate width : Nat) : State :=
  let r := min rate (objGet s 0x2100 2)
  let w := min width (objGet s 0x2100 3)
  if domOn s 29 = true ∧ s.host.perstHigh = true ∧ s.host.link = false ∧ 1 ≤ r ∧ 1 ≤ w then
    let (v, s) := freshFree s
    s.onHost fun h => { h with link := true, rate := r, width := w, flit := decide (6 ≤ r) || bit v 0 }
  else s

/-- FUNCTION_LEVEL_RESET. -/
def levelReset (s : State) : State := if domOn s 29 && s.host.link then resetHostPort (objAdd s 0x7440 0xB 1) true else s

/-- PE_PERST_N: low takes the link down (18 R469). -/
def perstChange (s : State) (high : Bool) : State :=
  let s := s.onHost fun h => { h with perstHigh := high }
  if high then s else resetHostPort s false

/-- PMCSR.PowerState: D0 and D3hot; the other two values are ignored. -/
def writePmcsr (s : State) (v : BitVec 2) : State :=
  if !(domOn s 29 && s.host.link) ∨ v = 1 ∨ v = 2 then s
  else flushMsix (writeDataView (s.onHost fun h => { h with pmcsr := v }) 0x3000 1 (if v = 0 then 0 else 2))

/-- CONFIGURATION_WRITE. -/
def configWrite (s : State) (f : CfgField) (v : W32) : State :=
  if !(domOn s 29 && s.host.link) then s
  else
    match f with
    | .busMaster => flushMsix (s.onHost fun h => { h with busMaster := bit v 0 })
    | .msixEnable => flushMsix (s.onHost fun h => { h with msixOn := bit v 0 })
    | .aerStatus => s.onHost fun h => { h with aer := h.aer &&& ~~~v }
    | .bar4Size => if 30 ≤ v.toNat ∧ v.toNat ≤ 42 then s.onHost fun h => { h with bar4k := v.toNat } else s

/-! ### Attached modules (17 R457 to R459) -/

/-- An identity that could not be read. -/
def noIdentity : ModuleId :=
  { readable := false, kindOk := false, maker := 0, part := [], serial := [], revision := 0, capacity := 0, organisation := 0, speed := 0,
    powerOk := false, bandOk := false, featuresOk := false, maxPowerW := 0, image := [] }

/-- FLASH_PORT_LINK_UP: at the first link-up the identity is read, and the module accepted or refused. -/
def flashLinkUp (s : State) (id : ModuleId) : State :=
  if objGet s 0x2100 8 = 1 ∧ domOn s 29 = true ∧ (moduleOf s 0x20).isNone then noteModule s 0x20 id (nvmeReason id) else s

/-- FLASH_PORT_TRAINING_TIMEOUT: the module is refused with reason 0Ah. -/
def flashTimeout (s : State) : State :=
  if objGet s 0x2100 8 = 1 ∧ domOn s 29 = true ∧ (moduleOf s 0x20).isNone then noteModule s 0x20 noIdentity 0xA else s

/-- The record of a module that is gone: no rule gives its type and severity, which are free values (DESIGN CHOICE, log entry 40). -/
def goneToll (s : State) (code : Nat) : State :=
  let (v, s) := freshFree s
  fileToll s { tollOf (field v 15 0) (field v 17 16) 0 with ucls := 0xE, unit := BitVec.ofNat 16 code }

/-- A domain taken down for want of its module. -/
def takeDown (s : State) (d : Nat) : State :=
  followEnables (s.onPower fun p => { p with down := p.down ||| BitVec.ofNat 32 (2 ^ d) })

/-- MODULE_PRESENCE_LOSS: while its domain is on, the domain goes down, the module is absent, and a record is filed
(DEDUCED, log entry 83). -/
def presenceLost (s : State) (code : Nat) : State :=
  if (moduleOf s code).isNone then s
  else if code < 4 then
    (if domOn s 24 then goneToll (takeDown (siteSizes (objSet (forgetModule s code) 0x2202 (5 + code) 0)) 24) code else s)
  else if 0x10 ≤ code ∧ code < 0x14 then
    let k := code - 0x10
    if domOn s (25 + k) then goneToll (takeDown (objSet (forgetModule s code) 0x2310 (2 + k) 0) (25 + k)) code else s
  else if domOn s 29 then goneToll (forgetModule (nvmeGone s) 0x20) code
  else s

end Sys2Proof.Machine
end

