-- ==== Sys2Proof/Machine/Board.lean ====
section
/-! DEFINITION. The board: power-up, boot, AON reset, brownout and the pins (18 R464 to R472; 16 R411, R421). -/

namespace Sys2Proof.Machine

/-- The objects that an AON reset leaves: the repair maps, which the ledger restores, the fused counters, and service
required, which only a write of 0 clears. -/
def survives (key : Nat) : Bool :=
  [0x2011, 0x5020].contains (key / 256) || decide (key = objKey 0x4000 7)

/-- STW_RDY. -/
def setReady (s : State) (b : Bool) : State :=
  if s.board.stwRdy = b then s else (s.onBoard fun x => { x with stwRdy := b }).emit (.pin 1 b)

/-- What an AON reset leaves: the fused state, management flash, the ledger, the toll ring, the latch of THERMTRIP_N (18 R470; 13
R349; 16 R420, R431). Keys and an update in progress are lost; a flash image whose write was under way is incomplete
(DEDUCED, log entry 80). A follow that it abandons begins again from the ledger (13 R363), and image sequence numbers go on (14 Table 14-1;
DEDUCED, log entry 120). STW_RDY is driven low (18 Table 18-4). -/
def aonReset (s : State) : State :=
  let s := setReady (loseAllDomains s) false
  let t := s.trust
  { s with
    ctl := resetCtl,
    dict := { resetDict with objs := storeFilter survives s.dict.objs },
    ckpt := { resetCkpt with nextSeq := s.ckpt.nextSeq, newest := s.ckpt.newest },
    power := { resetPower with trips := s.power.trips, thermtrip := s.power.thermtrip },
    rel := { s.rel with waiting := [], reports := [], suspects := [], trailed := [], spares := [], tocsins := [], tseq := 0, scrubNear := 0, scrubFar := 0 },
    trust := { resetTrust with
      security := t.security, revoked := t.revoked, ownerKeys := t.ownerKeys, udsFused := t.udsFused, uds := t.uds,
      aliases := t.aliases, leaves := t.leaves, flash := t.flash, flashBad := t.flashBad || decide (t.updStatus = 4),
      slot0Set := t.slot0Set, chain := t.chain } }

/-- The device announces that it leaves: every ACTIVE port announces shutdown, a tocsin of kind 5h goes out, and the stream
stops. -/
def leaveFabric (s : State) : State :=
  let s := sendTocsin (announceShutdown s) 5 0 0
  if s.seq.running then s.emit (.stream false 0) else s

/-- P48V_RISE: the AON converter starts, in internal reset. The removal of P48V has cleared the latch of THERMTRIP_N (R467). -/
def p48vUp (s : State) : State :=
  if s.board.p48v then s
  else
    let s := aonReset s
    let s := s.onPower fun p => { p with thermtrip := false }
    s.onBoard fun b => { b with p48v := true, aon := true, inReset := true }

/-- AON_RESET_RELEASE: the straps are sampled and ROM boot starts. -/
def releaseReset (s : State) (straps : BitVec 3) : State :=
  if s.board.aon = true ∧ s.board.inReset = true then
    (s.onBoard fun b => { b with inReset := false, resetLow := false, straps := straps }).onTrust fun t => { t with boot := 1 }
  else s

/-- The recovery state (16 R421): AON and, when enabled, PCI are on; the device stands in D3cold (DEDUCED, log entry 82). -/
def enterRecovery (s : State) : State := setReady (recoveryDomains (s.onTrust fun t => { t with boot := 4 })) true

/-- ROM_BOOT_COMPLETE: ROM derives the DeviceID keys; the steward firmware of the flash image verifies and starts with the CDI that ROM derives
for it. At each boot the rest of the last reserved block of DeviceID's leaves is skipped (16 R411, R423). -/
def romDone (s : State) : State :=
  if s.trust.boot ≠ 1 then s
  else
    let s := deriveDevice s
    if s.trust.flashBad = false ∧ bootVerifies s s.trust.flash [1] = true then startFirmware s s.trust.flash
    else enterRecovery (s.onTrust fun t => { t with leaves := skipBlock t.leaves })

/-- STEWARD_FIRMWARE_READY: the runtime and engine components and the installed peals verify; the Alias keys are derived; the dictionary answers in
D3cold. -/
def stewardReady (s : State) : State :=
  if s.trust.boot ≠ 2 then s
  else if bootVerifies s s.trust.running [2, 3] && pealsVerify s then
    let s := followEnables (s.onTrust fun t => { t with boot := 3 })
    setReady (deriveAlias s) true
  else enterRecovery (if s.trust.updStatus = 4 then setUpdate s 7 else s)

/-- RESET_N_ASSERT for a number of µs: an AON reset from 10 µs on; a shorter pulse may be ignored or taken (DESIGN CHOICE, log entry 81). -/
def resetAsserted (s : State) (us : Nat) : State :=
  let (v, s) := freshFree s
  if !s.board.aon then s.onBoard fun b => { b with resetLow := true }
  else if us < 10 ∧ bit v 0 = false then s
  else
    let s := if s.board.inReset then s else aonReset (leaveFabric s)
    s.onBoard fun b => { b with inReset := true, resetLow := true }

/-- Brownout (kind 1) or overvoltage (kind 2): the device shuts down except AON, and the input fault log has one more entry. A flash write under
way leaves the image incomplete (16 R420) and the update ends as aborted, 7, a status that no rule gives (DESIGN CHOICE, log entry 140). -/
def inputFault (s : State) (kind : Nat) (resetToo : Bool) : State :=
  if s.board.p48v = false ∨ s.board.aon = false then s
  else
    let s := loseAllDomains (leaveFabric s)
    let s := if s.trust.updStatus = 4 then setUpdate (s.onTrust fun t => { t with flashBad := true, staged := [] }) 7 else s
    s.onBoard fun b => { b with
      p48v := false,
      faultLog := takeLast 16 (b.faultLog ++ [(BitVec.ofNat 64 (objGet s 0x4020 1), kind, b2n resetToo)]) }

/-- INPUT_RECOVERY: the device stands in D3cold, and 3000h:01 reads 3. -/
def inputBack (s : State) : State :=
  if s.board.p48v = false ∧ s.board.aon = true then objSet (s.onBoard fun b => { b with p48v := true }) 0x3000 1 3 else s

end Sys2Proof.Machine
end

