-- ==== Sys2Proof/Machine/BoardCmds.lean ====
section
/-! DEFINITION. The board (18 R464 to R472, 16 R411). -/

namespace Sys2Proof.Machine
open Sys2Proof

/-- P48V_RISE (18 R468). -/
def execP48vRise (s : State) : Host.Outcome State Fault Refusal := .next (p48vUp s)

/-- AON_RESET_RELEASE (18 R468). -/
def execAonResetRelease (straps : BitVec 3) (s : State) : Host.Outcome State Fault Refusal := .next (releaseReset s straps)

/-- ROM_BOOT_COMPLETE (16 R411). -/
def execRomBootComplete (s : State) : Host.Outcome State Fault Refusal := .next (romDone s)

/-- STEWARD_FIRMWARE_READY (16 R411). -/
def execStewardFirmwareReady (s : State) : Host.Outcome State Fault Refusal := .next (stewardReady s)

/-- RESET_N_ASSERT (18 R470). -/
def execResetNAssert (us : Nat) (s : State) : Host.Outcome State Fault Refusal := .next (resetAsserted s us)

/-- BROWNOUT (18 R472). -/
def execBrownout (resetToo : Bool) (s : State) : Host.Outcome State Fault Refusal := .next (inputFault s 1 resetToo)

/-- OVERVOLTAGE (18 R472). -/
def execOvervoltage (resetToo : Bool) (s : State) : Host.Outcome State Fault Refusal := .next (inputFault s 2 resetToo)

/-- INPUT_RECOVERY (18 R472). -/
def execInputRecovery (s : State) : Host.Outcome State Fault Refusal := .next (inputBack s)

/-- PE_PERST_N_CHANGE (18 R469). -/
def execPePerstNChange (high : Bool) (s : State) : Host.Outcome State Fault Refusal := .next (perstChange s high)

end Sys2Proof.Machine
end

