-- ==== Sys2Proof/Machine/CkptCmds.lean ====
section
/-! DEFINITION. Checkpoint strata (14 R379 to R388). -/

namespace Sys2Proof.Machine
open Sys2Proof

/-- SECURE_STRATUM_1 (14 R379). -/
def execSecureStratum1 (own : BitVec 2) (arg : W128) (s : State) : Host.Outcome State Fault Refusal :=
  .next (guardReset s (ckCommand s own arg 1))

/-- SECURE_STRATUM_2 (14 R379). -/
def execSecureStratum2 (own : BitVec 2) (arg : W128) (s : State) : Host.Outcome State Fault Refusal :=
  .next (guardReset s (ckCommand s own arg 2))

/-- SECURE_STRATUM_3 (14 R379). -/
def execSecureStratum3 (own : BitVec 2) (arg : W128) (s : State) : Host.Outcome State Fault Refusal :=
  .next (guardReset s (ckCommand s own arg 3))

/-- RETURN_GUEST_IMAGE (14 R386). -/
def execReturnGuestImage (own : BitVec 2) (arg : W128) (s : State) : Host.Outcome State Fault Refusal :=
  .next (guardReset s (ckCommand s own arg 4))

/-- RESTORE_AFTER_RETURN (14 R388). -/
def execRestoreAfterReturn (own : BitVec 2) (arg : W128) (s : State) : Host.Outcome State Fault Refusal :=
  .next (guardReset s (ckCommand s own arg 5))

/-- RESTORE_FROM_NVME (14 R388). -/
def execRestoreFromNvme (own : BitVec 2) (arg : W128) (s : State) : Host.Outcome State Fault Refusal :=
  .next (guardReset s (ckCommand s own arg 6))

/-- RESTORE_AFTER_HOST_WRITE (14 R388). -/
def execRestoreAfterHostWrite (own : BitVec 2) (arg : W128) (s : State) : Host.Outcome State Fault Refusal :=
  .next (guardReset s (ckCommand s own arg 7))

/-- NVME_COMMAND_COMPLETE (14 R379). -/
def execNvmeCommandComplete (ok : Bool) (data : List Byte) (s : State) : Host.Outcome State Fault Refusal :=
  .next (guardReset s (nvmeComplete s ok data))

end Sys2Proof.Machine
end

