-- ==== Sys2Proof/Machine/CollCmds.lean ====
section
/-! DEFINITION. The collective engine (12 R314 to R334). -/

namespace Sys2Proof.Machine
open Sys2Proof

/-- COLLECTIVE_ACCEPT (12 R314). -/
def execCollectiveAccept (s : State) : Host.Outcome State Fault Refusal := .next (guardReset s (acceptColl s))

/-- REDUCE_SCATTER (12 R322). -/
def execReduceScatter (tag : BitVec 6) (s : State) : Host.Outcome State Fault Refusal :=
  .next (guardReset s (runReduce s tag))

/-- ALL_GATHER (12 R323). -/
def execAllGather (tag : BitVec 6) (s : State) : Host.Outcome State Fault Refusal := .next (guardReset s (runGather s tag))

/-- CLOSE_VOTE (12 R333). -/
def execCloseVote (tag : BitVec 6) (s : State) : Host.Outcome State Fault Refusal := .next (guardReset s (runVote s tag))

/-- COLLECTIVE_OPEN (12 R316). -/
def execCollectiveOpen (tag : BitVec 6) (s : State) : Host.Outcome State Fault Refusal :=
  .next (guardReset s (openByTag s tag))

/-- COLLECTIVE_MESSAGE_COMPLETE (12 R324). -/
def execCollectiveMessageComplete (bucket : Bucket) (peer : BitVec 14) (pk : BitVec 3) (dim : BitVec 2)
    (body : List W128) (tally status digest : W128) (s : State) : Host.Outcome State Fault Refusal :=
  .next (guardReset s (takeMessage s
    { bid := bucket.bid.toNat, ps := bucket.ps.toNat, peer := peer.toNat, pk := pk.toNat, dim := dim.toNat, body := body, tally := tally, status := status,
      digest := digest }))

/-- COLLECTIVE_DEADLINE (12 R332). -/
def execCollectiveDeadline (tag : BitVec 6) (s : State) : Host.Outcome State Fault Refusal :=
  .next (guardReset s (passDeadline s tag))

/-- EARLY_ARRIVAL_RESEND (12 R325). -/
def execEarlyArrivalResend (tag : BitVec 6) (peer : BitVec 14) (s : State) : Host.Outcome State Fault Refusal :=
  .next (guardReset s (resendEarly s tag peer.toNat))

/-- VOTE_COMMIT (12 R334). -/
def execVoteCommit (tag : BitVec 6) (s : State) : Host.Outcome State Fault Refusal :=
  .next (guardReset s (Sys2Proof.Machine.voteCommit s tag))

end Sys2Proof.Machine
end

