-- ==== Sys2Proof/Machine/Ctl.lean ====
section
/-! DEFINITION. The control registers: who may reach each, what a read gives and what a write does (03 R66, Table 3-1; 05 Table 5-7;
07 Table 7-4; 08 Table 8-2; 09 Table 9-2; 10 Table 10-4; 11 Table 11-9; 12 Table 12-6; 14 Table 14-6; 15 Table 15-4; 17 Table
17-13). -/

namespace Sys2Proof.Machine

/-! ### Access (03 R66) -/

/-- The access of one level to a register. -/
inductive Acc where
  | none | ro | wo | rw
deriving DecidableEq, Repr

/-- A run of registers: first and last number, access at U, S and M. -/
structure CtlRow where
  lo : Nat
  hi : Nat
  u : Acc
  s : Acc
  m : Acc
deriving DecidableEq, Repr

/-- Every control-register table of the spec. -/
def ctlRows : List CtlRow :=
  [ ⟨0x100, 0x105, .none, .rw, .rw⟩, ⟨0x106, 0x106, .none, .ro, .ro⟩, ⟨0x107, 0x107, .none, .wo, .wo⟩,
    ⟨0x108, 0x108, .none, .rw, .rw⟩, ⟨0x109, 0x109, .none, .wo, .wo⟩, ⟨0x10A, 0x10E, .none, .rw, .rw⟩,
    ⟨0x200, 0x205, .none, .none, .rw⟩, ⟨0x206, 0x206, .none, .none, .ro⟩, ⟨0x207, 0x207, .none, .none, .rw⟩,
    ⟨0x20A, 0x20F, .none, .none, .rw⟩, ⟨0x300, 0x307, .none, .rw, .rw⟩,
    ⟨0x400, 0x403, .none, .rw, .rw⟩, ⟨0x404, 0x404, .none, .ro, .ro⟩, ⟨0x410, 0x417, .none, .ro, .ro⟩,
    ⟨0x500, 0x507, .rw, .rw, .rw⟩, ⟨0x508, 0x508, .wo, .wo, .wo⟩, ⟨0x510, 0x511, .none, .rw, .rw⟩,
    ⟨0x512, 0x513, .none, .ro, .rw⟩,
    ⟨0x600, 0x603, .rw, .rw, .rw⟩, ⟨0x610, 0x611, .none, .rw, .rw⟩, ⟨0x612, 0x612, .rw, .rw, .rw⟩,
    ⟨0x620, 0x623, .none, .rw, .rw⟩,
    ⟨0x700, 0x700, .rw, .rw, .rw⟩, ⟨0x701, 0x701, .ro, .ro, .ro⟩, ⟨0x710, 0x710, .ro, .ro, .ro⟩, ⟨0x711, 0x711, .wo, .wo, .wo⟩,
    ⟨0x800, 0x800, .rw, .rw, .rw⟩, ⟨0x801, 0x802, .ro, .ro, .ro⟩,
    ⟨0x900, 0x905, .none, .rw, .rw⟩, ⟨0x906, 0x906, .none, .ro, .ro⟩,
    ⟨0xA00, 0xA00, .rw, .rw, .rw⟩, ⟨0xA01, 0xA03, .ro, .ro, .ro⟩,
    ⟨0xB00, 0xB00, .ro, .ro, .ro⟩, ⟨0xC00, 0xC00, .rw, .rw, .rw⟩, ⟨0xC01, 0xC01, .ro, .ro, .ro⟩,
    ⟨0xD00, 0xD01, .none, .none, .rw⟩, ⟨0xD02, 0xD02, .none, .none, .wo⟩, ⟨0xD03, 0xD03, .none, .none, .ro⟩,
    ⟨0xD08, 0xD10, .none, .none, .rw⟩ ]

/-- The row of a register number, if any table has it. -/
def ctlRow (n : Nat) : Option CtlRow := ctlRows.find? fun r => decide (r.lo ≤ n) && decide (n ≤ r.hi)

/-- A level's access in a row. -/
def accAt (r : CtlRow) (pl : BitVec 2) : Acc := if pl = 3 then r.m else if pl = 1 then r.s else r.u

/-- The condition of a CTLR or CTLW to a number at a level. -/
def condCtl (write : Bool) (n : Nat) (s : State) : Cond :=
  match ctlRow n with
  | none => some (1, 5)
  | some r =>
    let a := accAt r s.seq.pl
    if write ∧ r.m = .ro then some (1, 5)
    else if a = .none then some (4, 2)
    else if write ∧ a = .ro then some (4, 2)
    else none

/-! ### Reads -/

/-- RPL1 as it reads: bit 5 is ACC of a matrix-vector product's record, and reserved in every other (03 R79, 06 R157). -/
def rpl1View (r : LevelRegs) : W64 := if field r.saved 18 16 = 4 then r.rpl1 else setBit r.rpl1 5 false

/-- Register k of a level's set (Table 3-1: 0100h + k or 0200h + k). -/
def levelRead (s : State) (t : BitVec 2) (k : Nat) : W64 :=
  let r := levelRegs s t
  if k = 0 then r.vtb
  else if k = 1 then r.ret
  else if k = 2 then savedView s t
  else if k = 3 then r.fault
  else if k = 4 then r.faddr
  else if k = 5 then r.ie
  else if k = 6 then intPending s t
  else if k = 0xA then r.rpl0
  else if k = 0xB then rpl1View r
  else if k = 0xC then r.rpl2
  else r.rpl3

/-- The record that TPSEL selects, if it selects one (05 Table 5-8). -/
def selRec (s : State) : Option Nat :=
  let slc := field s.ctl.tpsel 15 8
  let res := field s.ctl.tpsel 7 6
  if slc < 160 ∧ res < 3 then some (recKey slc res (field s.ctl.tpsel 2 0)) else none

/-- TPSTAT. -/
def tpstat (s : State) : W64 :=
  let v := s.tiles.recs.filter fun r => bit r.2.w0 63
  let low := match v with
    | [] => 0xFF
    | r :: _ => r.1 / 24
  BitVec.ofNat 64 (low + v.length % 2 ^ 16 * 2 ^ 32)

/-- The selected cue entry. -/
def selCue (s : State) : Nat := field s.ctl.cqsel 9 0

/-- Word w of the selected cue entry. -/
def cueWord (c : Cue) (w : Nat) : W64 := if w = 0 then c.w0 else if w = 1 then c.w1 else if w = 2 then c.w2 else c.w3

/-- DCHK (09 Table 9-2). -/
def dchkWord (s : State) : W64 := BitVec.ofNat 64 (b2n s.ctl.dcArm + s.ctl.dcReason.toNat * 2)

/-- PWSTAT (15 Table 15-4). -/
def pwstat (s : State) : W64 :=
  BitVec.ofNat 64 (s.power.mute % 32 + s.power.dvfs % 4 * 32 + b2n (decide (0 < s.power.droopMute)) * 128
    + b2n (decide (0 < s.power.thermalMute)) * 256)

/-- What CTLR reads; a write-only register reads as zero. -/
def ctlRead (s : State) (n : Nat) : W64 :=
  let c := s.ctl
  if n = 0x108 then c.ptb
  else if n = 0x10E then c.bcmp
  else if n = 0x107 ∨ n = 0x109 then 0
  else if 0x100 ≤ n ∧ n < 0x10E then levelRead s 1 (n - 0x100)
  else if n = 0x207 then c.iroute
  else if n = 0x20E then c.escsp
  else if n = 0x20F then c.wdt
  else if 0x200 ≤ n ∧ n < 0x20E then levelRead s 3 (n - 0x200)
  else if 0x300 ≤ n ∧ n < 0x304 then (storeGet 0 s.seq.lc (n - 0x300)).setWidth 64
  else if 0x304 ≤ n ∧ n < 0x308 then (storeGet 0 s.seq.le (n - 0x304)).setWidth 64
  else if n = 0x400 then c.tpsel
  else if 0x401 ≤ n ∧ n ≤ 0x403 then
    match selRec s with
    | none => 0
    | some k => let r := recGet s k
                if n = 0x401 then r.w0 else if n = 0x402 then r.w1 else r.w2
  else if n = 0x404 then tpstat s
  else if 0x410 ≤ n ∧ n < 0x418 then storeGet 0 s.tiles.accepted (n - 0x410)
  else if 0x500 ≤ n ∧ n < 0x508 then (storeGet 0 c.scdq (n - 0x500)).setWidth 64
  else if n = 0x510 then c.scsel
  else if n = 0x511 then slotWord (slotGet s (selSlot s))
  else if n = 0x512 then ((slotGet s (selSlot s)).ring.getD (selRing s) 0).setWidth 64
  else if n = 0x513 then let v := slotGet s (selSlot s)
                         BitVec.ofNat 64 (v.acc.toNat + b2n v.used * 2 ^ 32)
  else if 0x600 ≤ n ∧ n < 0x604 then storeGet 0 c.vb (n - 0x600)
  else if n = 0x610 then c.rtkl
  else if n = 0x611 then c.rtkh
  else if n = 0x612 then c.rtsub
  else if n = 0x620 then c.cpsel
  else if n = 0x621 then storeGet 0 s.elem.cprec (field c.cpsel 7 0)
  else if n = 0x622 then c.mssel
  else if n = 0x623 then storeGet 0 s.elem.msop (field c.mssel 10 0)
  else if n = 0x700 then c.stsel
  else if n = 0x701 then ststatWord (entShown s (field c.stsel 7 0))
  else if n = 0x710 then dchkWord s
  else if n = 0x800 then c.dmerr
  else if n = 0x801 then c.dmelog
  else if n = 0x802 then c.dmea
  else if n = 0x900 then c.cqsel
  else if 0x901 ≤ n ∧ n < 0x905 then cueWord (cueGet s (selCue s)) (n - 0x901)
  else if n = 0x905 then c.cqen
  else if n = 0x906 then c.cqref
  else if n = 0xA00 then c.clerr
  else if n = 0xA01 then c.clelog
  else if n = 0xA02 then c.clverd
  else if n = 0xA03 then c.clnfl
  else if n = 0xB00 then c.ckstat
  else if n = 0xC00 then c.pwq
  else if n = 0xC01 then pwstat s
  else if n = 0xD00 then c.odsel
  else if n = 0xD01 then c.oddat
  else if n = 0xD03 then c.odst
  else if 0xD08 ≤ n ∧ n < 0xD10 then storeGet 0 c.odw (n - 0xD08)
  else if n = 0xD10 then c.odwhit
  else 0

/-! ### Writes with a behaviour of their own -/

/-- Bits hi to lo of a word, the others zero: a reserved field ignores what is written and reads as zero (00 R11). -/
def keepBits (v : W64) (hi lo : Nat) : W64 := BitVec.ofNat 64 (field v hi lo * 2 ^ lo)

/-- SAVED as written: TS and DF are read-only, [13..4] reserved (Table 3-2). -/
def savedWrite (old v : W64) : W64 := keepBits v 63 16 ||| keepBits old 14 14 ||| keepBits v 3 0

/-- FAULT as written (Table 3-3). -/
def faultWrite (v : W64) : W64 := keepBits v 63 40 ||| keepBits v 31 24 ||| keepBits v 20 0

/-- A write of register k of a level's set. -/
def levelWrite (s : State) (t : BitVec 2) (k : Nat) (v : W64) : State :=
  onLevel s t fun r =>
    if k = 0 then { r with vtb := keepBits v 47 8 }
    else if k = 1 then { r with ret := keepBits v 21 0 }
    else if k = 2 then { r with saved := savedWrite r.saved v }
    else if k = 3 then { r with fault := faultWrite v }
    else if k = 4 then { r with faddr := v }
    else if k = 5 then { r with ie := keepBits v 15 0 }
    else if k = 0xA then { r with rpl0 := keepBits v 51 0 }
    else if k = 0xB then { r with rpl1 := keepBits v 63 22 ||| keepBits v 15 8 ||| keepBits v 5 0 }
    else if k = 0xC then { r with rpl2 := v }
    else if k = 0xD then { r with rpl3 := v }
    else r

/-- SX_SWI: bit j raises interrupt 1Ch + j (03 R70). -/
def writeSwi (v : W64) (s : State) : State := (List.range 4).foldl (fun s j => if bit v j then raiseInt s (0x1C + j) else s) s

/-- SX_TINV: an invalidation that is complete 64 clk on, and brings the root that SX_PTB holds now into use (03 R97, Table 3-1). -/
def writeTinv (v : W64) (s : State) : State :=
  s.onCtl fun c => { c with tinvs := c.tinvs ++ [(s.cnt.clk + 64, bit v 0, field v 51 21, c.ptb)] }

/-- SX_BCMP: each nonzero write arms interrupt 19h once, a zero disarms it (03 R70). -/
def writeBcmp (v : W64) (s : State) : State :=
  s.onCtl fun c => { c with bcmp := keepBits v 47 0, bcmpArmed := decide (field v 47 0 ≠ 0) }

/-- MX_WDT: the watchdog count restarts (03 R480). -/
def writeWdt (v : W64) (s : State) : State :=
  (s.onCtl fun c => { c with wdt := keepBits v 31 0 }).onCnt fun c => { c with watchdog := 0 }

/-- TPR0: V = 0 invalidates the selected record; V = 1 commits it from the staged words if the tile is configured with exactly
TPR2's word and the slice is the GK-th member of its owning membership, and else leaves it invalid (05 R132, R134). -/
def writeTpr0 (v : W64) (s : State) : State :=
  match selRec s with
  | none => s
  | some k =>
    let tc := tileCfg s (field v 59 57)
    let w0 := keepBits v 63 63 ||| keepBits v 59 18
    if !(bit v 63) then recSet s k ⟨0, 0, 0⟩
    else if tc.word = s.ctl.tpr2 ∧ (members tc.mask)[field v 25 18]? = some (field s.ctl.tpsel 15 8) ∧ cfgEn tc.word = true then
      metaSet (recSet s k ⟨w0, s.ctl.tpr1, s.ctl.tpr2⟩) k (0, maskCount tc.mask)
    else recSet s k ⟨0, 0, 0⟩

/-- CQW0: commits the staged words to the selected entry; OWN is 11b at M level and 01b at S level (11 R302, R303). -/
def writeCqw0 (v : W64) (s : State) : State :=
  let r := commitCue s (selCue s) (if s.seq.pl = 3 then 3 else 1) false v s.fab.stage
  if r.2 = .refused then r.1 else r.1.onFab fun f => { f with stage := [] }

/-- DCREP: a nonzero count files record 0010h, is added to 7270h:09, and makes suspects of the slices in which the stash holds the
layer (09 R226, 13 R356) (DEDUCED, log entry 78). -/
def writeDcrep (v : W64) (s : State) : State :=
  let n := field v 31 0
  let layer := field v 47 32
  if n = 0 then s
  else
    let s := objAdd s 0x7270 9 n
    let s := fileToll s { tollOf 0x10 2 layer with
      count := BitVec.ofNat 32 n, op := (Config.syllable s.cnt.op).setWidth 16 }
    let slices := ((s.dma.stash.filter fun e => decide (e.2.layer = BitVec.ofNat 16 layer)).flatMap fun e => members e.2.mask).eraseDups
    slices.foldl (fun s l => addSuspect s 1 (physSlice s l)) s

/-! ### The dictionary from M level (17 R454) -/

/-- The whole size that a write by successive offsets must reach before it is applied, if the object is one that is applied whole
(firmware image, token, peal package). -/
def wholeSize (idx : Nat) (bs : List Byte) : Option Nat :=
  if idx = 0x1F50 then some (if bs.length < 112 then imageMax else imageEnd bs)
  else if idx = 0x5000 then some tokenSize
  else if idx = 0x4030 then some (if bs.length < 64 then imageMax else 64 + numAt bs 16 4 + blockSize)
  else none

/-- A write of bytes at an offset by M level: a status (DEDUCED, log entry 86). -/
def odWriteBytes (s : State) (idx sub size ofs : Nat) (bs : List Byte) : State × Nat :=
  match wholeSize idx [] with
  | none => bytesWrite s .m idx sub size ofs bs
  | some _ =>
    let key := objKey idx sub
    let first := decide (ofs = 0)
    let start := if first && decide (idx = 0x1F50) then beginTransfer s .m else (s, true)
    let s := start.1
    let old := if first then [] else storeGet [] s.dict.blobs key
    if start.2 = false ∨ old.length ≠ ofs ∨ (idx = 0x1F50 ∧ s.trust.updBy ≠ some .m) then (s, 0xA)
    else
      let all := old ++ bs
      if wholeSize idx all = some all.length then
        bytesWrite (s.onDict fun d => { d with blobs := storeErase d.blobs key }) .m idx sub size 0 all
      else (s.onDict fun d => { d with blobs := storeSet [] d.blobs key all }, 0)

/-- The access that ODSEL and a length name: state, status, data read. -/
def odAccess (s : State) (len : Nat) : State × Nat × W64 :=
  let idx := field s.ctl.odsel 15 0
  let sub := field s.ctl.odsel 23 16
  let ofs := field s.ctl.odsel 55 24
  let write := bit s.ctl.odsel 63
  let data := leBytes len s.ctl.oddat.toNat
  if len = 0 ∨ 8 < len then (s, 0xC, 0)
  else
    match lookUp s idx sub with
    | .inr st => (s, st, 0)
    | .inl r =>
      let acc := if write then writeRight s r .m sub else if mayRead (rightNow s r .m) then 0 else 3
      if acc ≠ 0 then (s, acc, 0)
      else if isScalar r.ty then
        if ofs ≠ 0 ∨ len ≠ typeSize r.ty then (s, 4, 0)
        else if write then
          let (s, st) := dictWrite s .m idx sub data (knownIds s)
          (s, st, 0)
        else
          let (s, st, bs) := dictRead s .m idx sub
          (s, st, BitVec.ofNat 64 (ofLe bs))
      else if write then
        if typeSize r.ty < ofs + len then (s, 4, 0)
        else
          let (s, st) := odWriteBytes s idx sub (typeSize r.ty) ofs data
          (s, st, 0)
      else if idx = 0x5030 then
        if 48 < ofs + len then (s, 4, 0)
        else
          let (s, bs) := if ofs = 0 then newChallenge s else (s, (s.trust.challenge.getD []) ++ serialBytes)
          (s, 0, BitVec.ofNat 64 (numAt bs ofs len))
      else
        let s := meetRecords s idx
        let bs := bytesRead s .m idx sub (typeSize r.ty)
        let size := if r.ty = .str then bs.length else typeSize r.ty
        if size < ofs + len then (s, 4, 0) else (s, 0, BitVec.ofNat 64 (numAt bs ofs len))

/-- ODCMD: the access is started; its status stands in ODST with done set, its data in ODDAT. -/
def writeOdcmd (v : W64) (s : State) : State :=
  let write := bit s.ctl.odsel 63
  let (s, st, x) := odAccess s (field v 3 0)
  let s := countRequest s st
  s.onCtl fun c => { c with
    odst := BitVec.ofNat 64 (st + 256), oddat := if write ∨ st ≠ 0 then c.oddat else x }

/-! ### Writes -/

/-- What CTLW writes. -/
def ctlWrite (n : Nat) (v : W64) (s : State) : State :=
  if n = 0x107 then writeSwi v s
  else if n = 0x108 then s.onCtl fun c => { c with ptb := keepBits v 47 16 }
  else if n = 0x109 then writeTinv v s
  else if n = 0x10E then writeBcmp v s
  else if 0x100 ≤ n ∧ n < 0x10E then levelWrite s 1 (n - 0x100) v
  else if n = 0x207 then s.onCtl fun c => { c with iroute := keepBits v 15 0 }
  else if n = 0x20E then s.onCtl fun c => { c with escsp := v }
  else if n = 0x20F then writeWdt v s
  else if 0x200 ≤ n ∧ n < 0x20E then levelWrite s 3 (n - 0x200) v
  else if 0x300 ≤ n ∧ n < 0x304 then s.onSeq fun q => { q with lc := storeSet 0 q.lc (n - 0x300) (v.setWidth 32) }
  else if 0x304 ≤ n ∧ n < 0x308 then s.onSeq fun q => { q with le := storeSet 0 q.le (n - 0x304) (v.setWidth 22) }
  else if n = 0x400 then s.onCtl fun c => { c with tpsel := keepBits v 15 6 ||| keepBits v 2 0 }
  else if n = 0x401 then writeTpr0 v s
  else if n = 0x402 then if (selRec s).isSome then s.onCtl fun c => { c with tpr1 := keepBits v 51 0 } else s
  else if n = 0x403 then if (selRec s).isSome then s.onCtl fun c => { c with tpr2 := keepBits v 63 24 } else s
  else if 0x500 ≤ n ∧ n < 0x508 then s.onCtl fun c => { c with scdq := storeSet 0 c.scdq (n - 0x500) (v.setWidth 9) }
  else if n = 0x508 then writeScldq v s
  else if n = 0x510 then s.onCtl fun c => { c with scsel := keepBits v 19 16 ||| keepBits v 13 0 }
  else if n = 0x511 then writeScctl v s
  else if n = 0x512 then writeRing v s
  else if n = 0x513 then writeAcc v s
  else if 0x600 ≤ n ∧ n < 0x604 then s.onCtl fun c => { c with vb := storeSet 0 c.vb (n - 0x600) (keepBits v 51 0) }
  else if n = 0x610 then s.onCtl fun c => { c with rtkl := v }
  else if n = 0x611 then s.onCtl fun c => { c with rtkh := v }
  else if n = 0x612 then s.onCtl fun c => { c with rtsub := keepBits v 31 0 }
  else if n = 0x620 then s.onCtl fun c => { c with cpsel := keepBits v 7 0 }
  else if n = 0x621 then writeCpent v s
  else if n = 0x622 then s.onCtl fun c => { c with mssel := keepBits v 10 0 }
  else if n = 0x623 then writeMsop v s
  else if n = 0x700 then s.onCtl fun c => { c with stsel := keepBits v 7 0 }
  else if n = 0x711 then writeDcrep v s
  else if n = 0x800 then s.onCtl fun c => { c with dmerr := c.dmerr &&& ~~~v }
  else if n = 0x900 then s.onCtl fun c => { c with cqsel := keepBits v 9 0 }
  else if n = 0x901 then writeCqw0 v s
  else if 0x902 ≤ n ∧ n < 0x905 then s.onFab fun f => { f with stage := storeInsert (storeErase f.stage (n - 0x901)) (n - 0x901) v }
  else if n = 0x905 then s.onCtl fun c => { c with cqen := keepBits v 15 0 }
  else if n = 0xA00 then s.onCtl fun c => { c with clerr := c.clerr &&& ~~~v }
  else if n = 0xC00 then s.onCtl fun c => { c with pwq := keepBits v 3 0 }
  else if n = 0xD00 then s.onCtl fun c => { c with odsel := keepBits v 63 63 ||| keepBits v 55 0 }
  else if n = 0xD01 then s.onCtl fun c => { c with oddat := v }
  else if n = 0xD02 then writeOdcmd v s
  else if 0xD08 ≤ n ∧ n < 0xD10 then
    s.onCtl fun c => { c with odw := storeSet 0 c.odw (n - 0xD08) (keepBits v 63 63 ||| keepBits v 23 0) }
  else if n = 0xD10 then s.onCtl fun c => { c with odwhit := c.odwhit &&& ~~~v }
  else s

/-! ### CTLR and CTLW (03 R66) -/

/-- The record that a read of a register decodes: the selected slot or cue entry (13 R342). -/
def meetCtl (s : State) (n : Nat) : State :=
  if 0x511 ≤ n ∧ n < 0x514 then meetSlot s (selSlot s) else if 0x901 ≤ n ∧ n < 0x905 then meetCue s (selCue s) else s

/-- CTLR: 2 clk; reads of LC0 to LC3 take 1 (02 Table 2-7) (DEDUCED, log entry 77). -/
def doCtlr (d : BitVec 5) (imm : Imm) (s : State) : State :=
  let n := immZ imm
  let s := meetCtl s n
  putX (if 0x300 ≤ n ∧ n < 0x304 then 1 else 2) d (ctlRead s n) s

/-- CTLW. -/
def doCtlw (a : BitVec 5) (imm : Imm) (s : State) : State := ctlWrite (immZ imm) (getX s a.toNat) s

end Sys2Proof.Machine
end

