-- ==== Sys2Proof/Machine/Issue.lean ====
section
/-! DEFINITION. The issue of bundles: which operation an opcode names, the conditions at issue, the bundle, and one clk of the
stream (02 R33 to R58, 03 R72, R478, 10 R269). -/

namespace Sys2Proof.Machine

/-- An operation at its issue: its slot (0 SC to 7 CU), its issue-time condition, its effect, the effect that takes place once
the bundle has issued (a control-register write, 03 R66; HALT), whether it is XRET, the instruction address that a fault of
code 02h reports (03 Table 3-3), and the slices that it reaches. -/
structure OpSem where
  slot : Nat
  cond : State → Cond
  run : State → State
  late : State → State
  ret : Bool
  faddr : State → W64
  reach : State → List Nat

/-- An operation that no condition stops at issue. -/
def plain (slot : Nat) (run : State → State) : OpSem := ⟨slot, fun _ => none, run, id, false, fun _ => 0, fun _ => []⟩

/-- An operation whose conditions read its operands alone. -/
def opOn (slot : Nat) (c : Cond) (run : State → State) : OpSem := ⟨slot, fun _ => c, run, id, false, fun _ => 0, fun _ => []⟩

/-- An operation whose conditions read the state. -/
def opAt (slot : Nat) (c : State → Cond) (run : State → State) : OpSem := ⟨slot, c, run, id, false, fun _ => 0, fun _ => []⟩

/-- An operation over the slices of a group. -/
def opOver (slot : Nat) (gn : BitVec 3) (c : State → Cond) (run : State → State) : OpSem :=
  ⟨slot, c, run, id, false, fun _ => 0, fun s => members (groupMask s gn.toNat)⟩

/-- A write of control register n (03 R66): it takes effect for the next bundle. -/
def ctlOp (n : Nat) (v : State → W64) : OpSem := ⟨0, condCtl true n, id, fun s => ctlWrite n (v s) s, false, fun _ => 0, fun _ => []⟩

/-! ### Operations by family -/

def opVf2 (o : SvOps) (run : State → State) : OpSem := opOn 1 (condVf2 o) run
def opVe (fn : VeFn) (o : VeOps) : OpSem := opOver 3 o.gn (fun _ => condVe fn o) (doVe fn o)
def opVeMem (kind : Nat) (o : VeOps) : OpSem := opOver 3 o.gn (fun _ => condVeMem kind o) (doVeMem kind o)
def opBranch (brf : Bool) (xa : BitVec 5) (cc : BitVec 3) (xl : BitVec 5) (imm : BitVec 28) : OpSem :=
  let target := imm.toNat % 2 ^ 22
  ⟨0, condBranch brf cc target, doBranch brf xa cc xl target, id, false, fun _ => BitVec.ofNat 64 target, fun _ => []⟩
def opBrIndirect (xa : BitVec 5) (cc : BitVec 3) (xl : BitVec 5) : OpSem :=
  let target := fun s => (getX s xa.toNat).toNat % 2 ^ 22
  ⟨0, fun s => condBranch false cc (target s) s, fun s => doBranch false xa cc xl (target s) s, id, false,
    fun s => BitVec.ofNat 64 (target s), fun _ => []⟩
def opLoop (xc : BitVec 5) (ci : BitVec 9) (imm : BitVec 28) : OpSem :=
  let e := imm.toNat % 2 ^ 22
  ⟨0, condLoop e, doLoop xc ci e, id, false, fun _ => BitVec.ofNat 64 e, fun _ => []⟩
def opXret : OpSem := ⟨0, condXret, id, id, true, fun _ => 0, fun _ => []⟩
def opHalt : OpSem := ⟨0, condM, id, doHalt, false, fun _ => 0, fun _ => []⟩
def opCtlr (d : BitVec 5) (imm : Imm) : OpSem := opAt 0 (condCtl false (immZ imm)) (doCtlr d imm)
def opCtlw (a : BitVec 5) (imm : Imm) : OpSem := ctlOp (immZ imm) fun s => getX s a.toNat
def opDma (xd : BitVec 5) (gn : BitVec 3) (tag : BitVec 6) : OpSem :=
  plain 5 fun s => dmaIssue s (getX s xd.toNat) (groupMask s gn.toNat) tag s.seq.pl s.seq.spr
def opColl (xd : BitVec 5) (tag : BitVec 6) : OpSem := plain 6 fun s => collIssue s (getX s xd.toNat) tag

/-! ### The operation that an opcode names (02 Tables 2-3 and 2-4) -/

/-- Bits hi to lo of a syllable as a field of w bits. -/
def opField (w x hi lo : Nat) : BitVec w := BitVec.ofNat w (cut x hi lo)

/-- SC operations (04 Table 4-2, 02 R40 to R47, 03 R66). -/
def scOp (b : BOp) : Option OpSem :=
  let d := opField 5 b.p1 13 9
  let a := opField 5 b.p1 8 4
  let q := opField 4 b.p1 3 0
  let c := opField 5 b.p2 13 9
  let fn := opField 9 b.p2 8 0
  let br := b.imm.bits.setWidth 28
  match b.maj with
  | 0 => [opAt 0 condM doPmsync, opXret, opHalt][b.min]?
  | 1 | 4 =>
    ([doAddi, doAndi, doOri, doXori, doSlli, doSrli, doSrai, doSlti][b.min]?).map fun f => plain 0 (f d a q b.imm)
  | 2 => [plain 0 (doLdx d a q b.imm), opOn 0 (condFpSize q) (doLdf d a q b.imm)][b.min]?
  | 3 =>
    if b.min = 0x80 then some (opCtlr d b.imm)
    else if b.min = 0x81 then some (opCtlw a b.imm)
    else [plain 0 (doStx d a q b.imm), opOn 0 (condFpSize q) (doStf d a q b.imm)][b.min]?
  | 5 =>
    [plain 0 (doLdx d a q b.imm), opOn 0 (condFpSize q) (doLdf d a q b.imm), plain 0 (doStx d a q b.imm),
      opOn 0 (condFpSize q) (doStf d a q b.imm)][b.min]?
  | 6 => [plain 0 (doConx d q b.imm), plain 0 (doConf d q b.imm)][b.min]?
  | 8 =>
    ([doAdd, doSub, doAnd, doOr, doXor, doSll, doSrl, doSra, doSlt, doSltu, doMul, doMulh, doMulhu, doDiv, doDivu, doRem,
      doRemu][b.min]?).map fun f => plain 0 (f d a c)
  | 9 => [plain 0 (doMovxf d a), plain 0 (doMovfx d a)][b.min]?
  | 0xA =>
    [plain 0 (doFadd d a c fn), plain 0 (doFsub d a c fn), plain 0 (doFmul d a c fn), plain 0 (doFma d a c fn),
      plain 0 (doFdiv d a c fn), plain 0 (doFsqrt d a fn), plain 0 (doFmin d a c fn), plain 0 (doFmax d a c fn),
      plain 0 (doFeq d a c fn), plain 0 (doFlt d a c fn), plain 0 (doFle d a c fn), opOn 0 (condFcvt fn) (doFcvt d a fn)][b.min]?
  | 0x10 => if b.min < 2 then some (opBranch (decide (b.min = 1)) d (opField 3 b.p1 8 6) (opField 5 b.p1 5 1) br) else none
  | 0x11 => if b.min = 0 then some (opBrIndirect d (opField 3 b.p1 8 6) (opField 5 b.p1 5 1)) else none
  | 0x12 => if b.min = 0 then some (opLoop d (opField 9 b.p1 8 0) br) else none
  | 0x13 =>
    let ch := opField 2 b.p1 8 7
    let gn := opField 3 b.p1 6 4
    let pl := opField 2 b.p1 3 2
    [opAt 0 condMode (doModew d), opOn 0 (condGms ch) (doGms d ch gn), opAt 0 condMode (doGmc gn),
      opAt 0 (condPdrop pl) (doPdrop pl), plain 0 (doModer d)][b.min]?
  | _ => none

/-- SV operations (04 Table 4-3). -/
def svOp (b : BOp) : Option OpSem :=
  let o : SvOps :=
    { vd := opField 5 b.p1 13 9, va := opField 5 b.p1 8 4, qf := cut b.p1 3 3 == 1, es := opField 3 b.p1 2 0,
      vb := opField 5 b.p2 13 9, vc := opField 5 b.p2 8 4, fn := opField 4 b.p2 3 0 }
  let m : SvMem := { vd := o.vd, xa := o.va, qf := o.qf, es := o.es, imm := firstSyllable b.imm }
  match b.maj with
  | 0 =>
    if b.min = 0xB then some (opOn 1 (condV3 o) (doVsel o))
    else ([doVadd, doVsub, doVand, doVor, doVxor, doVshl, doVshr, doVmin, doVmax, doVceq, doVcgt][b.min]?).map fun f =>
      opOn 1 (condV2 o) (f o)
  | 1 =>
    if b.min = 3 then some (opOn 1 (condVf3 o) (doVfma o))
    else ([doVfadd, doVfsub, doVfmul, doVfma, doVfmin, doVfmax, doVfceq, doVfclt][b.min]?).map fun f => opVf2 o (f o)
  | 2 => if b.min = 0 then some (opOn 1 (condVwmul o) (doVwmul o)) else none
  | 3 => if b.min = 0 then some (opOn 1 (condVdot o) (doVdot o)) else none
  | 4 => if b.min = 0 then some (opOn 1 (condVdup o) (doVdup o)) else none
  | 0x10 => ([doVld, doVst, doVlds, doVsts, doVldr][b.min]?).map fun f => opOn 1 (condVmem m) (f m)
  | _ => none

/-- Conditions of TMMD: none of its own in native form; in compact form it has no meaning (02 R52). -/
def condTmmd (compact : Bool) (o : TeProd) (s : State) : Cond := if compact then some (1, 0xB) else condProd true o s

/-- TE operations (05 Table 5-1, 06 Table 6-2, 09 R220). -/
def teOp (compact : Bool) (b : BOp) : Option OpSem :=
  let m : TeMove :=
    { t := opField 3 b.p1 13 11, gn := opField 3 b.p1 10 8, xa := opField 5 b.p1 7 3, tr := cut b.p1 2 2 == 1,
      cv := cut b.p1 1 1 == 1, fmt := opField 4 b.p2 13 10, slot := firstSyllable b.imm }
  let p : TeProd :=
    { ad := opField 3 b.p1 13 11, ta := opField 3 b.p1 10 8, tb := opField 3 b.p1 7 5, gn := opField 3 b.p1 4 2,
      orr := opField 2 b.p1 1 0, acc := cut b.p2 13 13 == 1, gs := opField 2 b.p2 12 11, mvf := cut b.p2 10 10 == 1 }
  match b.maj with
  | 0 =>
    [opOver 2 m.gn (condTcfg m) (doTcfg m), opOver 2 m.gn (condMove 0 m) (doMove 0 m), opOver 2 m.gn (condMove 1 m) (doMove 1 m),
      opOver 2 m.gn (condMove 2 m) (doMove 2 m)][b.min]?
  | 0x10 =>
    [opOver 2 p.gn (condProd false p) (doProd p none),
      opOver 2 p.gn (condTmmd compact p) (doProd p (some (cut b.p2 9 4, cut b.p2 3 1)))][b.min]?
  | _ => none

/-- VE operations (08 Table 8-1, R187 to R189, Table 8-4). -/
def veOp (b : BOp) : Option OpSem :=
  let o : VeOps :=
    { ld := opField 4 b.p1 13 10, la := opField 4 b.p1 9 6, lb := opField 4 b.p1 5 2, src := opField 2 b.p1 1 0,
      gn := opField 3 b.p2 13 11, sat := cut b.p2 10 10 == 1, imi := opField 2 b.p2 9 8, arb := opField 6 b.p2 7 2,
      imm := if 0x20 ≤ b.maj ∧ b.maj ≤ 0x37 then some b.imm else none }
  if b.maj ≤ 8 then (microFn b.maj b.min).map fun fn => opVe fn o
  else if b.maj = 0x3F then some (opOver 3 o.gn (condCoproc (BitVec.ofNat 8 b.min) o) (doCoproc (BitVec.ofNat 8 b.min) o))
  else if b.maj = 0x25 then (if b.min = 2 then some (opVeMem 3 o) else if b.min = 3 then some (opVeMem 4 o) else none)
  else if b.maj = 0x2D then (if b.min < 3 then some (opVeMem b.min o) else none)
  else if b.maj = 0x26 then [opVe .feval o, opVe .fdrv o, opOver 3 o.gn (condFtld o) (doVe .ftld o)][b.min]?
  else if b.maj = 0x2F then [opVe .rdrop o, opVe .rmask o][b.min]?
  else if 0x20 ≤ b.maj ∧ b.maj ≤ 0x37 ∧ b.maj % 8 ≤ 4 then (microFn (b.maj % 8) b.min).map fun fn => opVe fn o
  else none

/-- MV, DM, CL and CU operations. -/
def sideOp (b : BOp) : Option OpSem :=
  let x := opField 5 b.p1 13 9
  let gn := opField 3 b.p1 8 6
  let tag := opField 6 b.p1 5 0
  match b.slot, b.maj with
  | 4, 0 =>
    let o : MvOps :=
      { ad := opField 3 b.p1 13 11, gn := opField 3 b.p1 10 8, xa := opField 5 b.p1 7 3, lv := opField 4 b.p2 13 10,
        acc := cut b.p2 9 9 == 1 }
    if b.min = 0 then some (opOver 4 o.gn (condMvm o) (doMvm o)) else none
  | 5, 0 => [opDma x gn tag, plain 5 (doDmw gn tag)][b.min]?
  | 6, 0 => [opColl x tag, plain 6 (doClw tag)][b.min]?
  | 7, 0 => [plain 7 (doRbeat x), plain 7 (doRang x), plain 7 (doWbeat x)][b.min]?
  | 7, 1 => if b.min = 0 then some (plain 7 (doMark (b.imm.bits.setWidth 28))) else none
  | _, _ => none

/-- The operation of one slot of a bundle, or none where its MIN is undefined (02 R34, R35). -/
def opOf (compact : Bool) (b : BOp) : Option OpSem :=
  match b.slot with
  | 0 => scOp b
  | 1 => svOp b
  | 2 => teOp compact b
  | 3 => veOp b
  | _ => sideOp b

/-! ### Issue-time faults (02 R36, 03 R478) -/

/-- An issue-time fault of the bundle at an address. -/
def issueEvent (s : State) (code sub slot : Nat) (bnd : Bool) (faddr : W64) : Event :=
  { code := code, sub := sub, faddr := faddr, slot := slot, bnd := bnd, slice := 0, deferred := false, opa := s.seq.pc,
    origin := s.seq.pl, replay := none, op := 0, clk := s.cnt.clk }

/-- The issue-time fault of an operation in its slot. -/
def opEvent (s : State) (op : OpSem) (c : Nat × Nat) : Event :=
  issueEvent s c.1 c.2 op.slot false (if c.1 = 2 then op.faddr s else 0)

/-- The condition of one slot. -/
def slotCond (s : State) (b : BOp) : Option Event :=
  match opOf s.seq.compact b with
  | none => some (issueEvent s 1 5 b.slot false 0)
  | some op => (op.cond s).map (opEvent s op)

/-- What the next bundle is: an issue-time fault, or its operations. -/
def nextBundle (s : State) : Event ⊕ List BOp :=
  match parse s with
  | .cond code sub slot bnd =>
    let fa := if code = 2 ∨ code = 3 ∨ code = 7 then s.seq.pc.setWidth 64 else 0
    .inl (issueEvent s code sub slot bnd fa)
  | .ops l _ =>
    match l.findSome? (slotCond s) with
    | some e => .inl e
    | none => .inr l

/-! ### The issue of one bundle -/

/-- Run the operations of a bundle in slot order; each takes an issue number, and the pc stays the bundle's own. A LOOP that
skips its body decides the next address. -/
def runOps (addr : IAddr) (ops : List OpSem) (s : State) : State × Option (IAddr × Bool) :=
  ops.foldl (fun acc op =>
    let t := nextOp (op.run (pealViolated acc.1 (op.reach acc.1)))
    if t.seq.pc = addr then (t, acc.2)
    else (t.onSeq fun q => { q with pc := addr, past := false }, some (t.seq.pc, t.seq.past))) (s, none)

/-- The next address after the bundle at an address: a delay slot's successor or the branch's target, the loop-back test, or the
bundle that follows (02 R43, R47, R48). `had` is the branch that stood before this bundle. A LOOP of count zero goes on past its body,
and makes no loop-back test of an outer loop that its own bundle ends (DESIGN CHOICE, log entry 100). -/
def advancePc (addr : IAddr) (after : Nat) (skip : Option (IAddr × Bool)) (had : Option Branch) (s : State) : State :=
  let onward := fun s : State => s.onSeq fun q => { q with pc := BitVec.ofNat 22 after, past := decide (2 ^ 22 ≤ after) }
  match had with
  | some b =>
    if b.slot < 2 then (onward s).onSeq fun q => { q with branch := some { b with slot := 2 } }
    else
      let s := s.onSeq fun q => { q with branch := none }
      if b.taken then s.onSeq fun q => { q with pc := b.target, past := false } else onward s
  | none =>
    match skip with
    | some (a, past) => s.onSeq fun q => { q with pc := a, past := past }
    | none =>
      let r := loopBack 4 addr s.seq
      match r.2 with
      | some a => { s with seq := { r.1 with pc := a, past := false } }
      | none => onward { s with seq := r.1 }

/-- A bundle has issued under a pending mode change: the change takes effect after the last bundle of its shadow (02 R45). -/
def stepChange (had : Bool) (s : State) : State :=
  match s.seq.change with
  | some c =>
    if !had then s
    else if c.left ≤ 1 then applyChange s c
    else s.onSeq fun q => { q with change := some { c with left := c.left - 1 } }
  | none => s

/-- A bundle has issued: each PMSYNC that stood before it comes one nearer to its discard of the fetched lines (02 R30). -/
def stepPmsync (had : Nat) (s : State) : State :=
  let old := s.seq.pmsync.take had
  let left := (old.filter fun n => decide (1 < n)).map fun n => n - 1
  s.onSeq fun q => { q with
    pmsync := left ++ q.pmsync.drop had, lines := if old.any fun n => decide (n ≤ 1) then [] else q.lines }

/-- The issue trace of a debugger (16 R427). -/
def noteIssue (addr : IAddr) (s : State) : State :=
  (s.onTrust fun t => { t with trace := takeLast 4096 (t.trace ++ [addr]) }).onCnt fun c => { c with bundlesInBeat := c.bundlesInBeat + 1 }

/-- The issue of a bundle whose operations meet no condition. -/
def issueBundle (l : List BOp) (s : State) : State :=
  let addr := s.seq.pc
  let after := afterBundle s addr.toNat
  let hadBranch := s.seq.branch
  let hadChange := s.seq.change.isSome
  let hadSync := s.seq.pmsync.length
  let level := s.seq.pl
  let ops := l.filterMap (opOf s.seq.compact)
  let s := if l.isEmpty then objAdd s 0x7200 0xA 1 else s
  let r := runOps addr ops s
  let s := advancePc addr after r.2 hadBranch r.1
  let s := ops.foldl (fun s op => op.late s) s
  let s := stepPmsync hadSync (stepChange hadChange s)
  let s := if ops.any fun op => op.ret then returnFrom (s.onSeq fun q => { q with pl := level }) addr else s
  noteIssue addr s

/-- Whether a bundle's DM or CL operation finds its issue queue full, and the cause of the hold (02 R53, 10 R269)
(DEDUCED, log entry 30). -/
def queueHold (l : List BOp) (s : State) : Option Nat :=
  if l.any (fun b => decide (b.slot = 5 ∧ b.min = 0)) && dmaFull s then
    match s.dma.queue.head? with
    | some x => some (xferCause s (fun h => decide (h.x.op = x.op)) fun c => decide (c.op = x.op))
    | none => some 2
  else if l.any (fun b => decide (b.slot = 6 ∧ b.min = 0)) && collFull s then
    match s.coll.queue.head? with
    | some q => some (clwCause s q.2.1)
    | none => some 0xB
  else none

/-- A clk of a hold, counted under one cause of 10 Table 10-8. -/
def heldClk (s : State) (cause : Nat) : State := tick (objAdd s 0x7200 cause 1)

/-- Whether a bundle holds a MARK to angle 0. -/
def marksZero (l : List BOp) : Bool :=
  l.any fun b => decide (b.slot = 7 ∧ b.maj = 1 ∧ b.imm.bits.toNat % 65536 = 0)

/-- The event of a boundary other than an issue-time fault (03 R72): a deferred fault, else an interrupt. -/
def takeEvent (s : State) : Option State :=
  match dueDeferred s with
  | some d => some (takeDeferred s d)
  | none =>
    match dueInterrupt s with
    | some k => some (takeInterrupt s k (intLevel s k))
    | none => none

/-- The next bundle with no event before it: a pending stop, an issue-time fault, a full queue, or its issue. -/
def issueNext (s : State) : State :=
  let s := refill s
  match nextBundle s with
  | .inl e => takeFault s e
  | .inr l =>
    if marksZero l && s.cnt.stopAtMark then tick (stopStream s)
    else
      match queueHold l s with
      | some c => heldClk s c
      | none => tick (guardReset s (issueBundle l s))

/-- A boundary at which issue is not held: the first event of 03 R72, else the next bundle. -/
def atBoundary (s : State) : State :=
  match takeEvent s with
  | some t => t
  | none => issueNext s

/-- The hold of a wait: the watchdog's fault ends it (03 R480), else the clk is counted (DEDUCED, log entry 30). -/
def holdWait (s : State) (w : Wait) : State :=
  match s.seq.deferred.find? fun d => decide (d.code = 9 ∧ d.clk < s.cnt.clk) with
  | some d => takeDeferred s d
  | none => heldClk s (waitCause s w)

/-- One clk of the stream that is not withheld (02 R53). -/
def streamClk (s : State) : State :=
  let s := scanNow (if s.seq.running then meetControl s else s)
  if !s.seq.running || s.trust.halted || decide (s.cnt.clk < s.seq.issueFrom) then tick s
  else if s.cnt.clk < s.seq.holdTo then heldClk s 0xA
  else if !s.seq.awaiting.isEmpty then heldClk s 0xB
  else
    let left := s.seq.wait.filter fun w => waitHolds s w
    let s := s.onSeq fun q => { q with wait := left }
    match left with
    | w :: _ => holdWait s w
    | [] => atBoundary s

/-- BUNDLE_ISSUE: one clk of the sequencer (DESIGN CHOICE, log entry 1). -/
def issueClk (s : State) : State := if withheld s then withheldClk s else streamClk s

/-- The issue of one operation by itself, in the current clk: it takes an issue number, and the pc and the clk stay. Where its
issue-time condition holds, a running stream takes the fault, and a stopped one does nothing (DESIGN CHOICE, log entry 26). Withheld clk pass
first, and at mute 16 nothing issues (15 R400). -/
def issueOne (op : OpSem) (s : State) : State :=
  let s := passWithheld 16 s
  if withheld s then s else
  match op.cond s with
  | some c => if s.seq.running then takeFault s (opEvent s op c) else s
  | none =>
    let t := op.late (nextOp (op.run (pealViolated s (op.reach s))))
    guardReset s (if op.ret then returnFrom t s.seq.pc else t)

/-! ### The commands of fault and interrupt entry -/

/-- FAULT_ENTRY: the boundary's event where it is a fault. -/
def faultEntryNow (s : State) : State :=
  let s := passWithheld 16 s
  if !s.seq.running || withheld s then s
  else
    match dueDeferred s with
    | some d => takeDeferred s d
    | none =>
      match dueInterrupt s with
      | some _ => s
      | none =>
        let t := refill s
        match nextBundle t with
        | .inl e => takeFault t e
        | .inr _ => s

/-- INTERRUPT_ENTRY: the boundary's event where it is an interrupt. -/
def interruptEntryNow (s : State) : State :=
  let s := passWithheld 16 s
  if !s.seq.running || withheld s || (dueDeferred s).isSome then s
  else
    match dueInterrupt s with
    | some k => takeInterrupt s k (intLevel s k)
    | none => s

end Sys2Proof.Machine
end

