-- ==== Sys2Proof/Machine/CtlCmds.lean ====
section
/-! DEFINITION. The control-register writes with a behaviour of their own (03 R66 and the rule each cites). -/

namespace Sys2Proof.Machine
open Sys2Proof

/-- SX_SWI_WRITE (03 R70): register 0107h. -/
def execSxSwiWrite (v : W64) (s : State) : Host.Outcome State Fault Refusal := .next (issueOne (ctlOp 0x107 fun _ => v) s)

/-- SX_TINV_WRITE (03 R97): register 0109h. -/
def execSxTinvWrite (v : W64) (s : State) : Host.Outcome State Fault Refusal := .next (issueOne (ctlOp 0x109 fun _ => v) s)

/-- SX_BCMP_WRITE (03 R70): register 010Eh. -/
def execSxBcmpWrite (v : W64) (s : State) : Host.Outcome State Fault Refusal := .next (issueOne (ctlOp 0x10E fun _ => v) s)

/-- MX_WDT_WRITE (03 R480): register 020Fh. -/
def execMxWdtWrite (v : W64) (s : State) : Host.Outcome State Fault Refusal := .next (issueOne (ctlOp 0x20F fun _ => v) s)

/-- TPR0_WRITE (05 R134): register 0401h. -/
def execTpr0Write (v : W64) (s : State) : Host.Outcome State Fault Refusal := .next (issueOne (ctlOp 0x401 fun _ => v) s)

/-- SCCTL_WRITE (07 R170): register 0511h. -/
def execScctlWrite (v : W64) (s : State) : Host.Outcome State Fault Refusal := .next (issueOne (ctlOp 0x511 fun _ => v) s)

/-- SCLDQ_WRITE (07 R172): register 0508h. -/
def execScldqWrite (v : W64) (s : State) : Host.Outcome State Fault Refusal := .next (issueOne (ctlOp 0x508 fun _ => v) s)

/-- CPENT_WRITE (08 R206): register 0621h. -/
def execCpentWrite (v : W64) (s : State) : Host.Outcome State Fault Refusal := .next (issueOne (ctlOp 0x621 fun _ => v) s)

/-- MSOP_WRITE (08 R207): register 0623h. -/
def execMsopWrite (v : W64) (s : State) : Host.Outcome State Fault Refusal := .next (issueOne (ctlOp 0x623 fun _ => v) s)

/-- CQW0_WRITE (11 R303): register 0901h. -/
def execCqw0Write (v : W64) (s : State) : Host.Outcome State Fault Refusal := .next (issueOne (ctlOp 0x901 fun _ => v) s)

/-- DCREP_WRITE (09 R226): register 0711h. -/
def execDcrepWrite (v : W64) (s : State) : Host.Outcome State Fault Refusal := .next (issueOne (ctlOp 0x711 fun _ => v) s)

/-- ODCMD_WRITE (17 R454): register 0D02h. -/
def execOdcmdWrite (v : W64) (s : State) : Host.Outcome State Fault Refusal := .next (issueOne (ctlOp 0xD02 fun _ => v) s)

end Sys2Proof.Machine
end

