-- ==== Sys2Proof/Machine/Contacts.lean ====
section
/-! DEFINITION. The connector: the contact map, the fibers of the shroud, the straps, and how each contact group stands in each state of the
board (18 R461 to R467, R475). -/

namespace Sys2Proof.Machine

/-! ### The contact map (18 R461, R462, Table 18-1) -/

/-- What a contact carries: its series and number, or its place in the list of its region (Tables 18-2, 18-3, 18-1). -/
inductive Contact where
  | p48v (n : Nat)
  | ground (n : Nat)
  | reserved (n : Nat)
  | camm2 (site channel k : Nat)
  | management (k : Nat)
  | pcie (k : Nat)
deriving DecidableEq, Repr

/-- The ground contacts of the columns before a column. -/
def groundBefore (col : Nat) : Nat :=
  12 * min 4 (col - 1) + 30 * (min 56 (col - 1) - 4) + 60 * (col - 1 - 56)

/-- The contact of index i among the odd positions of a checkerboard region. -/
def regionContact (col i : Nat) : Contact :=
  if col ≤ 44 then
    let site := (col - 5) / 10
    if i < 296 then .camm2 site (i / 37) (i % 37) else .reserved (4 * site + (i - 296) + 1)
  else if col ≤ 48 then (if i < 53 then .management i else .reserved (16 + (i - 53) + 1))
  else if i < 52 then .pcie i else .reserved (83 + (i - 52) + 1)

/-- The first column of a column's region. -/
def regionStart (col : Nat) : Nat := if col ≤ 44 then 5 + (col - 5) / 10 * 10 else if col ≤ 48 then 45 else 49

/-- The contact at (column, row) of the grid of 80 columns and 60 rows. -/
def contactAt (col row : Nat) : Option Contact :=
  if col = 0 ∨ 80 < col ∨ row = 0 ∨ 60 < row then none
  else if col ≤ 4 then some (if row ≤ 12 then .ground (groundBefore col + row) else .p48v (48 * (col - 1) + (row - 12)))
  else if 57 ≤ col then some (.ground (groundBefore col + row))
  else if (col + row) % 2 = 0 then some (.ground (groundBefore col + (row - 1) / 2 + 1))
  else some (regionContact col (30 * (col - regionStart col) + (row - 1) / 2))

/-! ### Fibers (18 R475) -/

/-- What a fiber of the shroud carries. -/
inductive Fiber where
  | transmit (port lane : Nat)
  | receive (port lane : Nat)
  | feed (laser : Nat)
  | unused
deriving DecidableEq, Repr

/-- The fiber at a position, 1 to 12, of a ferrule, 0 to 27. -/
def fiberAt (ferrule pos : Nat) : Option Fiber :=
  if pos = 0 ∨ 12 < pos ∨ 28 ≤ ferrule then none
  else if ferrule < 24 then
    (let port := ferrule / 3
     let first := 6 * (ferrule % 3)
     some (if pos ≤ 6 then .transmit port (first + pos - 1) else .receive port (first + (13 - pos) - 1)))
  else some (if pos ≤ 4 then .feed (ferrule - 24) else .unused)

/-! ### Straps (18 R464) -/

/-- The static 7-bit address of the management I3C, from the straps as sampled. -/
def i3cAddress (s : State) : Nat := 0x60 + 2 * b2n (s.board.straps.getLsbD 2) + b2n (s.board.straps.getLsbD 1)

/-! ### Contact groups by state (18 R465, R467, Table 18-4) -/

/-- The level of an output. -/
inductive PinLevel where
  | highZ | low | high
deriving DecidableEq, Repr

/-- The outputs of Table 18-3. -/
inductive OutPin where
  | stwRdy
  | thermtripN
  | elsEn (k : Nat)
  | flPwren
  | flPerstN
  | lpPwren (site : Nat)
  | lpResetN (site : Nat)
deriving DecidableEq, Repr

/-- Whether the flash port has its supply: enabled, with PCI on. -/
def flashPowered (s : State) : Bool := decide (objGet s 0x2100 8 = 1) && domOn s 29

/-- Whether a CAMM2 site has its supply: LP on and the site accepted; a refused module is left unpowered (17 R457). -/
def sitePowered (s : State) (site : Nat) : Bool := domOn s 24 && decide (objGet s 0x2202 (5 + site) = 1)

/-- Whether the part of an output is on. A reset output is released with its supply. -/
def partOn (s : State) (p : OutPin) : Bool :=
  match p with
  | .stwRdy => s.board.stwRdy
  | .thermtripN => false
  | .elsEn k => domOn s (25 + k)
  | .flPwren | .flPerstN => flashPowered s
  | .lpPwren site | .lpResetN site => sitePowered s site

/-- Whether the module is in reset: AON is powered and internal reset is held or RESET_N is low. -/
def heldInReset (s : State) : Bool := s.board.inReset || s.board.resetLow

/-- The level of an output: unpowered, it is high impedance; THERMTRIP_N, an open drain, shows its latch; in reset the others are low. -/
def pinLevel (s : State) (p : OutPin) : PinLevel :=
  if !s.board.aon then .highZ
  else if p = .thermtripN then (if s.power.thermtrip then .low else .highZ)
  else if heldInReset s then .low
  else if partOn s p then .high
  else .low

/-- How a group of lanes or signals stands: without load, in electrical idle, or in use. -/
inductive GroupState where
  | highZ | idle | used
deriving DecidableEq, Repr

/-- The PE lanes. -/
def peLanes (s : State) : GroupState :=
  if !s.board.aon then .highZ else if !(heldInReset s) && domOn s 29 then .used else .idle

/-- The FL lanes: a root port while FL_PWREN is high. -/
def flLanes (s : State) : GroupState :=
  if !s.board.aon then .highZ else if pinLevel s .flPwren = .high then .used else .idle

/-- The signals of a CAMM2 site: driven while LP is on and the site is not refused. -/
def siteSignals (s : State) (site : Nat) : GroupState :=
  if s.board.aon && !(heldInReset s) && sitePowered s site then .used else .highZ

/-- Whether the I3C, LB and SPD buses are answered: by the steward, or by the ROM in recovery. -/
def busAnswered (s : State) : Bool :=
  s.board.aon && !(heldInReset s) && (decide (s.trust.boot = 3) || decide (s.trust.boot = 4))

end Sys2Proof.Machine
end

