-- ==== Sys2Proof/Machine/Debug.lean ====
section
/-! DEFINITION. The JTAG port and the debug access, halt and single step; the MCTP and DOE discovery commands (16 R426, R427, R430;
17 R434, R449). -/

namespace Sys2Proof.Machine

/-! ### The standard instructions (16 R426, Table 16-7) -/

/-- Whether the whole IEEE 1149.1 set is reached: in the manufacturing and the decommissioned states. -/
def fullJtag (s : State) : Bool :=
  (decide (s.trust.security = 0) && decide (s.trust.boot ≠ 4)) || decide (s.trust.security = 4)

/-- The instruction register holds an instruction; one that is not reached behaves as BYPASS. -/
def setJtag (s : State) (k : Nat) : State := s.onTrust fun t => { t with jtag := k }

/-- What the port shifts out. -/
def shiftOut (s : State) (bs : List Byte) : State := s.emit (.bytes 0x600 bs)

def jtagBypass (s : State) : State := setJtag s 1
def jtagIdcode (s : State) : State := shiftOut (setJtag s 0) (leBytes 4 Config.idcode.toNat)
def jtagSample (s : State) : State := setJtag s (if fullJtag s then 2 else 1)
def jtagExtest (s : State) : State := setJtag s (if fullJtag s && s.board.resetLow then 3 else 1)

/-! ### Debug access (16 R427) -/

/-- Whether invasive debug reaches the steward itself: in D0, in the manufacturing and development states (Table 16-7). -/
def stewardReached (s : State) : Bool :=
  decide (s.trust.level = 2) && decide (s.trust.security ≤ 1) && decide (s.trust.boot ≠ 4) && decide (s.power.state = 0)

/-- Whether the level in force reaches a target for a read (DEDUCED, log entry 89). -/
def debugReads (s : State) (t : DebugTarget) : Bool :=
  match t with
  | .pc | .mode | .toll _ | .ledger _ | .trace _ => decide (1 ≤ s.trust.level)
  | .ctl n => decide (s.trust.level = 2) || (decide (s.trust.level = 1) && decide (n ≠ 0x610) && decide (n ≠ 0x611))
  | .object idx _ => decide (1 ≤ s.trust.level) && decide (0x7000 ≤ idx.toNat) && decide (idx.toNat < 0x8000)
  | .steward _ => stewardReached s
  | _ => decide (s.trust.level = 2)

/-- The power domain that a target lies in (15 Table 15-1). -/
def debugDomain (t : DebugTarget) : Option Nat :=
  match t with
  | .pc | .mode | .ctl _ | .trace _ | .xreg _ | .freg _ => some 6
  | .lreg sl _ _ | .bank sl _ _ | .frag sl _ _ => some (8 + sl / 20)
  | _ => none

/-- Whether a target's domain is on. -/
def debugOn (s : State) (t : DebugTarget) : Bool :=
  match t with
  | .mem a => hasTarget s a.toNat && memoryOn s a.toNat
  | t => (match debugDomain t with
    | some d => domOn s d
    | none => true)

/-- The bytes that a target reads as. -/
def debugRead (s : State) (t : DebugTarget) : State × List Byte :=
  match t with
  | .pc => (s, leBytes 8 s.seq.pc.toNat)
  | .mode => (s, leBytes 8 (modeWord s).toNat)
  | .ctl n =>
    let s := meetCtl s n.toNat
    (s, leBytes 8 (ctlRead s n.toNat).toNat)
  | .object idx sub => (s, leBytes 8 ((derived s idx.toNat sub.toNat).getD (objGet s idx.toNat sub.toNat)))
  | .toll k => (s, leBytes 64 (tollWord (s.rel.ring.getD k blankToll)))
  | .ledger k => (s, match s.rel.ledger[k]? with
    | some e => ledgerRecord e
    | none => leBytes 32 0)
  | .trace k => (s, leBytes 8 (s.trust.trace.getD k 0).toNat)
  | .xreg r => (s, leBytes 8 (getX s r.toNat).toNat)
  | .freg r => (s, leBytes 8 (getF s r.toNat).toNat)
  | .mem a =>
    let r := readBytes (stewardMeets s (wordsOf a.toNat 8)) a.toNat 8
    (r.1, r.2.1)
  | .lreg sl r l =>
    let w := laneIdx sl r.toNat l.toNat / 4
    let s := meetLane (stewardWord s (storeGet .good s.elem.lMark w) 1 (physSlice s sl)) w
    (s, leBytes 4 (laneGet s sl r.toNat l.toNat).toNat)
  | .bank sl a i =>
    let w := bankIdx sl a.toNat i.toNat / 4
    let s := meetBank (stewardWord s (storeGet .good s.tiles.bankMark w) 1 (physSlice s sl)) w
    (s, leBytes 4 (bankGet s (bankIdx sl a.toNat i.toNat)).toNat)
  | .frag sl t i =>
    let n := (sl * 8 + t.toNat) * 32768 + i.toNat
    let s := meetFrag (stewardWord s (storeGet .good s.tiles.fragMark (n / 16)) 1 (physSlice s sl)) (n / 16)
    (s, [storeGet 0 s.tiles.frag n])
  | .steward _ =>
    let (v, s) := freshFree s
    (s, leBytes 8 v.toNat)

/-- MODE written by a debugger: its writable fields (02 Table 2-6); IF and PL are read-only. -/
def debugMode (s : State) (v : W64) : State :=
  s.onSeq fun q => { q with
    fa := BitVec.ofNat 4 (field v 15 12), fw := BitVec.ofNat 4 (field v 11 8),
    spr := if 2 ≤ field v 7 6 then q.spr else BitVec.ofNat 2 (field v 7 6) }

/-- A write of a control register by a debugger, as at M level. -/
def debugCtl (s : State) (n : Nat) (v : W64) : State :=
  let pl := s.seq.pl
  (ctlWrite n v (s.onSeq fun q => { q with pl := 3 })).onSeq fun q => { q with pl := pl }

/-- Whether an address lies in the program-memory window. -/
def inProgram (a : Nat) : Bool := decide (programBase ≤ a) && decide (a < programBase + 0x800000)

/-- A write at the invasive level. Program memory is not written: only a DMA transfer at M level and the steward write it (02 R27). -/
def debugWrite (s : State) (t : DebugTarget) (v : W64) : State :=
  match t with
  | .pc => s.onSeq fun q => { q with pc := v.setWidth 22, past := false }
  | .mode => debugMode s v
  | .ctl n => if condCtl true n.toNat (s.onSeq fun q => { q with pl := 3 }) = none then debugCtl s n.toNat v else s
  | .object idx sub => objSet s idx.toNat sub.toNat v.toNat
  | .xreg r => setX s r.toNat v
  | .freg r => setF s r.toNat v
  | .mem a => writeBytes s ((((leBytes 8 v.toNat).zipIdx).map fun b => (a.toNat + b.2, b.1)).filter fun b => !(inProgram b.1))
  | .lreg sl r l => putLanes s [(laneIdx sl r.toNat l.toNat, v.setWidth 32, false)]
  | .bank sl a i => putBank s [(bankIdx sl a.toNat i.toNat, v.setWidth 32, false)]
  | .frag sl t i => putFrag s [{ pos := ((sl * 8 + t.toNat) * 32768 + i.toNat) * 8, w := 8, v := v.toNat % 256, bad := false }]
  | _ => s

/-- JTAG_DEBUG_ACCESS: a read answers with the target's bytes, zeros where its domain is off; a write needs the invasive level. -/
def debugAccess (s : State) (write : Bool) (t : DebugTarget) (v : W64) : State :=
  if !(debugReads s t) then s
  else if write then (if s.trust.level = 2 ∧ debugOn s t = true then guardReset s (debugWrite s t v) else s)
  else if debugOn s t then
    let r := debugRead s t
    guardReset s (shiftOut r.1 r.2)
  else shiftOut s (leBytes 8 0)

/-- DEBUG_HALT: the stream that runs is halted. It counts as stopped, which the host is told (01 R25, 16 R427). -/
def haltStream (s : State) : State :=
  if s.trust.level = 2 ∧ s.seq.running = true ∧ s.trust.halted = false then
    signal ((s.onTrust fun t => { t with halted := true }).emit (.stream false 0)) 3
  else s

/-- DEBUG_SINGLE_STEP: one clk of the halted stream; a clk in which the stream stops ends the halt. -/
def singleStep (s : State) : State :=
  if s.trust.level = 2 ∧ s.trust.halted = true then
    let t := issueClk (s.onTrust fun t => { t with halted := false })
    t.onTrust fun x => { x with halted := decide (x.level = 2) && (t.seq.running == s.seq.running) }
  else s

/-- The JTAG challenge register: answered by the steward, and in recovery by the ROM. -/
def jtagChallenge (s : State) : State :=
  if s.trust.boot = 3 ∨ s.trust.boot = 4 then
    let r := newChallenge s
    shiftOut r.1 r.2
  else s

/-- A token through JTAG. -/
def jtagToken (s : State) (tok : List Byte) : State := if s.trust.boot = 3 ∨ s.trust.boot = 4 then submitToken s tok else s

/-- CHALLENGE_EXPIRY: 60 s after its read. -/
def challengeExpire (s : State) : State := s.onTrust fun t => { t with challenge := none }

/-! ### MCTP control and DOE (17 R434, R449) -/

/-- Whether the management path answers: ROM and the steward both answer it. -/
def mctpOn (s : State) : Bool := decide (1 ≤ s.trust.boot) && !s.trust.restarting

/-- An MCTP control response: command code and contents (PRESUMED, log entry 11). -/
def mctp (s : State) (code : Nat) (data : List Byte) : State := s.emit (.bytes (0x700 + code) data)

/-- Get Message Type Support: SPDM (05h) and vendor defined by PCI vendor ID (7Eh) (PRESUMED, log entry 71). -/
def messageTypes (s : State) : State := if mctpOn s then mctp s 5 [0, 2, 0x05, 0x7E] else s

/-- Get Vendor Defined Message Support: one set, the PCI vendor ID of 1018h:01 with command set version 0001h. -/
def vendorMessages (s : State) (selector : BitVec 8) : State :=
  if !(mctpOn s) then s
  else if selector = 0 then
    let id := objGet s 0x1018 1
    mctp s 6 ([0, 0xFF, 0] ++ (leBytes 2 id).reverse ++ [0, 1])
  else mctp s 6 [2]

/-- DOE Discovery: the types of the data objects of the mailbox, discovery itself and CMA/SPDM (PRESUMED, log entry 11). -/
def doeDiscover (s : State) (index : BitVec 8) : State :=
  if !(domOn s 29 && s.host.link) then s
  else
    let answer := fun kind next => s.emit (.bytes 0x800 ([0x01, 0x00, kind, next] : List Byte))
    if index = 0 then answer 0 1 else if index = 1 then answer 1 0 else answer 0xFF 0

end Sys2Proof.Machine
end

