-- ==== Sys2Proof/Machine/DictCmds.lean ====
section
/-! DEFINITION. The object dictionary (17 R447 to R456, and the writes with a row of their own). -/

namespace Sys2Proof.Machine
open Sys2Proof

/-- READ (17 R451). -/
def execReadObject (cls : Cls) (idx : BitVec 16) (sub : BitVec 8) (s : State) : Host.Outcome State Fault Refusal :=
  .next (answered s cls fun s => dictRead s cls idx.toNat sub.toNat)

/-- WRITE (17 R451). -/
def execWriteObject (cls : Cls) (idx : BitVec 16) (sub : BitVec 8) (data : List Byte)
    (s : State) : Host.Outcome State Fault Refusal :=
  .next (answerWrite s cls idx.toNat sub.toNat data (knownIds s))

/-- DESCRIBE (17 R452). -/
def execDescribeObject (cls : Cls) (idx : BitVec 16) (sub : BitVec 8) (s : State) : Host.Outcome State Fault Refusal :=
  .next (answered s cls fun s => (s, dictDescribe s idx.toNat sub.toNat))

/-- OPEN (17 R453). -/
def execOpenSession (cls : Cls) (tag : BitVec 8) (idx : BitVec 16) (sub : BitVec 8) (write : Bool)
    (s : State) : Host.Outcome State Fault Refusal :=
  .next (answered s cls fun s =>
    let r := dictOpen s cls tag idx.toNat sub.toNat write
    (r.1, r.2, []))

/-- SEGMENT (17 R453). -/
def execSegment (cls : Cls) (ofs len : Nat) (data : List Byte) (s : State) : Host.Outcome State Fault Refusal :=
  .next (answered s cls fun s => dictSegment s cls ofs len data)

/-- CLOSE (17 R453). -/
def execCloseSession (cls : Cls) (s : State) : Host.Outcome State Fault Refusal :=
  .next (answered s cls fun s =>
    let r := dictClose s cls
    (r.1, r.2, []))

/-- ABORT (17 R455). -/
def execAbortRequest (cls : Cls) (tag : BitVec 8) (s : State) : Host.Outcome State Fault Refusal :=
  .next (answered s cls fun s =>
    let r := dictAbort s cls tag
    (r.1, r.2, []))

/-- VIEW (17 R456). -/
def execViewObject (cls : Cls) (idx : BitVec 16) (sub : BitVec 8) (s : State) : Host.Outcome State Fault Refusal :=
  .next (answered s cls fun s => dictView s cls idx.toNat sub.toNat)

/-- SESSION_TIMEOUT (17 R453). -/
def execSessionTimeout (cls : Cls) (s : State) : Host.Outcome State Fault Refusal := .next (sessionExpire s cls)

/-- PEAL_INSTALL: a package written to 4030h:00 (13 R365). -/
def execPealInstall (cls : Cls) (package : List Byte) (s : State) : Host.Outcome State Fault Refusal :=
  .next (answered s cls fun s =>
    let r := writePackage s cls package
    (r.1, r.2, []))

/-- REQUESTED_STATE_WRITE: 3000h:01 (15 R395). -/
def execRequestedStateWrite (cls : Cls) (v : BitVec 8) (s : State) : Host.Outcome State Fault Refusal :=
  .next (answerWrite s cls 0x3000 1 [v] [])

/-- PCIE_ENABLE_WRITE: 2100h:01 (17 R434). -/
def execPcieEnableWrite (cls : Cls) (v : BitVec 8) (s : State) : Host.Outcome State Fault Refusal :=
  .next (answerWrite s cls 0x2100 1 [v] [])

/-- LASER_ENABLE_WRITE: 2310h:01 (11 R273). -/
def execLaserEnableWrite (cls : Cls) (v : BitVec 8) (ids : List (Nat × ModuleId))
    (s : State) : Host.Outcome State Fault Refusal :=
  .next (answerWrite s cls 0x2310 1 [v] ids)

/-- MARL_ENABLE_WRITE: 2200h:02 (10 R249). -/
def execMarlEnableWrite (cls : Cls) (v : BitVec 8) (spd : List (Nat × ModuleId))
    (s : State) : Host.Outcome State Fault Refusal :=
  .next (answerWrite s cls 0x2200 2 [v] spd)

/-- OWNER_KEY_SET_PROVISION: 5010h:07 and :08 for sets 4 and 5 (16 R414). -/
def execOwnerKeySetProvision (cls : Cls) (set : BitVec 8) (hashes : List Byte)
    (s : State) : Host.Outcome State Fault Refusal :=
  .next (answerWrite s cls 0x5010 (set.toNat + 3) hashes [])

/-- STRATUM_3_STORED_SEQ_WRITE: 4111h:02 (14 R379). -/
def execStratum3StoredSeqWrite (cls : Cls) (v : W64) (s : State) : Host.Outcome State Fault Refusal :=
  .next (answerWrite s cls 0x4111 2 (leBytes 8 v.toNat) [])

/-- CLAY_ENABLE_WRITE: 2200h:01 (15 R392). -/
def execClayEnableWrite (cls : Cls) (v : BitVec 8) (s : State) : Host.Outcome State Fault Refusal :=
  .next (answerWrite s cls 0x2200 1 [v] [])

/-- PORT_MODE_WRITE: 2301h (11 R277). -/
def execPortModeWrite (cls : Cls) (port : BitVec 3) (v : BitVec 8) (ids : List (Nat × ModuleId))
    (s : State) : Host.Outcome State Fault Refusal :=
  .next (answerWrite s cls 0x2301 (port.toNat + 1) [v] ids)

/-- FLASH_PORT_ENABLE_WRITE: 2100h:08 (17 R457). -/
def execFlashPortEnableWrite (cls : Cls) (v : BitVec 8) (s : State) : Host.Outcome State Fault Refusal :=
  .next (answerWrite s cls 0x2100 8 [v] [])

/-- BEAT_PERIOD_WRITE: 2320h:01 (11 R295). -/
def execBeatPeriodWrite (cls : Cls) (v : BitVec 16) (s : State) : Host.Outcome State Fault Refusal :=
  .next (answerWrite s cls 0x2320 1 (leBytes 2 v.toNat) [])

end Sys2Proof.Machine
end

