-- ==== Sys2Proof/Machine/DmaCmds.lean ====
section
/-! DEFINITION. The DMA engines, scaled conversions and the stash (10 R254 to R267, 07 R175, 09 R230 to R233). -/

namespace Sys2Proof.Machine
open Sys2Proof

/-- DMA_ACCEPT (10 R254). -/
def execDmaAccept (slice : BitVec 8) (s : State) : Host.Outcome State Fault Refusal :=
  .next (guardReset s (acceptXfer s slice.toNat))

/-- COPY (10 R255 to R257). -/
def execCopy (slice : BitVec 8) (s : State) : Host.Outcome State Fault Refusal :=
  match unbegun s slice.toNat [0] with
  | none => .next s
  | some h => .next (guardReset s (beginCopy s h))

/-- FILL (10 R255). -/
def execFill (slice : BitVec 8) (s : State) : Host.Outcome State Fault Refusal :=
  match unbegun s slice.toNat [1] with
  | none => .next s
  | some h => .next (guardReset s (beginFill s h))

/-- CACHE_PREFETCH (10 R255). -/
def execCachePrefetch (slice : BitVec 8) (s : State) : Host.Outcome State Fault Refusal :=
  match unbegun s slice.toNat [3] with
  | none => .next s
  | some h => .next (guardReset s (beginPrefetch s h))

/-- SCALED_CONVERSION (07 R175). -/
def execScaledConversion (slice : BitVec 8) (s : State) : Host.Outcome State Fault Refusal :=
  .next (guardReset s (beginConv s slice.toNat))

/-- STASH_PUT (09 R230). -/
def execStashPut (slice : BitVec 8) (s : State) : Host.Outcome State Fault Refusal :=
  .next (guardReset s (stashRun s slice.toNat 8 Sys2Proof.Machine.stashPut))

/-- STASH_GET (09 R232). -/
def execStashGet (slice : BitVec 8) (s : State) : Host.Outcome State Fault Refusal :=
  .next (guardReset s (stashRun s slice.toNat 9 Sys2Proof.Machine.stashGet))

/-- STASH_RELEASE (09 R233). -/
def execStashRelease (slice : BitVec 8) (s : State) : Host.Outcome State Fault Refusal :=
  .next (guardReset s (stashRun s slice.toNat 10 Sys2Proof.Machine.stashRelease))

/-- DMA_REQUEST_ISSUE (10 R258). -/
def execDmaRequestIssue (slice : BitVec 8) (s : State) : Host.Outcome State Fault Refusal :=
  .next (guardReset s (issueRequest s slice.toNat))

/-- DMA_REQUEST_COMPLETE (10 R259). -/
def execDmaRequestComplete (slice : BitVec 8) (req : Nat) (s : State) : Host.Outcome State Fault Refusal :=
  .next (guardReset s (completeRequest s slice.toNat req))

/-- DMA_REQUEST_TIMEOUT (10 R261), of a transfer or of the remote writes of a checkpoint operation. -/
def execDmaRequestTimeout (slice : BitVec 8) (req : Nat) (s : State) : Host.Outcome State Fault Refusal :=
  match ckTimeout s req with
  | some t => .next (guardReset s t)
  | none => .next (guardReset s (timeoutRequest s slice.toNat req))

/-- SERVICE_BOUND_EXCEEDED (10 R267). -/
def execServiceBoundExceeded (slice : BitVec 8) (req : Nat) (s : State) : Host.Outcome State Fault Refusal :=
  .next (lateRequest s slice.toNat req)

/-- SCALED_CONVERSION_PASS_END (07 R175). -/
def execScaledConversionPassEnd (slot : BitVec 14) (s : State) : Host.Outcome State Fault Refusal :=
  .next (guardReset s (convPassEnd s slot.toNat))

end Sys2Proof.Machine
end

