-- ==== Sys2Proof/Machine/ElementCmds.lean ====
section
/-! DEFINITION. The element-wise engine (08 R187 to R207). -/

namespace Sys2Proof.Machine
open Sys2Proof

/-- VE_FADD (08 R190 to R192). -/
def execVeFadd (o : VeOps) (s : State) : Host.Outcome State Fault Refusal := .next (issueOne (opVe .fadd o) s)

/-- VE_FSUB (08 R190 to R192). -/
def execVeFsub (o : VeOps) (s : State) : Host.Outcome State Fault Refusal := .next (issueOne (opVe .fsub o) s)

/-- VE_FMUL (08 R190 to R192). -/
def execVeFmul (o : VeOps) (s : State) : Host.Outcome State Fault Refusal := .next (issueOne (opVe .fmul o) s)

/-- VE_FMA (08 R190 to R192). -/
def execVeFma (o : VeOps) (s : State) : Host.Outcome State Fault Refusal := .next (issueOne (opVe .fma o) s)

/-- FRCP (08 R190 to R192). -/
def execFrcp (o : VeOps) (s : State) : Host.Outcome State Fault Refusal := .next (issueOne (opVe .frcp o) s)

/-- VE_FSQRT (08 R190 to R192). -/
def execVeFsqrt (o : VeOps) (s : State) : Host.Outcome State Fault Refusal := .next (issueOne (opVe .fsqrt o) s)

/-- FRSQRT (08 R190 to R192). -/
def execFrsqrt (o : VeOps) (s : State) : Host.Outcome State Fault Refusal := .next (issueOne (opVe .frsqrt o) s)

/-- FSCALE (08 R190 to R192). -/
def execFscale (o : VeOps) (s : State) : Host.Outcome State Fault Refusal := .next (issueOne (opVe .fscale o) s)

/-- VE_FMIN (08 R190 to R192). -/
def execVeFmin (o : VeOps) (s : State) : Host.Outcome State Fault Refusal := .next (issueOne (opVe .fmin o) s)

/-- VE_FMAX (08 R190 to R192). -/
def execVeFmax (o : VeOps) (s : State) : Host.Outcome State Fault Refusal := .next (issueOne (opVe .fmax o) s)

/-- FABS (08 R190 to R192). -/
def execFabs (o : VeOps) (s : State) : Host.Outcome State Fault Refusal := .next (issueOne (opVe .fabs o) s)

/-- FNEG (08 R190 to R192). -/
def execFneg (o : VeOps) (s : State) : Host.Outcome State Fault Refusal := .next (issueOne (opVe .fneg o) s)

/-- VE_ADD (08 R190 to R192). -/
def execVeAdd (o : VeOps) (s : State) : Host.Outcome State Fault Refusal := .next (issueOne (opVe .add o) s)

/-- VE_SUB (08 R190 to R192). -/
def execVeSub (o : VeOps) (s : State) : Host.Outcome State Fault Refusal := .next (issueOne (opVe .sub o) s)

/-- VE_MUL (08 R190 to R192). -/
def execVeMul (o : VeOps) (s : State) : Host.Outcome State Fault Refusal := .next (issueOne (opVe .mul o) s)

/-- ADDU (08 R190 to R192). -/
def execAddu (o : VeOps) (s : State) : Host.Outcome State Fault Refusal := .next (issueOne (opVe .addu o) s)

/-- SUBU (08 R190 to R192). -/
def execSubu (o : VeOps) (s : State) : Host.Outcome State Fault Refusal := .next (issueOne (opVe .subu o) s)

/-- MULU (08 R190 to R192). -/
def execMulu (o : VeOps) (s : State) : Host.Outcome State Fault Refusal := .next (issueOne (opVe .mulu o) s)

/-- MIN (08 R190 to R192). -/
def execMin (o : VeOps) (s : State) : Host.Outcome State Fault Refusal := .next (issueOne (opVe .min o) s)

/-- MAX (08 R190 to R192). -/
def execMax (o : VeOps) (s : State) : Host.Outcome State Fault Refusal := .next (issueOne (opVe .max o) s)

/-- MINU (08 R190 to R192). -/
def execMinu (o : VeOps) (s : State) : Host.Outcome State Fault Refusal := .next (issueOne (opVe .minu o) s)

/-- MAXU (08 R190 to R192). -/
def execMaxu (o : VeOps) (s : State) : Host.Outcome State Fault Refusal := .next (issueOne (opVe .maxu o) s)

/-- VE_AND (08 R190 to R192). -/
def execVeAnd (o : VeOps) (s : State) : Host.Outcome State Fault Refusal := .next (issueOne (opVe .and o) s)

/-- VE_OR (08 R190 to R192). -/
def execVeOr (o : VeOps) (s : State) : Host.Outcome State Fault Refusal := .next (issueOne (opVe .or o) s)

/-- VE_XOR (08 R190 to R192). -/
def execVeXor (o : VeOps) (s : State) : Host.Outcome State Fault Refusal := .next (issueOne (opVe .xor o) s)

/-- ANDN (08 R190 to R192). -/
def execAndn (o : VeOps) (s : State) : Host.Outcome State Fault Refusal := .next (issueOne (opVe .andn o) s)

/-- SHL (08 R190 to R192). -/
def execShl (o : VeOps) (s : State) : Host.Outcome State Fault Refusal := .next (issueOne (opVe .shl o) s)

/-- SHR (08 R190 to R192). -/
def execShr (o : VeOps) (s : State) : Host.Outcome State Fault Refusal := .next (issueOne (opVe .shr o) s)

/-- VE_SRA (08 R190 to R192). -/
def execVeSra (o : VeOps) (s : State) : Host.Outcome State Fault Refusal := .next (issueOne (opVe .sra o) s)

/-- MOV (08 R190 to R192). -/
def execMov (o : VeOps) (s : State) : Host.Outcome State Fault Refusal := .next (issueOne (opVe .mov o) s)

/-- BCST (08 R190 to R192). -/
def execBcst (o : VeOps) (s : State) : Host.Outcome State Fault Refusal := .next (issueOne (opVe .bcst o) s)

/-- IOTA (08 R190 to R192). -/
def execIota (o : VeOps) (s : State) : Host.Outcome State Fault Refusal := .next (issueOne (opVe .iota o) s)

/-- CEQ (08 R190 to R192). -/
def execCeq (o : VeOps) (s : State) : Host.Outcome State Fault Refusal := .next (issueOne (opVe .ceq o) s)

/-- CLT (08 R190 to R192). -/
def execClt (o : VeOps) (s : State) : Host.Outcome State Fault Refusal := .next (issueOne (opVe .clt o) s)

/-- CLTU (08 R190 to R192). -/
def execCltu (o : VeOps) (s : State) : Host.Outcome State Fault Refusal := .next (issueOne (opVe .cltu o) s)

/-- FCEQ (08 R190 to R192). -/
def execFceq (o : VeOps) (s : State) : Host.Outcome State Fault Refusal := .next (issueOne (opVe .fceq o) s)

/-- FCLT (08 R190 to R192). -/
def execFclt (o : VeOps) (s : State) : Host.Outcome State Fault Refusal := .next (issueOne (opVe .fclt o) s)

/-- FCLE (08 R190 to R192). -/
def execFcle (o : VeOps) (s : State) : Host.Outcome State Fault Refusal := .next (issueOne (opVe .fcle o) s)

/-- SEL (08 R190 to R192). -/
def execSel (o : VeOps) (s : State) : Host.Outcome State Fault Refusal := .next (issueOne (opVe .sel o) s)

/-- CVTN (08 R194). -/
def execCvtn (o : VeOps) (s : State) : Host.Outcome State Fault Refusal := .next (issueOne (opVe .cvtn o) s)

/-- CVTW (08 R194). -/
def execCvtw (o : VeOps) (s : State) : Host.Outcome State Fault Refusal := .next (issueOne (opVe .cvtw o) s)

/-- FEVAL (08 R203). -/
def execFeval (o : VeOps) (s : State) : Host.Outcome State Fault Refusal := .next (issueOne (opVe .feval o) s)

/-- FDRV (08 R203). -/
def execFdrv (o : VeOps) (s : State) : Host.Outcome State Fault Refusal := .next (issueOne (opVe .fdrv o) s)

/-- RDROP (08 R210). -/
def execRdrop (o : VeOps) (s : State) : Host.Outcome State Fault Refusal := .next (issueOne (opVe .rdrop o) s)

/-- RMASK (08 R210). -/
def execRmask (o : VeOps) (s : State) : Host.Outcome State Fault Refusal := .next (issueOne (opVe .rmask o) s)

/-- RSUM (08 R196). -/
def execRsum (o : VeOps) (s : State) : Host.Outcome State Fault Refusal := .next (issueOne (opVe .rsum o) s)

/-- RMAX (08 R196). -/
def execRmax (o : VeOps) (s : State) : Host.Outcome State Fault Refusal := .next (issueOne (opVe .rmax o) s)

/-- RMIN (08 R196). -/
def execRmin (o : VeOps) (s : State) : Host.Outcome State Fault Refusal := .next (issueOne (opVe .rmin o) s)

/-- RAMAX (08 R196). -/
def execRamax (o : VeOps) (s : State) : Host.Outcome State Fault Refusal := .next (issueOne (opVe .ramax o) s)

/-- RISUM (08 R196). -/
def execRisum (o : VeOps) (s : State) : Host.Outcome State Fault Refusal := .next (issueOne (opVe .risum o) s)

/-- LDL (08 R197). -/
def execLdl (o : VeOps) (s : State) : Host.Outcome State Fault Refusal := .next (issueOne (opVeMem 0 o) s)

/-- STL (08 R197). -/
def execStl (o : VeOps) (s : State) : Host.Outcome State Fault Refusal := .next (issueOne (opVeMem 1 o) s)

/-- LDB (08 R197). -/
def execLdb (o : VeOps) (s : State) : Host.Outcome State Fault Refusal := .next (issueOne (opVeMem 2 o) s)

/-- GATH (08 R199). -/
def execGath (o : VeOps) (s : State) : Host.Outcome State Fault Refusal := .next (issueOne (opVeMem 3 o) s)

/-- SCAT (08 R199). -/
def execScat (o : VeOps) (s : State) : Host.Outcome State Fault Refusal := .next (issueOne (opVeMem 4 o) s)

/-- FTLD (08 R204, R205). -/
def execFtld (o : VeOps) (s : State) : Host.Outcome State Fault Refusal :=
  .next (issueOne (opOver 3 o.gn (condFtld o) (doVe .ftld o)) s)

/-- A coprocessor opcode (08 R206, R207); it has no immediate. -/
def execCoprocessorOpcode (op : BitVec 8) (o : VeOps) (s : State) : Host.Outcome State Fault Refusal :=
  .next (issueOne (opOver 3 o.gn (condCoproc op { o with imm := none }) (doCoproc op { o with imm := none })) s)

end Sys2Proof.Machine
end

