-- ==== Sys2Proof/Machine/HostCmds.lean ====
section
/-! DEFINITION. The host port (17 R433 to R445, R449, R457 to R459). -/

namespace Sys2Proof.Machine
open Sys2Proof

/-- PMCSR_WRITE (17 R442). -/
def execPmcsrWrite (v : BitVec 2) (s : State) : Host.Outcome State Fault Refusal := .next (writePmcsr s v)

/-- DPOST (17 R449). -/
def execDpost (len : BitVec 11) (s : State) : Host.Outcome State Fault Refusal := .next (postRequest s len.toNat)

/-- HQEN_WRITE (17 R443). -/
def execHqenWrite (v : W64) (s : State) : Host.Outcome State Fault Refusal := .next (if hostOk s then writeHqen s v else s)

/-- HOST_CUE_STAGE_WRITE (17 R444). -/
def execHostCueStageWrite (entry : BitVec 10) (word : BitVec 2) (v : W64) (s : State) : Host.Outcome State Fault Refusal :=
  .next (if hostOk s then hostCueWord s entry word.toNat v else s)

/-- HOST_CUE_W0_WRITE (17 R444). -/
def execHostCueW0Write (entry : BitVec 10) (v : W64) (s : State) : Host.Outcome State Fault Refusal :=
  .next (if hostOk s then hostCommit s entry v else s)

/-- HOST_MEMORY_READ (17 R441). -/
def execHostMemoryRead (bar : BitVec 3) (offset len : Nat) (s : State) : Host.Outcome State Fault Refusal :=
  .next (guardReset s (hostRead s bar.toNat offset len))

/-- HOST_MEMORY_WRITE (17 R440). -/
def execHostMemoryWrite (bar : BitVec 3) (offset : Nat) (data : List Byte) (s : State) : Host.Outcome State Fault Refusal :=
  .next (guardReset s (hostWrite s bar.toNat offset data))

/-- PCIE_LINK_TRAINED (17 R433). -/
def execPcieLinkTrained (rate width : Nat) (s : State) : Host.Outcome State Fault Refusal := .next (linkTrained s rate width)

/-- FUNCTION_LEVEL_RESET (17 R437). -/
def execFunctionLevelReset (s : State) : Host.Outcome State Fault Refusal := .next (levelReset s)

/-- FLASH_PORT_LINK_UP (17 R458). -/
def execFlashPortLinkUp (id : ModuleId) (s : State) : Host.Outcome State Fault Refusal := .next (flashLinkUp s id)

/-- MODULE_PRESENCE_LOSS (17 R459). -/
def execModulePresenceLoss (code : BitVec 8) (s : State) : Host.Outcome State Fault Refusal :=
  .next (presenceLost s code.toNat)

/-- FLASH_PORT_TRAINING_TIMEOUT (17 R458). -/
def execFlashPortTrainingTimeout (s : State) : Host.Outcome State Fault Refusal := .next (flashTimeout s)

/-- CONTROL_WINDOW_WRITE (17 R442). -/
def execControlWindowWrite (offset : BitVec 16) (v : W64) (s : State) : Host.Outcome State Fault Refusal :=
  .next (if hostOk s then windowWrite s offset.toNat v else s)

/-- CONFIGURATION_WRITE (17 R435). -/
def execConfigurationWrite (fieldName : CfgField) (v : W32) (s : State) : Host.Outcome State Fault Refusal :=
  .next (configWrite s fieldName v)

end Sys2Proof.Machine
end

