-- ==== Sys2Proof/Machine/LinkCmds.lean ====
section
/-! DEFINITION. Links and ports (11 R273 to R293, 13 R354). -/

namespace Sys2Proof.Machine
open Sys2Proof

/-- TOCSIN_RECEIVED (13 R354). -/
def execTocsinReceived (port : BitVec 3) (src : BitVec 14) (ts : BitVec 87) (s : State) : Host.Outcome State Fault Refusal :=
  .next (receiveTocsin s port.toNat src.toNat ts)

/-- FRAME_RECEIVED (11 R276). -/
def execFrameReceived (port : BitVec 3) (frame : Framing) (flits : List Flit)
    (s : State) : Host.Outcome State Fault Refusal :=
  .next (guardReset s (frameIn s port.toNat frame flits))

/-- FLIT_SEND (11 R282). -/
def execFlitSend (port : BitVec 3) (s : State) : Host.Outcome State Fault Refusal := .next (sendOne s port.toNat)

/-- ETHERNET_FRAME_RECEIVED (11 R287). -/
def execEthernetFrameReceived (port : BitVec 3) (fcsOk : Bool) (_sender : BitVec 16) (_seq : W32) (flits : List Flit)
    (s : State) : Host.Outcome State Fault Refusal :=
  .next (guardReset s (takeEthernet s port.toNat fcsOk flits))

/-- TRAINING_STEP_DONE (11 R277). -/
def execTrainingStepDone (port : BitVec 3) (info : TrainInfo) (s : State) : Host.Outcome State Fault Refusal :=
  .next (trainStep s port.toNat info)

/-- TRAINING_STEP_TIMEOUT (11 R277). -/
def execTrainingStepTimeout (port : BitVec 3) (s : State) : Host.Outcome State Fault Refusal := .next (trainFail s port.toNat)

/-- PORT_DARK_TIMEOUT (11 R293). -/
def execPortDarkTimeout (port : BitVec 3) (s : State) : Host.Outcome State Fault Refusal := .next (darkTimeout s port.toNat)

/-- LANE_SWAP_SWITCH (11 R280). -/
def execLaneSwapSwitch (port : BitVec 3) (s : State) : Host.Outcome State Fault Refusal := .next (laneSwitch s port.toNat)

/-- SHROUD_SENSE_CHANGE (11 R273). -/
def execShroudSenseChange (mated : Bool) (s : State) : Host.Outcome State Fault Refusal := .next (shroudChange s mated)

end Sys2Proof.Machine
end

