-- ==== Sys2Proof/Machine/PowerCmds.lean ====
section
/-! DEFINITION. Power, the mute and the thermal points (15 R395 to R409). -/

namespace Sys2Proof.Machine
open Sys2Proof

/-- POWER_ESTIMATE (15 R398). -/
def execPowerEstimate (activity quarterUj queueUj : List Nat) (s : State) : Host.Outcome State Fault Refusal :=
  .next (powerEstimateStep s activity quarterUj queueUj)

/-- ESTIMATOR_GAIN_CORRECTION (15 R398). -/
def execEstimatorGainCorrection (measuredMw estimatedMw : Nat) (s : State) : Host.Outcome State Fault Refusal :=
  .next (gainCorrect s measuredMw estimatedMw)

/-- MUTE_CHANGE_EFFECT (15 R401). -/
def execMuteChangeEffect (s : State) : Host.Outcome State Fault Refusal := .next (muteEffect s)

/-- DVFS_CLOCK_SWITCH (15 R405). -/
def execDvfsClockSwitch (s : State) : Host.Outcome State Fault Refusal := .next (clockSwitch s)

/-- DROOP_TRIP (15 R406). -/
def execDroopTrip (detector : BitVec 4) (s : State) : Host.Outcome State Fault Refusal :=
  .next (droopTripped s detector.toNat)

/-- DROOP_RECOVERY (15 R406). -/
def execDroopRecovery (s : State) : Host.Outcome State Fault Refusal := .next (droopRecovered s)

/-- DROOP_MUTE_STEP (15 R406). -/
def execDroopMuteStep (s : State) : Host.Outcome State Fault Refusal := .next (droopStep s)

/-- THERMAL_SENSOR_READ (15 R408). -/
def execThermalSensorRead (sensors stackTemps : List Int) (s : State) : Host.Outcome State Fault Refusal :=
  .next (thermalRead s sensors stackTemps)

/-- POWER_TRANSITION_BEGIN (15 R395). -/
def execPowerTransitionBegin (s : State) : Host.Outcome State Fault Refusal := .next (powerBegin s)

/-- POWER_TRANSITION_COMPLETE (15 R395). -/
def execPowerTransitionComplete (modules : List (Nat × ModuleId)) (s : State) : Host.Outcome State Fault Refusal :=
  .next (powerComplete s modules)

end Sys2Proof.Machine
end

