-- ==== Sys2Proof/Machine/RelCmds.lean ====
section
/-! DEFINITION. Scrubbing, repair and peals (13 R343 to R369). -/

namespace Sys2Proof.Machine
open Sys2Proof

/-- PATROL_SCRUB_READ (13 R345). -/
def execPatrolScrubRead (far : Bool) (s : State) : Host.Outcome State Fault Refusal :=
  .next (guardReset s (patrolScrub s far))

/-- CORRECTION_WRITEBACK (13 R343). -/
def execCorrectionWriteback (addr : BitVec 48) (s : State) : Host.Outcome State Fault Refusal :=
  .next (guardReset s (writeBack s addr.toNat))

/-- CORRECTION_SUMMARY_EXPIRY (13 R352). -/
def execCorrectionSummaryExpiry (ucls : BitVec 8) (unit : BitVec 16) (s : State) : Host.Outcome State Fault Refusal :=
  .next (summaryExpiry s ucls unit)

/-- COMPARISON_COMPLETE (13 R358). -/
def execComparisonComplete (outcome : Comparison) (s : State) : Host.Outcome State Fault Refusal :=
  .next (compareDone s outcome)

/-- RETIREMENT_SWITCH (13 R361). -/
def execRetirementSwitch (ucls : BitVec 8) (unit : BitVec 16) (s : State) : Host.Outcome State Fault Refusal :=
  .next (retireSwitch s ucls unit)

/-- PEAL_COMPLETE (13 R367). -/
def execPealComplete (passed failed : BitVec 16) (bad : List (BitVec 8 × BitVec 16))
    (s : State) : Host.Outcome State Fault Refusal :=
  .next (pealDone s passed failed bad)

/-- PEAL_WINDOW_EXPIRY (13 R366). -/
def execPealWindowExpiry (s : State) : Host.Outcome State Fault Refusal := .next (pealExpire s)

/-- SPOT_CHECK_COMPLETE (13 R369). -/
def execSpotCheckComplete (quarter : BitVec 3) (differs : Bool) (elem : BitVec 14) (bank : BitVec 8)
    (s : State) : Host.Outcome State Fault Refusal :=
  .next (spotDone s quarter.toNat differs elem.toNat bank.toNat)

end Sys2Proof.Machine
end

