-- ==== Sys2Proof/Machine/ScalarCmds.lean ====
section
/-! DEFINITION. The scalar operations (04 R102 to R107, 03 R66). -/

namespace Sys2Proof.Machine
open Sys2Proof

/-- ADDI (04 R102). -/
def execAddi (d a : BitVec 5) (q : BitVec 4) (imm : Imm) (s : State) : Host.Outcome State Fault Refusal :=
  .next (issueOne (plain 0 (doAddi d a q imm)) s)

/-- ANDI (04 R102). -/
def execAndi (d a : BitVec 5) (q : BitVec 4) (imm : Imm) (s : State) : Host.Outcome State Fault Refusal :=
  .next (issueOne (plain 0 (doAndi d a q imm)) s)

/-- ORI (04 R102). -/
def execOri (d a : BitVec 5) (q : BitVec 4) (imm : Imm) (s : State) : Host.Outcome State Fault Refusal :=
  .next (issueOne (plain 0 (doOri d a q imm)) s)

/-- XORI (04 R102). -/
def execXori (d a : BitVec 5) (q : BitVec 4) (imm : Imm) (s : State) : Host.Outcome State Fault Refusal :=
  .next (issueOne (plain 0 (doXori d a q imm)) s)

/-- SLLI (04 R102). -/
def execSlli (d a : BitVec 5) (q : BitVec 4) (imm : Imm) (s : State) : Host.Outcome State Fault Refusal :=
  .next (issueOne (plain 0 (doSlli d a q imm)) s)

/-- SRLI (04 R102). -/
def execSrli (d a : BitVec 5) (q : BitVec 4) (imm : Imm) (s : State) : Host.Outcome State Fault Refusal :=
  .next (issueOne (plain 0 (doSrli d a q imm)) s)

/-- SRAI (04 R102). -/
def execSrai (d a : BitVec 5) (q : BitVec 4) (imm : Imm) (s : State) : Host.Outcome State Fault Refusal :=
  .next (issueOne (plain 0 (doSrai d a q imm)) s)

/-- SLTI (04 R102). -/
def execSlti (d a : BitVec 5) (q : BitVec 4) (imm : Imm) (s : State) : Host.Outcome State Fault Refusal :=
  .next (issueOne (plain 0 (doSlti d a q imm)) s)

/-- LDX (04 R105, R107). -/
def execLdx (d a : BitVec 5) (q : BitVec 4) (imm : Imm) (s : State) : Host.Outcome State Fault Refusal :=
  .next (issueOne (plain 0 (doLdx d a q imm)) s)

/-- STX (04 R105, R107). -/
def execStx (d a : BitVec 5) (q : BitVec 4) (imm : Imm) (s : State) : Host.Outcome State Fault Refusal :=
  .next (issueOne (plain 0 (doStx d a q imm)) s)

/-- LDF (04 R105, R107). -/
def execLdf (d a : BitVec 5) (q : BitVec 4) (imm : Imm) (s : State) : Host.Outcome State Fault Refusal :=
  .next (issueOne (opOn 0 (condFpSize q) (doLdf d a q imm)) s)

/-- STF (04 R105, R107). -/
def execStf (d a : BitVec 5) (q : BitVec 4) (imm : Imm) (s : State) : Host.Outcome State Fault Refusal :=
  .next (issueOne (opOn 0 (condFpSize q) (doStf d a q imm)) s)

/-- CTLR (03 R66). -/
def execCtlr (d _a : BitVec 5) (_q : BitVec 4) (imm : Imm) (s : State) : Host.Outcome State Fault Refusal :=
  .next (issueOne (opCtlr d imm) s)

/-- CTLW (03 R66). -/
def execCtlw (_d a : BitVec 5) (_q : BitVec 4) (imm : Imm) (s : State) : Host.Outcome State Fault Refusal :=
  .next (issueOne (opCtlw a imm) s)

/-- CONX (04 R102). -/
def execConx (d _a : BitVec 5) (q : BitVec 4) (imm : Imm) (s : State) : Host.Outcome State Fault Refusal :=
  .next (issueOne (plain 0 (doConx d q imm)) s)

/-- CONF (04 R102). -/
def execConf (d _a : BitVec 5) (q : BitVec 4) (imm : Imm) (s : State) : Host.Outcome State Fault Refusal :=
  .next (issueOne (plain 0 (doConf d q imm)) s)

/-- ADD (04 R103). -/
def execAdd (d a : BitVec 5) (_q : BitVec 4) (b : BitVec 5) (_fn : BitVec 9) (s : State) : Host.Outcome State Fault Refusal :=
  .next (issueOne (plain 0 (doAdd d a b)) s)

/-- SUB (04 R103). -/
def execSub (d a : BitVec 5) (_q : BitVec 4) (b : BitVec 5) (_fn : BitVec 9) (s : State) : Host.Outcome State Fault Refusal :=
  .next (issueOne (plain 0 (doSub d a b)) s)

/-- AND (04 R103). -/
def execAnd (d a : BitVec 5) (_q : BitVec 4) (b : BitVec 5) (_fn : BitVec 9) (s : State) : Host.Outcome State Fault Refusal :=
  .next (issueOne (plain 0 (doAnd d a b)) s)

/-- OR (04 R103). -/
def execOr (d a : BitVec 5) (_q : BitVec 4) (b : BitVec 5) (_fn : BitVec 9) (s : State) : Host.Outcome State Fault Refusal :=
  .next (issueOne (plain 0 (doOr d a b)) s)

/-- XOR (04 R103). -/
def execXor (d a : BitVec 5) (_q : BitVec 4) (b : BitVec 5) (_fn : BitVec 9) (s : State) : Host.Outcome State Fault Refusal :=
  .next (issueOne (plain 0 (doXor d a b)) s)

/-- SLL (04 R103). -/
def execSll (d a : BitVec 5) (_q : BitVec 4) (b : BitVec 5) (_fn : BitVec 9) (s : State) : Host.Outcome State Fault Refusal :=
  .next (issueOne (plain 0 (doSll d a b)) s)

/-- SRL (04 R103). -/
def execSrl (d a : BitVec 5) (_q : BitVec 4) (b : BitVec 5) (_fn : BitVec 9) (s : State) : Host.Outcome State Fault Refusal :=
  .next (issueOne (plain 0 (doSrl d a b)) s)

/-- SRA (04 R103). -/
def execSra (d a : BitVec 5) (_q : BitVec 4) (b : BitVec 5) (_fn : BitVec 9) (s : State) : Host.Outcome State Fault Refusal :=
  .next (issueOne (plain 0 (doSra d a b)) s)

/-- SLT (04 R103). -/
def execSlt (d a : BitVec 5) (_q : BitVec 4) (b : BitVec 5) (_fn : BitVec 9) (s : State) : Host.Outcome State Fault Refusal :=
  .next (issueOne (plain 0 (doSlt d a b)) s)

/-- SLTU (04 R103). -/
def execSltu (d a : BitVec 5) (_q : BitVec 4) (b : BitVec 5) (_fn : BitVec 9)
    (s : State) : Host.Outcome State Fault Refusal :=
  .next (issueOne (plain 0 (doSltu d a b)) s)

/-- MUL (04 R103). -/
def execMul (d a : BitVec 5) (_q : BitVec 4) (b : BitVec 5) (_fn : BitVec 9) (s : State) : Host.Outcome State Fault Refusal :=
  .next (issueOne (plain 0 (doMul d a b)) s)

/-- MULH (04 R103). -/
def execMulh (d a : BitVec 5) (_q : BitVec 4) (b : BitVec 5) (_fn : BitVec 9)
    (s : State) : Host.Outcome State Fault Refusal :=
  .next (issueOne (plain 0 (doMulh d a b)) s)

/-- MULHU (04 R103). -/
def execMulhu (d a : BitVec 5) (_q : BitVec 4) (b : BitVec 5) (_fn : BitVec 9)
    (s : State) : Host.Outcome State Fault Refusal :=
  .next (issueOne (plain 0 (doMulhu d a b)) s)

/-- DIV (04 R103). -/
def execDiv (d a : BitVec 5) (_q : BitVec 4) (b : BitVec 5) (_fn : BitVec 9) (s : State) : Host.Outcome State Fault Refusal :=
  .next (issueOne (plain 0 (doDiv d a b)) s)

/-- DIVU (04 R103). -/
def execDivu (d a : BitVec 5) (_q : BitVec 4) (b : BitVec 5) (_fn : BitVec 9)
    (s : State) : Host.Outcome State Fault Refusal :=
  .next (issueOne (plain 0 (doDivu d a b)) s)

/-- REM (04 R103). -/
def execRem (d a : BitVec 5) (_q : BitVec 4) (b : BitVec 5) (_fn : BitVec 9) (s : State) : Host.Outcome State Fault Refusal :=
  .next (issueOne (plain 0 (doRem d a b)) s)

/-- REMU (04 R103). -/
def execRemu (d a : BitVec 5) (_q : BitVec 4) (b : BitVec 5) (_fn : BitVec 9)
    (s : State) : Host.Outcome State Fault Refusal :=
  .next (issueOne (plain 0 (doRemu d a b)) s)

/-- MOVXF (04 R102). -/
def execMovxf (d a : BitVec 5) (_q : BitVec 4) (_b : BitVec 5) (_fn : BitVec 9)
    (s : State) : Host.Outcome State Fault Refusal :=
  .next (issueOne (plain 0 (doMovxf d a)) s)

/-- MOVFX (04 R102). -/
def execMovfx (d a : BitVec 5) (_q : BitVec 4) (_b : BitVec 5) (_fn : BitVec 9)
    (s : State) : Host.Outcome State Fault Refusal :=
  .next (issueOne (plain 0 (doMovfx d a)) s)

/-- FADD (04 R104). -/
def execFadd (d a : BitVec 5) (_q : BitVec 4) (b : BitVec 5) (fn : BitVec 9) (s : State) : Host.Outcome State Fault Refusal :=
  .next (issueOne (plain 0 (doFadd d a b fn)) s)

/-- FSUB (04 R104). -/
def execFsub (d a : BitVec 5) (_q : BitVec 4) (b : BitVec 5) (fn : BitVec 9) (s : State) : Host.Outcome State Fault Refusal :=
  .next (issueOne (plain 0 (doFsub d a b fn)) s)

/-- FMUL (04 R104). -/
def execFmul (d a : BitVec 5) (_q : BitVec 4) (b : BitVec 5) (fn : BitVec 9) (s : State) : Host.Outcome State Fault Refusal :=
  .next (issueOne (plain 0 (doFmul d a b fn)) s)

/-- FMA (04 R104). -/
def execFma (d a : BitVec 5) (_q : BitVec 4) (b : BitVec 5) (fn : BitVec 9) (s : State) : Host.Outcome State Fault Refusal :=
  .next (issueOne (plain 0 (doFma d a b fn)) s)

/-- FDIV (04 R104). -/
def execFdiv (d a : BitVec 5) (_q : BitVec 4) (b : BitVec 5) (fn : BitVec 9) (s : State) : Host.Outcome State Fault Refusal :=
  .next (issueOne (plain 0 (doFdiv d a b fn)) s)

/-- FMIN (04 R104). -/
def execFmin (d a : BitVec 5) (_q : BitVec 4) (b : BitVec 5) (fn : BitVec 9) (s : State) : Host.Outcome State Fault Refusal :=
  .next (issueOne (plain 0 (doFmin d a b fn)) s)

/-- FMAX (04 R104). -/
def execFmax (d a : BitVec 5) (_q : BitVec 4) (b : BitVec 5) (fn : BitVec 9) (s : State) : Host.Outcome State Fault Refusal :=
  .next (issueOne (plain 0 (doFmax d a b fn)) s)

/-- FEQ (04 R104). -/
def execFeq (d a : BitVec 5) (_q : BitVec 4) (b : BitVec 5) (fn : BitVec 9) (s : State) : Host.Outcome State Fault Refusal :=
  .next (issueOne (plain 0 (doFeq d a b fn)) s)

/-- FLT (04 R104). -/
def execFlt (d a : BitVec 5) (_q : BitVec 4) (b : BitVec 5) (fn : BitVec 9) (s : State) : Host.Outcome State Fault Refusal :=
  .next (issueOne (plain 0 (doFlt d a b fn)) s)

/-- FLE (04 R104). -/
def execFle (d a : BitVec 5) (_q : BitVec 4) (b : BitVec 5) (fn : BitVec 9) (s : State) : Host.Outcome State Fault Refusal :=
  .next (issueOne (plain 0 (doFle d a b fn)) s)

/-- FSQRT (04 R104). -/
def execFsqrt (d a : BitVec 5) (_q : BitVec 4) (_b : BitVec 5) (fn : BitVec 9)
    (s : State) : Host.Outcome State Fault Refusal :=
  .next (issueOne (plain 0 (doFsqrt d a fn)) s)

/-- FCVT (04 R104). -/
def execFcvt (d a : BitVec 5) (_q : BitVec 4) (_b : BitVec 5) (fn : BitVec 9)
    (s : State) : Host.Outcome State Fault Refusal :=
  .next (issueOne (opOn 0 (condFcvt fn) (doFcvt d a fn)) s)

end Sys2Proof.Machine
end

