-- ==== Sys2Proof/Machine/SlotCmds.lean ====
section
/-! DEFINITION. The DM, CL and CU slots (10 R254, R260, 12 R314, R317, 11 R301, 01 R20). -/

namespace Sys2Proof.Machine
open Sys2Proof

/-- DMA_ISSUE (10 R254): where the queue is full, issue is held and nothing is placed (02 R53). -/
def execDmaIssue (xd : BitVec 5) (gn : BitVec 3) (tag : BitVec 6) (s : State) : Host.Outcome State Fault Refusal :=
  .next (if dmaFull s then s else issueOne (opDma xd gn tag) s)

/-- DMW (10 R260). -/
def execDmw (gn : BitVec 3) (tag : BitVec 6) (s : State) : Host.Outcome State Fault Refusal :=
  .next (issueOne (plain 5 (doDmw gn tag)) s)

/-- COLLECTIVE_ISSUE (12 R314): where the queue is full, issue is held and nothing is placed (02 R53). -/
def execCollectiveIssue (xd : BitVec 5) (tag : BitVec 6) (s : State) : Host.Outcome State Fault Refusal :=
  .next (if collFull s then s else issueOne (opColl xd tag) s)

/-- CLW (12 R317). -/
def execClw (tag : BitVec 6) (s : State) : Host.Outcome State Fault Refusal := .next (issueOne (plain 6 (doClw tag)) s)

/-- RBEAT (11 R301). -/
def execRbeat (x : BitVec 5) (s : State) : Host.Outcome State Fault Refusal := .next (issueOne (plain 7 (doRbeat x)) s)

/-- RANG (11 R301). -/
def execRang (x : BitVec 5) (s : State) : Host.Outcome State Fault Refusal := .next (issueOne (plain 7 (doRang x)) s)

/-- WBEAT (11 R301). -/
def execWbeat (x : BitVec 5) (s : State) : Host.Outcome State Fault Refusal := .next (issueOne (plain 7 (doWbeat x)) s)

/-- MARK (01 R20). -/
def execMark (imm : BitVec 28) (s : State) : Host.Outcome State Fault Refusal := .next (issueOne (plain 7 (doMark imm)) s)

end Sys2Proof.Machine
end

