-- ==== Sys2Proof/Machine/StreamCmds.lean ====
section
/-! DEFINITION. The commands of the stream: a clk of it, the entries, the watchdog, and its own operations (02 R36 to R49, 03 R70 to R91, R480). -/

namespace Sys2Proof.Machine
open Sys2Proof

/-- BUNDLE_ISSUE (02 R36, R53): one clk of the sequencer. -/
def execBundleIssue (s : State) : Host.Outcome State Fault Refusal := .next (issueClk s)

/-- FAULT_ENTRY (03 R73): the fault that the boundary takes. -/
def execFaultEntry (s : State) : Host.Outcome State Fault Refusal := .next (faultEntryNow s)

/-- INTERRUPT_ENTRY (03 R70): the interrupt that the boundary takes. -/
def execInterruptEntry (s : State) : Host.Outcome State Fault Refusal := .next (interruptEntryNow s)

/-- WATCHDOG_EXPIRY (03 R480). -/
def execWatchdogExpiry (s : State) : Host.Outcome State Fault Refusal := .next (watchExpire s)

/-- WAIT_HOLD_WATCHDOG_EXPIRY (03 R480). -/
def execWaitHoldWatchdogExpiry (s : State) : Host.Outcome State Fault Refusal := .next (waitExpire s)

/-- PMSYNC (02 R30, R42). -/
def execPmsync (s : State) : Host.Outcome State Fault Refusal := .next (issueOne (opAt 0 condM doPmsync) s)

/-- XRET (03 R82). -/
def execXret (s : State) : Host.Outcome State Fault Refusal := .next (issueOne (opXret) s)

/-- HALT (03 R91). -/
def execHalt (s : State) : Host.Outcome State Fault Refusal := .next (issueOne (opHalt) s)

/-- BR (02 R43). -/
def execBr (xa : BitVec 5) (cc : BitVec 3) (xl : BitVec 5) (imm : BitVec 28) (s : State) : Host.Outcome State Fault Refusal :=
  .next (issueOne (opBranch false xa cc xl imm) s)

/-- BRF (02 R46). -/
def execBrf (xa : BitVec 5) (cc : BitVec 3) (xl : BitVec 5) (imm : BitVec 28)
    (s : State) : Host.Outcome State Fault Refusal :=
  .next (issueOne (opBranch true xa cc xl imm) s)

/-- The indirect branch (02 R43). -/
def execBrIndirect (xa : BitVec 5) (cc : BitVec 3) (xl : BitVec 5) (s : State) : Host.Outcome State Fault Refusal :=
  .next (issueOne (opBrIndirect xa cc xl) s)

/-- LOOP (02 R47). -/
def execLoop (xc : BitVec 5) (ci : BitVec 9) (imm : BitVec 28) (s : State) : Host.Outcome State Fault Refusal :=
  .next (issueOne (opLoop xc ci imm) s)

/-- MODEW (02 R40). -/
def execModew (xa : BitVec 5) (s : State) : Host.Outcome State Fault Refusal :=
  .next (issueOne (opAt 0 condMode (doModew xa)) s)

/-- MODER (02 R40). -/
def execModer (xa : BitVec 5) (s : State) : Host.Outcome State Fault Refusal := .next (issueOne (plain 0 (doModer xa)) s)

/-- GMS (02 R41). -/
def execGms (xa : BitVec 5) (ch : BitVec 2) (gn : BitVec 3) (s : State) : Host.Outcome State Fault Refusal :=
  .next (issueOne (opOn 0 (condGms ch) (doGms xa ch gn)) s)

/-- GMC (02 R41). -/
def execGmc (gn : BitVec 3) (s : State) : Host.Outcome State Fault Refusal := .next (issueOne (opAt 0 condMode (doGmc gn)) s)

/-- PDROP (02 R42). -/
def execPdrop (pl : BitVec 2) (s : State) : Host.Outcome State Fault Refusal :=
  .next (issueOne (opAt 0 (condPdrop pl) (doPdrop pl)) s)

end Sys2Proof.Machine
end

