-- ==== Sys2Proof/Machine/TileCmds.lean ====
section
/-! DEFINITION. Tiles and arrays (05 R120 to R129, 06 R143 to R157, 09 R220). -/

namespace Sys2Proof.Machine
open Sys2Proof

/-- TCFG (05 R120, R122). -/
def execTcfg (o : TeMove) (s : State) : Host.Outcome State Fault Refusal :=
  .next (issueOne (opOver 2 o.gn (condTcfg o) (doTcfg o)) s)

/-- TLD (05 R124). -/
def execTld (o : TeMove) (s : State) : Host.Outcome State Fault Refusal :=
  .next (issueOne (opOver 2 o.gn (condMove 0 o) (doMove 0 o)) s)

/-- TST (05 R124). -/
def execTst (o : TeMove) (s : State) : Host.Outcome State Fault Refusal :=
  .next (issueOne (opOver 2 o.gn (condMove 1 o) (doMove 1 o)) s)

/-- SWL (06 R144). -/
def execSwl (o : TeMove) (s : State) : Host.Outcome State Fault Refusal :=
  .next (issueOne (opOver 2 o.gn (condMove 2 o) (doMove 2 o)) s)

/-- TMM (06 R143). -/
def execTmm (o : TeProd) (s : State) : Host.Outcome State Fault Refusal :=
  .next (issueOne (opOver 2 o.gn (condProd false o) (doProd o none)) s)

/-- TMMD (09 R220); none in compact form (02 R52). -/
def execTmmd (o : TeProd) (de : BitVec 6) (db : BitVec 3) (s : State) : Host.Outcome State Fault Refusal :=
  .next (issueOne (opOver 2 o.gn (fun s => condTmmd s.seq.compact o s) (doProd o (some (de.toNat, db.toNat)))) s)

/-- MVM (06 R156). -/
def execMvm (o : MvOps) (s : State) : Host.Outcome State Fault Refusal := .next (issueOne (opOver 4 o.gn (condMvm o) (doMvm o)) s)

end Sys2Proof.Machine
end

