-- ==== Sys2Proof/Machine/TrustCmds.lean ====
section
/-! DEFINITION. Firmware update, tokens, debug, attestation and discovery (16 R411 to R430, 17 R434, R449). -/

namespace Sys2Proof.Machine
open Sys2Proof

/-- UPDATE_VERIFY_COMPLETE (16 R418). -/
def execUpdateVerifyComplete (s : State) : Host.Outcome State Fault Refusal := .next (verifyUpdate s)

/-- UPDATE_ACTIVATION (16 R419). -/
def execUpdateActivation (failedEngines : List (BitVec 3)) (s : State) : Host.Outcome State Fault Refusal :=
  .next (activateUpdate s failedEngines)

/-- STEWARD_RESTART_COMPLETE (16 R419). -/
def execStewardRestartComplete (s : State) : Host.Outcome State Fault Refusal := .next (restartDone s)

/-- FLASH_WRITE_COMPLETE (16 R418). -/
def execFlashWriteComplete (s : State) : Host.Outcome State Fault Refusal := .next (flashDone s)

/-- UPDATE_ACTIVATE: a write of 1 to 1F50h:02 (16 R418). -/
def execUpdateActivate (cls : Cls) (s : State) : Host.Outcome State Fault Refusal := .next (answerWrite s cls 0x1F50 2 [1] [])

/-- UPDATE_ABORT: a write of 0 to 1F50h:02 (16 R419). -/
def execUpdateAbort (cls : Cls) (s : State) : Host.Outcome State Fault Refusal := .next (answerWrite s cls 0x1F50 2 [0] [])

/-- COMMIT_SECURITY_VERSIONS: a write of 1 to 5021h:01 (16 R416). -/
def execCommitSecurityVersions (cls : Cls) (s : State) : Host.Outcome State Fault Refusal :=
  .next (answerWrite s cls 0x5021 1 [1] [])

/-- DEBUG_CHALLENGE: a read of 5030h:01 (16 R428). -/
def execDebugChallenge (cls : Cls) (s : State) : Host.Outcome State Fault Refusal :=
  .next (answered s cls fun s => dictRead s cls 0x5030 1)

/-- CHALLENGE_EXPIRY (16 R428). -/
def execChallengeExpiry (s : State) : Host.Outcome State Fault Refusal := .next (challengeExpire s)

/-- DEBUG_TOKEN: a write of 5000h:03 (16 R428). -/
def execDebugToken (token : List Byte) (s : State) : Host.Outcome State Fault Refusal :=
  .next (answerWrite s .bmc 0x5000 3 token [])

/-- LIFECYCLE_TOKEN: a write of 5000h:03 (16 R429). -/
def execLifecycleToken (token : List Byte) (s : State) : Host.Outcome State Fault Refusal :=
  .next (answerWrite s .bmc 0x5000 3 token [])

/-- REVOCATION_TOKEN: a write of 5000h:03 (16 R414). -/
def execRevocationToken (token : List Byte) (s : State) : Host.Outcome State Fault Refusal :=
  .next (answerWrite s .bmc 0x5000 3 token [])

/-- DEBUG_LEVEL_REQUEST: a write of 5030h:02 (16 R428). -/
def execDebugLevelRequest (v : BitVec 8) (s : State) : Host.Outcome State Fault Refusal :=
  .next (answerWrite s .bmc 0x5030 2 [v] [])

/-- BYPASS (16 R426). -/
def execBypass (s : State) : Host.Outcome State Fault Refusal := .next (jtagBypass s)

/-- IDCODE (16 R426). -/
def execIdcode (s : State) : Host.Outcome State Fault Refusal := .next (jtagIdcode s)

/-- SAMPLE/PRELOAD (16 R426, Table 16-7). -/
def execSamplePreload (s : State) : Host.Outcome State Fault Refusal := .next (jtagSample s)

/-- EXTEST (16 R426, Table 16-7). -/
def execExtest (s : State) : Host.Outcome State Fault Refusal := .next (jtagExtest s)

/-- JTAG_DEBUG_ACCESS (16 R427). -/
def execJtagDebugAccess (write : Bool) (target : DebugTarget) (v : W64) (s : State) : Host.Outcome State Fault Refusal :=
  .next (debugAccess s write target v)

/-- JTAG_CHALLENGE_READ (16 R428). -/
def execJtagChallengeRead (s : State) : Host.Outcome State Fault Refusal := .next (jtagChallenge s)

/-- JTAG_TOKEN_WRITE (16 R428). -/
def execJtagTokenWrite (token : List Byte) (s : State) : Host.Outcome State Fault Refusal := .next (jtagToken s token)

/-- JTAG_RELOCK (16 R428). -/
def execJtagRelock (s : State) : Host.Outcome State Fault Refusal := .next (closeDebug s)

/-- DEBUG_HALT (16 R427). -/
def execDebugHalt (s : State) : Host.Outcome State Fault Refusal := .next (haltStream s)

/-- DEBUG_SINGLE_STEP (16 R427). -/
def execDebugSingleStep (s : State) : Host.Outcome State Fault Refusal := .next (singleStep s)

/-- GET_VERSION (16 R424). -/
def execGetVersion (s : State) : Host.Outcome State Fault Refusal := .next (spdmVersion s)

/-- GET_CAPABILITIES (16 R424). -/
def execGetCapabilities (s : State) : Host.Outcome State Fault Refusal := .next (spdmCapabilities s)

/-- NEGOTIATE_ALGORITHMS (16 R424). -/
def execNegotiateAlgorithms (offers : List Byte) (s : State) : Host.Outcome State Fault Refusal :=
  .next (spdmAlgorithms s offers)

/-- GET_DIGESTS (16 R424). -/
def execGetDigests (s : State) : Host.Outcome State Fault Refusal := .next (spdmDigests s)

/-- GET_CERTIFICATE (16 R424). -/
def execGetCertificate (slot : BitVec 8) (offset len : Nat) (s : State) : Host.Outcome State Fault Refusal :=
  .next (spdmCertificate s slot.toNat offset len)

/-- CHALLENGE (16 R425). -/
def execChallenge (slot : BitVec 8) (nonce : List Byte) (s : State) : Host.Outcome State Fault Refusal :=
  .next (spdmChallenge s slot.toNat nonce)

/-- GET_MEASUREMENTS (16 R425). -/
def execGetMeasurements (block : BitVec 8) (nonce : List Byte) (s : State) : Host.Outcome State Fault Refusal :=
  .next (spdmMeasurements s block.toNat nonce)

/-- GET_CSR (16 R424). -/
def execGetCsr (s : State) : Host.Outcome State Fault Refusal := .next (spdmCsr s)

/-- SET_CERTIFICATE (16 R424). -/
def execSetCertificate (slot : BitVec 8) (chain : List Byte) (s : State) : Host.Outcome State Fault Refusal :=
  .next (spdmSetCertificate s slot.toNat chain)

/-- Get Message Type Support (17 R449). -/
def execGetMessageTypeSupport (s : State) : Host.Outcome State Fault Refusal := .next (messageTypes s)

/-- Get Vendor Defined Message Support (17 R449). -/
def execGetVendorDefinedMessageSupport (selector : BitVec 8) (s : State) : Host.Outcome State Fault Refusal :=
  .next (vendorMessages s selector)

/-- DOE Discovery (17 R434). -/
def execDoeDiscovery (index : BitVec 8) (s : State) : Host.Outcome State Fault Refusal := .next (doeDiscover s index)

end Sys2Proof.Machine
end

