-- ==== Sys2Proof/Machine/VectorCmds.lean ====
section
/-! DEFINITION. The short-vector operations (04 R108 to R113). -/

namespace Sys2Proof.Machine
open Sys2Proof

/-- VADD (04 R108, R109). -/
def execVadd (o : SvOps) (s : State) : Host.Outcome State Fault Refusal := .next (issueOne (opOn 1 (condV2 o) (doVadd o)) s)

/-- VSUB (04 R108, R109). -/
def execVsub (o : SvOps) (s : State) : Host.Outcome State Fault Refusal := .next (issueOne (opOn 1 (condV2 o) (doVsub o)) s)

/-- VAND (04 R108, R109). -/
def execVand (o : SvOps) (s : State) : Host.Outcome State Fault Refusal := .next (issueOne (opOn 1 (condV2 o) (doVand o)) s)

/-- VOR (04 R108, R109). -/
def execVor (o : SvOps) (s : State) : Host.Outcome State Fault Refusal := .next (issueOne (opOn 1 (condV2 o) (doVor o)) s)

/-- VXOR (04 R108, R109). -/
def execVxor (o : SvOps) (s : State) : Host.Outcome State Fault Refusal := .next (issueOne (opOn 1 (condV2 o) (doVxor o)) s)

/-- VSHL (04 R108, R109). -/
def execVshl (o : SvOps) (s : State) : Host.Outcome State Fault Refusal := .next (issueOne (opOn 1 (condV2 o) (doVshl o)) s)

/-- VSHR (04 R108, R109). -/
def execVshr (o : SvOps) (s : State) : Host.Outcome State Fault Refusal := .next (issueOne (opOn 1 (condV2 o) (doVshr o)) s)

/-- VMIN (04 R108, R109). -/
def execVmin (o : SvOps) (s : State) : Host.Outcome State Fault Refusal := .next (issueOne (opOn 1 (condV2 o) (doVmin o)) s)

/-- VMAX (04 R108, R109). -/
def execVmax (o : SvOps) (s : State) : Host.Outcome State Fault Refusal := .next (issueOne (opOn 1 (condV2 o) (doVmax o)) s)

/-- VCEQ (04 R108, R109). -/
def execVceq (o : SvOps) (s : State) : Host.Outcome State Fault Refusal := .next (issueOne (opOn 1 (condV2 o) (doVceq o)) s)

/-- VCGT (04 R108, R109). -/
def execVcgt (o : SvOps) (s : State) : Host.Outcome State Fault Refusal := .next (issueOne (opOn 1 (condV2 o) (doVcgt o)) s)

/-- VSEL (04 R108). -/
def execVsel (o : SvOps) (s : State) : Host.Outcome State Fault Refusal := .next (issueOne (opOn 1 (condV3 o) (doVsel o)) s)

/-- VFADD (04 R110). -/
def execVfadd (o : SvOps) (s : State) : Host.Outcome State Fault Refusal := .next (issueOne (opVf2 o (doVfadd o)) s)

/-- VFSUB (04 R110). -/
def execVfsub (o : SvOps) (s : State) : Host.Outcome State Fault Refusal := .next (issueOne (opVf2 o (doVfsub o)) s)

/-- VFMUL (04 R110). -/
def execVfmul (o : SvOps) (s : State) : Host.Outcome State Fault Refusal := .next (issueOne (opVf2 o (doVfmul o)) s)

/-- VFMIN (04 R110). -/
def execVfmin (o : SvOps) (s : State) : Host.Outcome State Fault Refusal := .next (issueOne (opVf2 o (doVfmin o)) s)

/-- VFMAX (04 R110). -/
def execVfmax (o : SvOps) (s : State) : Host.Outcome State Fault Refusal := .next (issueOne (opVf2 o (doVfmax o)) s)

/-- VFCEQ (04 R110). -/
def execVfceq (o : SvOps) (s : State) : Host.Outcome State Fault Refusal := .next (issueOne (opVf2 o (doVfceq o)) s)

/-- VFCLT (04 R110). -/
def execVfclt (o : SvOps) (s : State) : Host.Outcome State Fault Refusal := .next (issueOne (opVf2 o (doVfclt o)) s)

/-- VFMA (04 R110). -/
def execVfma (o : SvOps) (s : State) : Host.Outcome State Fault Refusal := .next (issueOne (opOn 1 (condVf3 o) (doVfma o)) s)

/-- VWMUL (04 R111). -/
def execVwmul (o : SvOps) (s : State) : Host.Outcome State Fault Refusal :=
  .next (issueOne (opOn 1 (condVwmul o) (doVwmul o)) s)

/-- VDOT (04 R112). -/
def execVdot (o : SvOps) (s : State) : Host.Outcome State Fault Refusal := .next (issueOne (opOn 1 (condVdot o) (doVdot o)) s)

/-- VDUP (04 R108). -/
def execVdup (o : SvOps) (s : State) : Host.Outcome State Fault Refusal := .next (issueOne (opOn 1 (condVdup o) (doVdup o)) s)

/-- VLD (04 R113). -/
def execVld (o : SvMem) (s : State) : Host.Outcome State Fault Refusal := .next (issueOne (opOn 1 (condVmem o) (doVld o)) s)

/-- VST (04 R113). -/
def execVst (o : SvMem) (s : State) : Host.Outcome State Fault Refusal := .next (issueOne (opOn 1 (condVmem o) (doVst o)) s)

/-- VLDS (04 R113). -/
def execVlds (o : SvMem) (s : State) : Host.Outcome State Fault Refusal := .next (issueOne (opOn 1 (condVmem o) (doVlds o)) s)

/-- VSTS (04 R113). -/
def execVsts (o : SvMem) (s : State) : Host.Outcome State Fault Refusal := .next (issueOne (opOn 1 (condVmem o) (doVsts o)) s)

/-- VLDR (04 R113). -/
def execVldr (o : SvMem) (s : State) : Host.Outcome State Fault Refusal := .next (issueOne (opOn 1 (condVmem o) (doVldr o)) s)

end Sys2Proof.Machine
end

