-- ==== Sys2Proof/Machine/Dispatch.lean ====
section
/-! DEFINITION. The dispatch: one arm per command, one meaning per arm. -/

namespace Sys2Proof.Machine
open Sys2Proof

/-- The effect of a command on everything but the queue. -/
def exec (i : Instr) (s : State) : Host.Outcome State Fault Refusal :=
  match i with
  | .bundleIssue => Sys2Proof.Machine.execBundleIssue s
  | .faultEntry => Sys2Proof.Machine.execFaultEntry s
  | .interruptEntry => Sys2Proof.Machine.execInterruptEntry s
  | .watchdogExpiry => Sys2Proof.Machine.execWatchdogExpiry s
  | .waitHoldWatchdogExpiry => Sys2Proof.Machine.execWaitHoldWatchdogExpiry s
  | .pmsync => Sys2Proof.Machine.execPmsync s
  | .xret => Sys2Proof.Machine.execXret s
  | .halt => Sys2Proof.Machine.execHalt s
  | .br xa cc xl imm => Sys2Proof.Machine.execBr xa cc xl imm s
  | .brf xa cc xl imm => Sys2Proof.Machine.execBrf xa cc xl imm s
  | .brIndirect xa cc xl => Sys2Proof.Machine.execBrIndirect xa cc xl s
  | .loop xc ci imm => Sys2Proof.Machine.execLoop xc ci imm s
  | .modew xa => Sys2Proof.Machine.execModew xa s
  | .moder xa => Sys2Proof.Machine.execModer xa s
  | .gms xa ch gn => Sys2Proof.Machine.execGms xa ch gn s
  | .gmc gn => Sys2Proof.Machine.execGmc gn s
  | .pdrop pl => Sys2Proof.Machine.execPdrop pl s
  | .addi d a q imm => Sys2Proof.Machine.execAddi d a q imm s
  | .andi d a q imm => Sys2Proof.Machine.execAndi d a q imm s
  | .ori d a q imm => Sys2Proof.Machine.execOri d a q imm s
  | .xori d a q imm => Sys2Proof.Machine.execXori d a q imm s
  | .slli d a q imm => Sys2Proof.Machine.execSlli d a q imm s
  | .srli d a q imm => Sys2Proof.Machine.execSrli d a q imm s
  | .srai d a q imm => Sys2Proof.Machine.execSrai d a q imm s
  | .slti d a q imm => Sys2Proof.Machine.execSlti d a q imm s
  | .ldx d a q imm => Sys2Proof.Machine.execLdx d a q imm s
  | .ldf d a q imm => Sys2Proof.Machine.execLdf d a q imm s
  | .stx d a q imm => Sys2Proof.Machine.execStx d a q imm s
  | .stf d a q imm => Sys2Proof.Machine.execStf d a q imm s
  | .ctlr d a q imm => Sys2Proof.Machine.execCtlr d a q imm s
  | .ctlw d a q imm => Sys2Proof.Machine.execCtlw d a q imm s
  | .conx d a q imm => Sys2Proof.Machine.execConx d a q imm s
  | .conf d a q imm => Sys2Proof.Machine.execConf d a q imm s
  | .add d a q b fn => Sys2Proof.Machine.execAdd d a q b fn s
  | .sub d a q b fn => Sys2Proof.Machine.execSub d a q b fn s
  | .and d a q b fn => Sys2Proof.Machine.execAnd d a q b fn s
  | .or d a q b fn => Sys2Proof.Machine.execOr d a q b fn s
  | .xor d a q b fn => Sys2Proof.Machine.execXor d a q b fn s
  | .sll d a q b fn => Sys2Proof.Machine.execSll d a q b fn s
  | .srl d a q b fn => Sys2Proof.Machine.execSrl d a q b fn s
  | .sra d a q b fn => Sys2Proof.Machine.execSra d a q b fn s
  | .slt d a q b fn => Sys2Proof.Machine.execSlt d a q b fn s
  | .sltu d a q b fn => Sys2Proof.Machine.execSltu d a q b fn s
  | .mul d a q b fn => Sys2Proof.Machine.execMul d a q b fn s
  | .mulh d a q b fn => Sys2Proof.Machine.execMulh d a q b fn s
  | .mulhu d a q b fn => Sys2Proof.Machine.execMulhu d a q b fn s
  | .div d a q b fn => Sys2Proof.Machine.execDiv d a q b fn s
  | .divu d a q b fn => Sys2Proof.Machine.execDivu d a q b fn s
  | .rem d a q b fn => Sys2Proof.Machine.execRem d a q b fn s
  | .remu d a q b fn => Sys2Proof.Machine.execRemu d a q b fn s
  | .movxf d a q b fn => Sys2Proof.Machine.execMovxf d a q b fn s
  | .movfx d a q b fn => Sys2Proof.Machine.execMovfx d a q b fn s
  | .fadd d a q b fn => Sys2Proof.Machine.execFadd d a q b fn s
  | .fsub d a q b fn => Sys2Proof.Machine.execFsub d a q b fn s
  | .fmul d a q b fn => Sys2Proof.Machine.execFmul d a q b fn s
  | .fma d a q b fn => Sys2Proof.Machine.execFma d a q b fn s
  | .fdiv d a q b fn => Sys2Proof.Machine.execFdiv d a q b fn s
  | .fsqrt d a q b fn => Sys2Proof.Machine.execFsqrt d a q b fn s
  | .fmin d a q b fn => Sys2Proof.Machine.execFmin d a q b fn s
  | .fmax d a q b fn => Sys2Proof.Machine.execFmax d a q b fn s
  | .feq d a q b fn => Sys2Proof.Machine.execFeq d a q b fn s
  | .flt d a q b fn => Sys2Proof.Machine.execFlt d a q b fn s
  | .fle d a q b fn => Sys2Proof.Machine.execFle d a q b fn s
  | .fcvt d a q b fn => Sys2Proof.Machine.execFcvt d a q b fn s
  | .vadd o => Sys2Proof.Machine.execVadd o s
  | .vsub o => Sys2Proof.Machine.execVsub o s
  | .vand o => Sys2Proof.Machine.execVand o s
  | .vor o => Sys2Proof.Machine.execVor o s
  | .vxor o => Sys2Proof.Machine.execVxor o s
  | .vshl o => Sys2Proof.Machine.execVshl o s
  | .vshr o => Sys2Proof.Machine.execVshr o s
  | .vmin o => Sys2Proof.Machine.execVmin o s
  | .vmax o => Sys2Proof.Machine.execVmax o s
  | .vceq o => Sys2Proof.Machine.execVceq o s
  | .vcgt o => Sys2Proof.Machine.execVcgt o s
  | .vsel o => Sys2Proof.Machine.execVsel o s
  | .vfadd o => Sys2Proof.Machine.execVfadd o s
  | .vfsub o => Sys2Proof.Machine.execVfsub o s
  | .vfmul o => Sys2Proof.Machine.execVfmul o s
  | .vfma o => Sys2Proof.Machine.execVfma o s
  | .vfmin o => Sys2Proof.Machine.execVfmin o s
  | .vfmax o => Sys2Proof.Machine.execVfmax o s
  | .vfceq o => Sys2Proof.Machine.execVfceq o s
  | .vfclt o => Sys2Proof.Machine.execVfclt o s
  | .vwmul o => Sys2Proof.Machine.execVwmul o s
  | .vdot o => Sys2Proof.Machine.execVdot o s
  | .vdup o => Sys2Proof.Machine.execVdup o s
  | .vld o => Sys2Proof.Machine.execVld o s
  | .vst o => Sys2Proof.Machine.execVst o s
  | .vlds o => Sys2Proof.Machine.execVlds o s
  | .vsts o => Sys2Proof.Machine.execVsts o s
  | .vldr o => Sys2Proof.Machine.execVldr o s
  | .tcfg o => Sys2Proof.Machine.execTcfg o s
  | .tld o => Sys2Proof.Machine.execTld o s
  | .tst o => Sys2Proof.Machine.execTst o s
  | .swl o => Sys2Proof.Machine.execSwl o s
  | .tmm o => Sys2Proof.Machine.execTmm o s
  | .tmmd o de db => Sys2Proof.Machine.execTmmd o de db s
  | .mvm o => Sys2Proof.Machine.execMvm o s
  | .veFadd o => Sys2Proof.Machine.execVeFadd o s
  | .veFsub o => Sys2Proof.Machine.execVeFsub o s
  | .veFmul o => Sys2Proof.Machine.execVeFmul o s
  | .veFma o => Sys2Proof.Machine.execVeFma o s
  | .frcp o => Sys2Proof.Machine.execFrcp o s
  | .veFsqrt o => Sys2Proof.Machine.execVeFsqrt o s
  | .frsqrt o => Sys2Proof.Machine.execFrsqrt o s
  | .fscale o => Sys2Proof.Machine.execFscale o s
  | .veFmin o => Sys2Proof.Machine.execVeFmin o s
  | .veFmax o => Sys2Proof.Machine.execVeFmax o s
  | .fabs o => Sys2Proof.Machine.execFabs o s
  | .fneg o => Sys2Proof.Machine.execFneg o s
  | .veAdd o => Sys2Proof.Machine.execVeAdd o s
  | .veSub o => Sys2Proof.Machine.execVeSub o s
  | .veMul o => Sys2Proof.Machine.execVeMul o s
  | .addu o => Sys2Proof.Machine.execAddu o s
  | .subu o => Sys2Proof.Machine.execSubu o s
  | .mulu o => Sys2Proof.Machine.execMulu o s
  | .min o => Sys2Proof.Machine.execMin o s
  | .max o => Sys2Proof.Machine.execMax o s
  | .minu o => Sys2Proof.Machine.execMinu o s
  | .maxu o => Sys2Proof.Machine.execMaxu o s
  | .veAnd o => Sys2Proof.Machine.execVeAnd o s
  | .veOr o => Sys2Proof.Machine.execVeOr o s
  | .veXor o => Sys2Proof.Machine.execVeXor o s
  | .andn o => Sys2Proof.Machine.execAndn o s
  | .shl o => Sys2Proof.Machine.execShl o s
  | .shr o => Sys2Proof.Machine.execShr o s
  | .veSra o => Sys2Proof.Machine.execVeSra o s
  | .mov o => Sys2Proof.Machine.execMov o s
  | .bcst o => Sys2Proof.Machine.execBcst o s
  | .iota o => Sys2Proof.Machine.execIota o s
  | .ceq o => Sys2Proof.Machine.execCeq o s
  | .clt o => Sys2Proof.Machine.execClt o s
  | .cltu o => Sys2Proof.Machine.execCltu o s
  | .fceq o => Sys2Proof.Machine.execFceq o s
  | .fclt o => Sys2Proof.Machine.execFclt o s
  | .fcle o => Sys2Proof.Machine.execFcle o s
  | .sel o => Sys2Proof.Machine.execSel o s
  | .cvtn o => Sys2Proof.Machine.execCvtn o s
  | .cvtw o => Sys2Proof.Machine.execCvtw o s
  | .gath o => Sys2Proof.Machine.execGath o s
  | .scat o => Sys2Proof.Machine.execScat o s
  | .ldl o => Sys2Proof.Machine.execLdl o s
  | .stl o => Sys2Proof.Machine.execStl o s
  | .ldb o => Sys2Proof.Machine.execLdb o s
  | .feval o => Sys2Proof.Machine.execFeval o s
  | .fdrv o => Sys2Proof.Machine.execFdrv o s
  | .ftld o => Sys2Proof.Machine.execFtld o s
  | .rdrop o => Sys2Proof.Machine.execRdrop o s
  | .rmask o => Sys2Proof.Machine.execRmask o s
  | .rsum o => Sys2Proof.Machine.execRsum o s
  | .rmax o => Sys2Proof.Machine.execRmax o s
  | .rmin o => Sys2Proof.Machine.execRmin o s
  | .ramax o => Sys2Proof.Machine.execRamax o s
  | .risum o => Sys2Proof.Machine.execRisum o s
  | .coprocessorOpcode op o => Sys2Proof.Machine.execCoprocessorOpcode op o s
  | .dmaIssue xd gn tag => Sys2Proof.Machine.execDmaIssue xd gn tag s
  | .dmw gn tag => Sys2Proof.Machine.execDmw gn tag s
  | .collectiveIssue xd tag => Sys2Proof.Machine.execCollectiveIssue xd tag s
  | .clw tag => Sys2Proof.Machine.execClw tag s
  | .rbeat x => Sys2Proof.Machine.execRbeat x s
  | .rang x => Sys2Proof.Machine.execRang x s
  | .wbeat x => Sys2Proof.Machine.execWbeat x s
  | .mark imm => Sys2Proof.Machine.execMark imm s
  | .beatBoundary seq1CrcOk => Sys2Proof.Machine.execBeatBoundary seq1CrcOk s
  | .streamStartAfterWake => Sys2Proof.Machine.execStreamStartAfterWake s
  | .beatRootEnable => Sys2Proof.Machine.execBeatRootEnable s
  | .beatPeriodSwitch => Sys2Proof.Machine.execBeatPeriodSwitch s
  | .backupRootTakeover => Sys2Proof.Machine.execBackupRootTakeover s
  | .holdoverExpiry => Sys2Proof.Machine.execHoldoverExpiry s
  | .beatReacquired port count => Sys2Proof.Machine.execBeatReacquired port count s
  | .sxSwiWrite v => Sys2Proof.Machine.execSxSwiWrite v s
  | .sxTinvWrite v => Sys2Proof.Machine.execSxTinvWrite v s
  | .sxBcmpWrite v => Sys2Proof.Machine.execSxBcmpWrite v s
  | .mxWdtWrite v => Sys2Proof.Machine.execMxWdtWrite v s
  | .tpr0Write v => Sys2Proof.Machine.execTpr0Write v s
  | .scctlWrite v => Sys2Proof.Machine.execScctlWrite v s
  | .scldqWrite v => Sys2Proof.Machine.execScldqWrite v s
  | .cpentWrite v => Sys2Proof.Machine.execCpentWrite v s
  | .msopWrite v => Sys2Proof.Machine.execMsopWrite v s
  | .cqw0Write v => Sys2Proof.Machine.execCqw0Write v s
  | .dcrepWrite v => Sys2Proof.Machine.execDcrepWrite v s
  | .odcmdWrite v => Sys2Proof.Machine.execOdcmdWrite v s
  | .dmaAccept slice => Sys2Proof.Machine.execDmaAccept slice s
  | .copy slice => Sys2Proof.Machine.execCopy slice s
  | .fill slice => Sys2Proof.Machine.execFill slice s
  | .scaledConversion slice => Sys2Proof.Machine.execScaledConversion slice s
  | .cachePrefetch slice => Sys2Proof.Machine.execCachePrefetch slice s
  | .stashPut slice => Sys2Proof.Machine.execStashPut slice s
  | .stashGet slice => Sys2Proof.Machine.execStashGet slice s
  | .stashRelease slice => Sys2Proof.Machine.execStashRelease slice s
  | .dmaRequestIssue slice => Sys2Proof.Machine.execDmaRequestIssue slice s
  | .dmaRequestComplete slice req => Sys2Proof.Machine.execDmaRequestComplete slice req s
  | .dmaRequestTimeout slice req => Sys2Proof.Machine.execDmaRequestTimeout slice req s
  | .serviceBoundExceeded slice req => Sys2Proof.Machine.execServiceBoundExceeded slice req s
  | .scaledConversionPassEnd slot => Sys2Proof.Machine.execScaledConversionPassEnd slot s
  | .collectiveAccept => Sys2Proof.Machine.execCollectiveAccept s
  | .reduceScatter tag => Sys2Proof.Machine.execReduceScatter tag s
  | .allGather tag => Sys2Proof.Machine.execAllGather tag s
  | .closeVote tag => Sys2Proof.Machine.execCloseVote tag s
  | .collectiveOpen tag => Sys2Proof.Machine.execCollectiveOpen tag s
  | .collectiveMessageComplete bucket peer pk dim body tally status digest => Sys2Proof.Machine.execCollectiveMessageComplete bucket peer pk dim body tally status digest s
  | .collectiveDeadline tag => Sys2Proof.Machine.execCollectiveDeadline tag s
  | .earlyArrivalResend tag peer => Sys2Proof.Machine.execEarlyArrivalResend tag peer s
  | .voteCommit tag => Sys2Proof.Machine.execVoteCommit tag s
  | .tocsinReceived port src ts => Sys2Proof.Machine.execTocsinReceived port src ts s
  | .frameReceived port frame flits => Sys2Proof.Machine.execFrameReceived port frame flits s
  | .flitSend port => Sys2Proof.Machine.execFlitSend port s
  | .ethernetFrameReceived port fcsOk sender seq flits => Sys2Proof.Machine.execEthernetFrameReceived port fcsOk sender seq flits s
  | .trainingStepDone port info => Sys2Proof.Machine.execTrainingStepDone port info s
  | .trainingStepTimeout port => Sys2Proof.Machine.execTrainingStepTimeout port s
  | .portDarkTimeout port => Sys2Proof.Machine.execPortDarkTimeout port s
  | .laneSwapSwitch port => Sys2Proof.Machine.execLaneSwapSwitch port s
  | .shroudSenseChange mated => Sys2Proof.Machine.execShroudSenseChange mated s
  | .patrolScrubRead far => Sys2Proof.Machine.execPatrolScrubRead far s
  | .correctionWriteback addr => Sys2Proof.Machine.execCorrectionWriteback addr s
  | .correctionSummaryExpiry ucls unit => Sys2Proof.Machine.execCorrectionSummaryExpiry ucls unit s
  | .comparisonComplete outcome => Sys2Proof.Machine.execComparisonComplete outcome s
  | .retirementSwitch ucls unit => Sys2Proof.Machine.execRetirementSwitch ucls unit s
  | .pealComplete passed failed bad => Sys2Proof.Machine.execPealComplete passed failed bad s
  | .pealWindowExpiry => Sys2Proof.Machine.execPealWindowExpiry s
  | .spotCheckComplete quarter differs elem bank => Sys2Proof.Machine.execSpotCheckComplete quarter differs elem bank s
  | .secureStratum1 own arg => Sys2Proof.Machine.execSecureStratum1 own arg s
  | .secureStratum2 own arg => Sys2Proof.Machine.execSecureStratum2 own arg s
  | .secureStratum3 own arg => Sys2Proof.Machine.execSecureStratum3 own arg s
  | .returnGuestImage own arg => Sys2Proof.Machine.execReturnGuestImage own arg s
  | .restoreAfterReturn own arg => Sys2Proof.Machine.execRestoreAfterReturn own arg s
  | .restoreFromNvme own arg => Sys2Proof.Machine.execRestoreFromNvme own arg s
  | .restoreAfterHostWrite own arg => Sys2Proof.Machine.execRestoreAfterHostWrite own arg s
  | .nvmeCommandComplete ok data => Sys2Proof.Machine.execNvmeCommandComplete ok data s
  | .powerEstimate activity quarterUj queueUj => Sys2Proof.Machine.execPowerEstimate activity quarterUj queueUj s
  | .estimatorGainCorrection measuredMw estimatedMw => Sys2Proof.Machine.execEstimatorGainCorrection measuredMw estimatedMw s
  | .muteChangeEffect => Sys2Proof.Machine.execMuteChangeEffect s
  | .dvfsClockSwitch => Sys2Proof.Machine.execDvfsClockSwitch s
  | .droopTrip detector => Sys2Proof.Machine.execDroopTrip detector s
  | .droopRecovery => Sys2Proof.Machine.execDroopRecovery s
  | .droopMuteStep => Sys2Proof.Machine.execDroopMuteStep s
  | .thermalSensorRead sensors stackTemps => Sys2Proof.Machine.execThermalSensorRead sensors stackTemps s
  | .powerTransitionBegin => Sys2Proof.Machine.execPowerTransitionBegin s
  | .powerTransitionComplete modules => Sys2Proof.Machine.execPowerTransitionComplete modules s
  | .p48vRise => Sys2Proof.Machine.execP48vRise s
  | .aonResetRelease straps => Sys2Proof.Machine.execAonResetRelease straps s
  | .romBootComplete => Sys2Proof.Machine.execRomBootComplete s
  | .stewardFirmwareReady => Sys2Proof.Machine.execStewardFirmwareReady s
  | .resetNAssert us => Sys2Proof.Machine.execResetNAssert us s
  | .brownout resetToo => Sys2Proof.Machine.execBrownout resetToo s
  | .overvoltage resetToo => Sys2Proof.Machine.execOvervoltage resetToo s
  | .inputRecovery => Sys2Proof.Machine.execInputRecovery s
  | .pePerstNChange high => Sys2Proof.Machine.execPePerstNChange high s
  | .updateVerifyComplete => Sys2Proof.Machine.execUpdateVerifyComplete s
  | .updateActivation failedEngines => Sys2Proof.Machine.execUpdateActivation failedEngines s
  | .stewardRestartComplete => Sys2Proof.Machine.execStewardRestartComplete s
  | .flashWriteComplete => Sys2Proof.Machine.execFlashWriteComplete s
  | .updateActivate cls => Sys2Proof.Machine.execUpdateActivate cls s
  | .updateAbort cls => Sys2Proof.Machine.execUpdateAbort cls s
  | .commitSecurityVersions cls => Sys2Proof.Machine.execCommitSecurityVersions cls s
  | .debugChallenge cls => Sys2Proof.Machine.execDebugChallenge cls s
  | .challengeExpiry => Sys2Proof.Machine.execChallengeExpiry s
  | .debugToken token => Sys2Proof.Machine.execDebugToken token s
  | .lifecycleToken token => Sys2Proof.Machine.execLifecycleToken token s
  | .revocationToken token => Sys2Proof.Machine.execRevocationToken token s
  | .debugLevelRequest v => Sys2Proof.Machine.execDebugLevelRequest v s
  | .bypass => Sys2Proof.Machine.execBypass s
  | .idcode => Sys2Proof.Machine.execIdcode s
  | .samplePreload => Sys2Proof.Machine.execSamplePreload s
  | .extest => Sys2Proof.Machine.execExtest s
  | .jtagDebugAccess write target v => Sys2Proof.Machine.execJtagDebugAccess write target v s
  | .jtagChallengeRead => Sys2Proof.Machine.execJtagChallengeRead s
  | .jtagTokenWrite token => Sys2Proof.Machine.execJtagTokenWrite token s
  | .jtagRelock => Sys2Proof.Machine.execJtagRelock s
  | .debugHalt => Sys2Proof.Machine.execDebugHalt s
  | .debugSingleStep => Sys2Proof.Machine.execDebugSingleStep s
  | .getVersion => Sys2Proof.Machine.execGetVersion s
  | .getCapabilities => Sys2Proof.Machine.execGetCapabilities s
  | .negotiateAlgorithms offers => Sys2Proof.Machine.execNegotiateAlgorithms offers s
  | .getDigests => Sys2Proof.Machine.execGetDigests s
  | .getCertificate slot offset len => Sys2Proof.Machine.execGetCertificate slot offset len s
  | .challenge slot nonce => Sys2Proof.Machine.execChallenge slot nonce s
  | .getMeasurements block nonce => Sys2Proof.Machine.execGetMeasurements block nonce s
  | .getCsr => Sys2Proof.Machine.execGetCsr s
  | .setCertificate slot chain => Sys2Proof.Machine.execSetCertificate slot chain s
  | .getMessageTypeSupport => Sys2Proof.Machine.execGetMessageTypeSupport s
  | .getVendorDefinedMessageSupport selector => Sys2Proof.Machine.execGetVendorDefinedMessageSupport selector s
  | .doeDiscovery index => Sys2Proof.Machine.execDoeDiscovery index s
  | .readObject cls idx sub => Sys2Proof.Machine.execReadObject cls idx sub s
  | .writeObject cls idx sub data => Sys2Proof.Machine.execWriteObject cls idx sub data s
  | .describeObject cls idx sub => Sys2Proof.Machine.execDescribeObject cls idx sub s
  | .openSession cls tag idx sub write => Sys2Proof.Machine.execOpenSession cls tag idx sub write s
  | .segment cls ofs len data => Sys2Proof.Machine.execSegment cls ofs len data s
  | .closeSession cls => Sys2Proof.Machine.execCloseSession cls s
  | .abortRequest cls tag => Sys2Proof.Machine.execAbortRequest cls tag s
  | .viewObject cls idx sub => Sys2Proof.Machine.execViewObject cls idx sub s
  | .sessionTimeout cls => Sys2Proof.Machine.execSessionTimeout cls s
  | .pealInstall cls package => Sys2Proof.Machine.execPealInstall cls package s
  | .requestedStateWrite cls v => Sys2Proof.Machine.execRequestedStateWrite cls v s
  | .pmcsrWrite v => Sys2Proof.Machine.execPmcsrWrite v s
  | .pcieEnableWrite cls v => Sys2Proof.Machine.execPcieEnableWrite cls v s
  | .laserEnableWrite cls v ids => Sys2Proof.Machine.execLaserEnableWrite cls v ids s
  | .marlEnableWrite cls v spd => Sys2Proof.Machine.execMarlEnableWrite cls v spd s
  | .ownerKeySetProvision cls set hashes => Sys2Proof.Machine.execOwnerKeySetProvision cls set hashes s
  | .stratum3StoredSeqWrite cls v => Sys2Proof.Machine.execStratum3StoredSeqWrite cls v s
  | .dpost len => Sys2Proof.Machine.execDpost len s
  | .hqenWrite v => Sys2Proof.Machine.execHqenWrite v s
  | .hostCueStageWrite entry word v => Sys2Proof.Machine.execHostCueStageWrite entry word v s
  | .hostCueW0Write entry v => Sys2Proof.Machine.execHostCueW0Write entry v s
  | .hostMemoryRead bar offset len => Sys2Proof.Machine.execHostMemoryRead bar offset len s
  | .hostMemoryWrite bar offset data => Sys2Proof.Machine.execHostMemoryWrite bar offset data s
  | .pcieLinkTrained rate width => Sys2Proof.Machine.execPcieLinkTrained rate width s
  | .functionLevelReset => Sys2Proof.Machine.execFunctionLevelReset s
  | .flashPortLinkUp id => Sys2Proof.Machine.execFlashPortLinkUp id s
  | .modulePresenceLoss code => Sys2Proof.Machine.execModulePresenceLoss code s
  | .flashPortTrainingTimeout => Sys2Proof.Machine.execFlashPortTrainingTimeout s
  | .clayEnableWrite cls v => Sys2Proof.Machine.execClayEnableWrite cls v s
  | .portModeWrite cls port v ids => Sys2Proof.Machine.execPortModeWrite cls port v ids s
  | .flashPortEnableWrite cls v => Sys2Proof.Machine.execFlashPortEnableWrite cls v s
  | .beatPeriodWrite cls v => Sys2Proof.Machine.execBeatPeriodWrite cls v s
  | .controlWindowWrite offset v => Sys2Proof.Machine.execControlWindowWrite offset v s
  | .configurationWrite fieldName v => Sys2Proof.Machine.execConfigurationWrite fieldName v s

end Sys2Proof.Machine
end

