-- ==== Sys2Proof/WellFormed.lean ====
section
/-! DEFINITION. Which commands can be sent: the sizes that a command's own parts must have. A command whose operands the spec gives
a refusal or a fault is well-formed; what happens to it is its meaning. -/

namespace Sys2Proof

/-- The bits of an assembled immediate (02 R38, Table 2-8). -/
def ImmWidth.bits (w : ImmWidth) : Nat :=
  match w with
  | .w14 => 14
  | .w28 => 28
  | .w42 => 42
  | .w12 => 12
  | .w24 => 24
  | .w36 => 36

/-- An immediate has no bit above its width. -/
def Imm.wf (i : Imm) : Bool := decide (i.bits.toNat < 2 ^ i.width.bits)

/-- The immediate of a VE operation, if it has one. -/
def VeOps.wf (o : VeOps) : Bool :=
  match o.imm with
  | some i => i.wf
  | none => true

/-- What a decoder finds names one of 18 symbols, and an error that is corrected or is not has neither the syndrome of a good word nor that
of poison (13 R341, Table 13-2). -/
def Mark.wf (m : Mark) : Bool :=
  match m with
  | .good | .poison => true
  | .corrected sym y => decide (sym < 18) && decide (y ≠ 0) && decide (y ≠ 0x5A5A)
  | .uncorrectable y => decide (y ≠ 0) && decide (y ≠ 0x5A5A)

/-- A flit has sixteen words, each with what its decoder found (11 R274). -/
def Flit.wf (f : Flit) : Bool := decide (f.words.length = 16) && decide (f.marks.length = 16) && f.marks.all Mark.wf

/-- A framing slice carries the freed places of six channels (11 Table 11-4). -/
def Framing.wf (f : Framing) : Bool := decide (f.freed.length = 6)

/-- What a debug access names exists: slices 0 to 159, toll records, ledger entries and trace entries by their place
(16 R427). -/
def DebugTarget.wf (t : DebugTarget) : Bool :=
  match t with
  | .lreg slice _ _ => decide (slice < 160)
  | .bank slice _ _ => decide (slice < 160)
  | .frag slice _ _ => decide (slice < 160)
  | .toll k => decide (k < 4096)
  | .trace k => decide (k < 4096)
  | .pc | .mode | .ctl _ | .object _ _ | .ledger _ | .xreg _ | .freg _ | .mem _ | .steward _ => true

/-- A command is well-formed. -/
def Instr.wf (i : Instr) : Bool :=
  match i with
  | .bundleIssue => true
  | .faultEntry => true
  | .interruptEntry => true
  | .watchdogExpiry => true
  | .waitHoldWatchdogExpiry => true
  | .pmsync => true
  | .xret => true
  | .halt => true
  | .br _ _ _ _ => true
  | .brf _ _ _ _ => true
  | .brIndirect _ _ _ => true
  | .loop _ _ _ => true
  | .modew _ => true
  | .moder _ => true
  | .gms _ _ _ => true
  | .gmc _ => true
  | .pdrop _ => true
  | .addi _ _ _ imm => imm.wf
  | .andi _ _ _ imm => imm.wf
  | .ori _ _ _ imm => imm.wf
  | .xori _ _ _ imm => imm.wf
  | .slli _ _ _ imm => imm.wf
  | .srli _ _ _ imm => imm.wf
  | .srai _ _ _ imm => imm.wf
  | .slti _ _ _ imm => imm.wf
  | .ldx _ _ _ imm => imm.wf
  | .ldf _ _ _ imm => imm.wf
  | .stx _ _ _ imm => imm.wf
  | .stf _ _ _ imm => imm.wf
  | .ctlr _ _ _ imm => imm.wf
  | .ctlw _ _ _ imm => imm.wf
  | .conx _ _ _ imm => imm.wf
  | .conf _ _ _ imm => imm.wf
  | .add _ _ _ _ _ => true
  | .sub _ _ _ _ _ => true
  | .and _ _ _ _ _ => true
  | .or _ _ _ _ _ => true
  | .xor _ _ _ _ _ => true
  | .sll _ _ _ _ _ => true
  | .srl _ _ _ _ _ => true
  | .sra _ _ _ _ _ => true
  | .slt _ _ _ _ _ => true
  | .sltu _ _ _ _ _ => true
  | .mul _ _ _ _ _ => true
  | .mulh _ _ _ _ _ => true
  | .mulhu _ _ _ _ _ => true
  | .div _ _ _ _ _ => true
  | .divu _ _ _ _ _ => true
  | .rem _ _ _ _ _ => true
  | .remu _ _ _ _ _ => true
  | .movxf _ _ _ _ _ => true
  | .movfx _ _ _ _ _ => true
  | .fadd _ _ _ _ _ => true
  | .fsub _ _ _ _ _ => true
  | .fmul _ _ _ _ _ => true
  | .fma _ _ _ _ _ => true
  | .fdiv _ _ _ _ _ => true
  | .fsqrt _ _ _ _ _ => true
  | .fmin _ _ _ _ _ => true
  | .fmax _ _ _ _ _ => true
  | .feq _ _ _ _ _ => true
  | .flt _ _ _ _ _ => true
  | .fle _ _ _ _ _ => true
  | .fcvt _ _ _ _ _ => true
  | .vadd _ => true
  | .vsub _ => true
  | .vand _ => true
  | .vor _ => true
  | .vxor _ => true
  | .vshl _ => true
  | .vshr _ => true
  | .vmin _ => true
  | .vmax _ => true
  | .vceq _ => true
  | .vcgt _ => true
  | .vsel _ => true
  | .vfadd _ => true
  | .vfsub _ => true
  | .vfmul _ => true
  | .vfma _ => true
  | .vfmin _ => true
  | .vfmax _ => true
  | .vfceq _ => true
  | .vfclt _ => true
  | .vwmul _ => true
  | .vdot _ => true
  | .vdup _ => true
  | .vld _ => true
  | .vst _ => true
  | .vlds _ => true
  | .vsts _ => true
  | .vldr _ => true
  | .tcfg _ => true
  | .tld _ => true
  | .tst _ => true
  | .swl _ => true
  | .tmm _ => true
  | .tmmd _ _ _ => true
  | .mvm _ => true
  | .veFadd o => o.wf
  | .veFsub o => o.wf
  | .veFmul o => o.wf
  | .veFma o => o.wf
  | .frcp o => o.wf
  | .veFsqrt o => o.wf
  | .frsqrt o => o.wf
  | .fscale o => o.wf
  | .veFmin o => o.wf
  | .veFmax o => o.wf
  | .fabs o => o.wf
  | .fneg o => o.wf
  | .veAdd o => o.wf
  | .veSub o => o.wf
  | .veMul o => o.wf
  | .addu o => o.wf
  | .subu o => o.wf
  | .mulu o => o.wf
  | .min o => o.wf
  | .max o => o.wf
  | .minu o => o.wf
  | .maxu o => o.wf
  | .veAnd o => o.wf
  | .veOr o => o.wf
  | .veXor o => o.wf
  | .andn o => o.wf
  | .shl o => o.wf
  | .shr o => o.wf
  | .veSra o => o.wf
  | .mov o => o.wf
  | .bcst o => o.wf
  | .iota o => o.wf
  | .ceq o => o.wf
  | .clt o => o.wf
  | .cltu o => o.wf
  | .fceq o => o.wf
  | .fclt o => o.wf
  | .fcle o => o.wf
  | .sel o => o.wf
  | .cvtn o => o.wf
  | .cvtw o => o.wf
  | .gath o => o.wf
  | .scat o => o.wf
  | .ldl o => o.wf
  | .stl o => o.wf
  | .ldb o => o.wf
  | .feval o => o.wf
  | .fdrv o => o.wf
  | .ftld o => o.wf
  | .rdrop o => o.wf
  | .rmask o => o.wf
  | .rsum o => o.wf
  | .rmax o => o.wf
  | .rmin o => o.wf
  | .ramax o => o.wf
  | .risum o => o.wf
  | .coprocessorOpcode _ o => o.wf
  | .dmaIssue _ _ _ => true
  | .dmw _ _ => true
  | .collectiveIssue _ _ => true
  | .clw _ => true
  | .rbeat _ => true
  | .rang _ => true
  | .wbeat _ => true
  | .mark _ => true
  | .beatBoundary _ => true
  | .streamStartAfterWake => true
  | .beatRootEnable => true
  | .beatPeriodSwitch => true
  | .backupRootTakeover => true
  | .holdoverExpiry => true
  | .beatReacquired _ _ => true
  | .sxSwiWrite _ => true
  | .sxTinvWrite _ => true
  | .sxBcmpWrite _ => true
  | .mxWdtWrite _ => true
  | .tpr0Write _ => true
  | .scctlWrite _ => true
  | .scldqWrite _ => true
  | .cpentWrite _ => true
  | .msopWrite _ => true
  | .cqw0Write _ => true
  | .dcrepWrite _ => true
  | .odcmdWrite _ => true
  | .dmaAccept slice => decide (slice.toNat < 160)
  | .copy slice => decide (slice.toNat < 160)
  | .fill slice => decide (slice.toNat < 160)
  | .scaledConversion slice => decide (slice.toNat < 160)
  | .cachePrefetch slice => decide (slice.toNat < 160)
  | .stashPut slice => decide (slice.toNat < 160)
  | .stashGet slice => decide (slice.toNat < 160)
  | .stashRelease slice => decide (slice.toNat < 160)
  | .dmaRequestIssue slice => decide (slice.toNat < 160)
  | .dmaRequestComplete slice _ => decide (slice.toNat < 160)
  | .dmaRequestTimeout slice _ => decide (slice.toNat < 160)
  | .serviceBoundExceeded slice _ => decide (slice.toNat < 160)
  | .scaledConversionPassEnd _ => true
  | .collectiveAccept => true
  | .reduceScatter _ => true
  | .allGather _ => true
  | .closeVote _ => true
  | .collectiveOpen _ => true
  | .collectiveMessageComplete _ _ _ _ _ _ _ _ => true
  | .collectiveDeadline _ => true
  | .earlyArrivalResend _ _ => true
  | .voteCommit _ => true
  | .tocsinReceived _ _ _ => true
  | .frameReceived _ frame flits => frame.wf && decide (flits.length ≤ 16) && flits.all Flit.wf
  | .flitSend _ => true
  | .ethernetFrameReceived _ _ _ _ flits => decide (1 ≤ flits.length) && decide (flits.length ≤ 31) && flits.all Flit.wf
  | .trainingStepDone _ info => decide (info.lanes ≤ 16)
  | .trainingStepTimeout _ => true
  | .portDarkTimeout _ => true
  | .laneSwapSwitch _ => true
  | .shroudSenseChange _ => true
  | .patrolScrubRead _ => true
  | .correctionWriteback _ => true
  | .correctionSummaryExpiry _ _ => true
  | .comparisonComplete _ => true
  | .retirementSwitch _ _ => true
  | .pealComplete _ _ _ => true
  | .pealWindowExpiry => true
  | .spotCheckComplete _ _ _ _ => true
  | .secureStratum1 _ _ => true
  | .secureStratum2 _ _ => true
  | .secureStratum3 _ _ => true
  | .returnGuestImage _ _ => true
  | .restoreAfterReturn _ _ => true
  | .restoreFromNvme _ _ => true
  | .restoreAfterHostWrite _ _ => true
  | .nvmeCommandComplete _ _ => true
  | .powerEstimate _ quarterUj queueUj => decide (quarterUj.length = 8) && decide (queueUj.length = 16)
  | .estimatorGainCorrection _ _ => true
  | .muteChangeEffect => true
  | .dvfsClockSwitch => true
  | .droopTrip _ => true
  | .droopRecovery => true
  | .droopMuteStep => true
  | .thermalSensorRead sensors stackTemps => decide (sensors.length = 48) && decide (stackTemps.length = 8)
  | .powerTransitionBegin => true
  | .powerTransitionComplete _ => true
  | .p48vRise => true
  | .aonResetRelease _ => true
  | .romBootComplete => true
  | .stewardFirmwareReady => true
  | .resetNAssert _ => true
  | .brownout _ => true
  | .overvoltage _ => true
  | .inputRecovery => true
  | .pePerstNChange _ => true
  | .updateVerifyComplete => true
  | .updateActivation _ => true
  | .stewardRestartComplete => true
  | .flashWriteComplete => true
  | .updateActivate _ => true
  | .updateAbort _ => true
  | .commitSecurityVersions _ => true
  | .debugChallenge _ => true
  | .challengeExpiry => true
  | .debugToken _ => true
  | .lifecycleToken _ => true
  | .revocationToken _ => true
  | .debugLevelRequest _ => true
  | .bypass => true
  | .idcode => true
  | .samplePreload => true
  | .extest => true
  | .jtagDebugAccess _ target _ => target.wf
  | .jtagChallengeRead => true
  | .jtagTokenWrite _ => true
  | .jtagRelock => true
  | .debugHalt => true
  | .debugSingleStep => true
  | .getVersion => true
  | .getCapabilities => true
  | .negotiateAlgorithms _ => true
  | .getDigests => true
  | .getCertificate _ _ _ => true
  | .challenge _ nonce => decide (nonce.length = 32)
  | .getMeasurements _ nonce => decide (nonce.length = 32)
  | .getCsr => true
  | .setCertificate _ _ => true
  | .getMessageTypeSupport => true
  | .getVendorDefinedMessageSupport _ => true
  | .doeDiscovery _ => true
  | .readObject _ _ _ => true
  | .writeObject _ _ _ _ => true
  | .describeObject _ _ _ => true
  | .openSession _ _ _ _ _ => true
  | .segment _ _ len data => decide (data.length ≤ len)
  | .closeSession _ => true
  | .abortRequest _ _ => true
  | .viewObject _ _ _ => true
  | .sessionTimeout _ => true
  | .pealInstall _ _ => true
  | .requestedStateWrite _ _ => true
  | .pmcsrWrite _ => true
  | .pcieEnableWrite _ _ => true
  | .laserEnableWrite _ _ _ => true
  | .marlEnableWrite _ _ _ => true
  | .ownerKeySetProvision _ _ _ => true
  | .stratum3StoredSeqWrite _ _ => true
  | .dpost _ => true
  | .hqenWrite _ => true
  | .hostCueStageWrite _ _ _ => true
  | .hostCueW0Write _ _ => true
  | .hostMemoryRead _ _ len => decide (1 ≤ len)
  | .hostMemoryWrite _ _ data => decide (1 ≤ data.length)
  | .pcieLinkTrained rate width => decide (1 ≤ rate) && decide (rate ≤ 6) && [1, 2, 4, 8, 16].contains width
  | .functionLevelReset => true
  | .flashPortLinkUp _ => true
  | .modulePresenceLoss _ => true
  | .flashPortTrainingTimeout => true
  | .clayEnableWrite _ _ => true
  | .portModeWrite _ _ _ _ => true
  | .flashPortEnableWrite _ _ => true
  | .beatPeriodWrite _ _ => true
  | .controlWindowWrite _ _ => true
  | .configurationWrite _ _ => true

end Sys2Proof
end

