-- ==== Sys2Proof/Safety.lean ====
section
/-! DEFINITION. What the statements are about: the invariant that every step keeps, the states in which nothing happens by
itself, the passing of clks, and the pending results that the operations of a bundle leave behind. -/

namespace Sys2Proof.Machine

/-! ### The invariant -/

/-- The canonical form of memory: addresses strictly rising, no entry equal to what an unlisted address reads as. -/
def Memory.wf (m : Store Byte) : Bool := storeWf 0 m

/-- No set of a memory-side cache holds more than sixteen lines (10 R251). -/
def CacheWays (c : Store CacheLine) : Prop := ∀ l, (lineMates c l).length ≤ 16

/-- The invariant of the block: memory, the marks of its code words, the lines of the caches and the register files stand in their
canonical form, the X file has no entry for X0, which is hard-wired to zero (04 Table 4-1), and no set of a cache holds more lines than
it has ways. -/
def State.Inv (s : State) : Prop :=
  Memory.wf s.mem = true ∧ storeWf .good s.marks = true ∧ storeWf 0 s.sc.x = true ∧ storeWf 0 s.sc.f = true
    ∧ storeGet 0 s.sc.x 0 = 0 ∧ storeWf noLine s.cache = true ∧ CacheWays s.cache

/-! ### States in which nothing happens by itself -/

/-- No command waits, the stream is stopped, no scan, cue or invalidation is under way, no clk is withheld, no operation's landing is
awaited, no DMA transfer is held, no flit waits to be taken up, nothing of a violated peal is to be put back, no write of this clk is
noted, and no job is ending. Work in flight may still land. -/
def State.Still (s : State) : Prop :=
  s.pending = [] ∧ s.seq.running = false ∧ s.seq.awaiting = [] ∧ s.fab.beatScans = [] ∧ s.fab.angleScans = []
    ∧ s.fab.cueWait = [] ∧ s.ctl.tinvs = [] ∧ s.power.mute = 0 ∧ s.dma.held = [] ∧ s.fab.inbox = [] ∧ s.rel.undo = []
    ∧ s.cnt.writes = [] ∧ s.rel.ending = false

/-- Nothing is in flight either. -/
def State.Idle (s : State) : Prop := s.Still ∧ s.work = []

/-! ### Pending results -/

/-- The state in which an operation has issued and left one landing, L clk from now: the work list holds it in due order, the
issue number advances, everything else stays (02 R59, R60). -/
def resultDue (s : State) (l : Nat) (res : List Nat) (act : Micro) : State :=
  { s with
    work := insertWork { due := s.cnt.clk + l, phase := 0, op := s.cnt.op, res := res, act := act } s.work
    cnt := { s.cnt with op := s.cnt.op + 1 } }

/-- An operation that has issued and left no work. -/
def issuedOnly (s : State) : State := { s with cnt := { s.cnt with op := s.cnt.op + 1 } }

/-- Two states agree on everything a program can hold data in: memory, its marks, scalar and tile registers, element-wise
registers and scale slots, and the lines that the caches hold. -/
def State.SameData (s t : State) : Prop :=
  t.mem = s.mem ∧ t.marks = s.marks ∧ t.sc = s.sc ∧ t.tiles = s.tiles ∧ t.elem = s.elem ∧ t.slots = s.slots
    ∧ t.cache = s.cache

end Sys2Proof.Machine
end

