-- ==== Sys2Proof/Certificates/Slice0/Obligations.lean ====
section
/-! DEFINITION. The statements for the provers, in the order of the spec's chapters. A statement of several parts is the
conjunction of the parts named in it, each a definition under Spec with the rules it follows. -/

open Sys2Proof Sys2Proof.Machine

/-! ### The queue, the step and reset -/

/-- A step takes the command at the front of the queue and runs it with the queue's rest (the model's form of a step). -/
def Obligations.StepRunsFrontCommand : Prop :=
  ∀ (c : Instr) (s : State), step { s with pending := c :: s.pending } = exec c s

/-- Every command answers a next state, whatever the state and its operands, and its effect leaves the queue of waiting commands
alone. -/
def Obligations.CommandsLeaveQueue : Prop :=
  ∀ (c : Instr) (s : State), ∃ t, exec c s = .next t ∧ t.pending = s.pending

/-- On an empty queue one clk passes (DESIGN CHOICE, log entry 1): where nothing happens by itself and nothing is in flight, the clk count
and the frame position advance and nothing else of the state changes, but the mark that this clk's cue examination has been made. -/
def Obligations.EmptyQueuePassesOneClk : Prop :=
  ∀ s : State, s.Idle → s.fab.scanned ≤ s.cnt.clk →
    ∃ t, step s = .next t ∧
      t = { s with
        cnt := { s.cnt with clk := s.cnt.clk + 1, frame := (s.cnt.frame + 1) % 16 }
        fab := { s.fab with scanned := s.cnt.clk + 1, firedNow := [] } }

/-- After reset every X and F register reads as zero, and the stream is stopped (04 R99, 01 R25). -/
def Obligations.ResetClearsScalarRegisters : Prop :=
  (∀ r : Nat, getX State.reset r = 0 ∧ getF State.reset r = 0) ∧ State.reset.seq.running = false
    ∧ State.reset.seq.depth = 0 ∧ State.reset.cnt.angle = 0 ∧ State.reset.cnt.step = 0
    ∧ (∀ i < 160, (groupMask State.reset 0).getLsbD i = true) ∧ (∀ g, 0 < g → groupMask State.reset g = 0)

/-- The invariant holds right after reset. -/
def Obligations.InvariantAtReset : Prop := State.reset.Inv

/-- Every step keeps the invariant: memory and its marks stay in canonical form, the lines of the caches and the X and F files too, X0
stays zero, and no set of a cache holds more lines than its sixteen ways (10 R251). -/
def Obligations.StepKeepsInvariant : Prop :=
  ∀ s t : State, s.Inv → step s = .next t → t.Inv

/-! ### Results land -/

/-- A pending X result is in its register once its clks have passed, and not before; X0 stays zero; nothing else that a program
can hold data in changes (02 R59; the clks are the model's, DESIGN CHOICE, log entry 1). -/
def Obligations.PendingResultLands : Prop :=
  ∀ (s : State) (l r op : Nat) (v : W64), s.Still → 1 ≤ l →
    s.work = [{ due := s.cnt.clk + l, phase := 0, op := op, res := [], act := .setX r v }] →
    ∃ u, Host.Core.run core l s = .next u ∧ u.work = [] ∧ u.cnt.clk = s.cnt.clk + l
      ∧ getX u r = (if r = 0 then 0 else v) ∧ (∀ q, q ≠ r → getX u q = getX s q) ∧ (∀ q, getF u q = getF s q)
      ∧ u.mem = s.mem ∧ u.marks = s.marks ∧ u.tiles = s.tiles ∧ u.elem = s.elem ∧ u.slots = s.slots ∧ u.ctl = s.ctl
      ∧ (∀ k < l, ∃ w, Host.Core.run core k s = .next w ∧ getX w r = getX s r)

/-! ### Scalar operations (04) -/

/-- The record filed last: in the toll ring, or, while the steward restarts, among those that wait in AON; and that those have room (16 R419). -/
def Spec.lastRecord (t : State) : Option Toll := if t.trust.restarting then t.rel.waiting.getLast? else t.rel.ring.getLast?
def Spec.recordsFit (s : State) : Prop := s.trust.restarting = true → s.rel.waiting.length ≤ 60

/-- The clk is not withheld: an operation may issue in it (15 R400). -/
def Spec.clkGiven (s : State) : Prop := withheld s = false

/-- An SC immediate: sign-extended from its top bit when Q[0] is 1, else zero-extended (02 R38). -/
def Spec.ImmediateExtension : Prop :=
  ∀ (q : BitVec 4) (i : Imm), scImm q i =
    if q.getLsbD 0 then ((i.bits.setWidth i.width.bits).signExtend 64) else ((i.bits.setWidth i.width.bits).setWidth 64)

/-- ADDI, ANDI, ORI, XORI, SLLI, SRLI, SRAI, SLTI and CONX land X A op immediate in X D one clk after issue; a shift counts by
immediate[5..0] (04 R102). Nothing else changes but the issue number. -/
def Spec.ScalarImmediateResults : Prop :=
  ∀ (s : State) (d a : BitVec 5) (q : BitVec 4) (i : Imm), Spec.clkGiven s →
    let x := getX s a.toNat
    let m := scImm q i
    let n := (m.setWidth 6).toNat
    let lands := fun v : W64 => (Host.Outcome.next (resultDue s 1 [] (.setX d.toNat v)) : Host.Outcome State Fault Refusal)
    exec (.addi d a q i) s = lands (x + m) ∧ exec (.andi d a q i) s = lands (x &&& m)
      ∧ exec (.ori d a q i) s = lands (x ||| m) ∧ exec (.xori d a q i) s = lands (x ^^^ m)
      ∧ exec (.slli d a q i) s = lands (x <<< n) ∧ exec (.srli d a q i) s = lands (x >>> n)
      ∧ exec (.srai d a q i) s = lands (x.sshiftRight n)
      ∧ exec (.slti d a q i) s = lands (if x.toInt < m.toInt then 1 else 0)
      ∧ exec (.conx d a q i) s = lands m

/-- The immediate syllables of an operation form one value: the first supplies bits 13 to 0, the second 27 to 14, the third 41 to 28
(02 R38). -/
def Spec.ImmediateSyllables : Prop :=
  ∀ (s : State) (a pos slot maj min no ni k : Nat), ni ≤ 3 → k < 3 →
    let i := (readOp s false a pos slot maj min no ni).imm
    ((i.bits >>> (14 * k)).setWidth 14 : BitVec 14).toNat = if k < ni then syllable s false a (pos + 1 + no + k) else 0

/-- Branch and LOOP targets are bits 21 to 0 of the 28-bit immediate, and MARK takes bits 15 to 0, whatever the reserved bits above
hold (02 R38). -/
def Spec.ImmediateTargets : Prop :=
  ∀ (s t : State) (xa xl xc : BitVec 5) (cc : BitVec 3) (ci : BitVec 9) (imm : BitVec 28), Spec.clkGiven s →
    (∀ c ∈ [Instr.br xa cc xl imm, .brf xa cc xl imm], s.seq.branch = none → exec c s = .next t →
        ∀ b, t.seq.branch = some b → b.target = imm.setWidth 22)
    ∧ (exec (.loop xc ci imm) s = .next t → t.seq.depth = s.seq.depth + 1 → storeGet 0 t.seq.le s.seq.depth = imm.setWidth 22)
    ∧ (s.cnt.stopAtMark = false → exec (.mark imm) s = .next t → t.cnt.angle = imm.setWidth 16)

/-- The value that immediate syllables form, its extension in SC operations and the operations that take it, and the targets and the
step angle that immediates name (02 R38, 04 R102). -/
def Obligations.ScalarImmediates : Prop :=
  Spec.ImmediateSyllables ∧ Spec.ImmediateExtension ∧ Spec.ScalarImmediateResults ∧ Spec.ImmediateTargets

/-- ADD to SLTU land in one clk, MUL, MULH and MULHU in three; integers wrap modulo 2^64, shift counts are modulo 64, and the high
halves are those of the exact 128-bit products (04 R102, R103; 02 Table 2-7). -/
def Spec.ScalarRegisterResults : Prop :=
  ∀ (s : State) (d a b : BitVec 5) (q : BitVec 4) (fn : BitVec 9), Spec.clkGiven s →
    let x := getX s a.toNat
    let y := getX s b.toNat
    let n := y.toNat % 64
    let lands := fun (l : Nat) (v : W64) =>
      (Host.Outcome.next (resultDue s l [] (.setX d.toNat v)) : Host.Outcome State Fault Refusal)
    exec (.add d a q b fn) s = lands 1 (x + y) ∧ exec (.sub d a q b fn) s = lands 1 (x - y)
      ∧ exec (.and d a q b fn) s = lands 1 (x &&& y) ∧ exec (.or d a q b fn) s = lands 1 (x ||| y)
      ∧ exec (.xor d a q b fn) s = lands 1 (x ^^^ y)
      ∧ exec (.sll d a q b fn) s = lands 1 (x <<< n) ∧ exec (.srl d a q b fn) s = lands 1 (x >>> n)
      ∧ exec (.sra d a q b fn) s = lands 1 (x.sshiftRight n)
      ∧ exec (.slt d a q b fn) s = lands 1 (if x.toInt < y.toInt then 1 else 0)
      ∧ exec (.sltu d a q b fn) s = lands 1 (if x.toNat < y.toNat then 1 else 0)
      ∧ exec (.mul d a q b fn) s = lands 3 (x * y)
      ∧ exec (.mulh d a q b fn) s = lands 3 (((x.signExtend 128 * y.signExtend 128) >>> 64).setWidth 64)
      ∧ exec (.mulhu d a q b fn) s = lands 3 (((x.setWidth 128 * y.setWidth 128) >>> 64).setWidth 64)

/-- Quotient and remainder: rounded toward zero; a divisor of zero gives all ones and the dividend; -2^63 by -1 gives -2^63 and 0
(04 R103). -/
def Spec.DivisionRounding : Prop :=
  ∀ x y : W64,
    divSigned x y = (if y = 0 then 0xFFFFFFFFFFFFFFFF else x.sdiv y)
      ∧ remSigned x y = (if y = 0 then x else x.srem y)
      ∧ divUnsigned x y = (if y = 0 then 0xFFFFFFFFFFFFFFFF else x / y)
      ∧ remUnsigned x y = (if y = 0 then x else x % y)
      ∧ divSigned 0x8000000000000000 (-1) = 0x8000000000000000 ∧ remSigned 0x8000000000000000 (-1) = 0

/-- DIV, DIVU, REM and REMU complete, whatever they divide by, and land in 20 clk; they take the divider for those 20 clk
(04 R103, 02 R63 and Table 2-7). With the divider free nothing else changes. -/
def Spec.DivisionCompletes : Prop :=
  ∀ (s : State) (d a b : BitVec 5) (q : BitVec 4) (fn : BitVec 9), Spec.clkGiven s →
    let x := getX s a.toNat
    let y := getX s b.toNat
    let key := resKey .divider 0
    let lands := fun v : W64 => (Host.Outcome.next
      { resultDue s 20 [key] (.setX d.toNat v) with
        uses := storeSet ⟨0, 0, 0⟩ s.uses key ⟨s.cnt.op, s.cnt.clk, s.cnt.clk + 20⟩ } : Host.Outcome State Fault Refusal)
    resBusy s key s.cnt.clk = false →
      exec (.div d a q b fn) s = lands (divSigned x y) ∧ exec (.divu d a q b fn) s = lands (divUnsigned x y)
        ∧ exec (.rem d a q b fn) s = lands (remSigned x y) ∧ exec (.remu d a q b fn) s = lands (remUnsigned x y)

/-- An operation that takes a busy divider over: the earlier operation's landing does not take place, its own is due 20 clk later, and the
takeover is counted in 7230h:03 (02 R63). -/
def Spec.DividerTakeover : Prop :=
  ∀ (s : State) (d a b : BitVec 5) (q : BitVec 4) (fn : BitVec 9) (old : Nat), Spec.clkGiven s →
    let key := resKey .divider 0
    let x := getX s a.toNat
    let y := getX s b.toNat
    resBusy s key s.cnt.clk = true → (storeGet ⟨0, 0, 0⟩ s.uses key).op = old → old ≠ s.cnt.op →
      ∀ cv ∈ [(Instr.div d a q b fn, divSigned x y), (.divu d a q b fn, divUnsigned x y), (.rem d a q b fn, remSigned x y),
          (.remu d a q b fn, remUnsigned x y)],
        ∃ t, exec cv.1 s = .next t
          ∧ (∀ w ∈ t.work, w.op = old → key ∈ w.res → w.due < s.cnt.clk)
          ∧ (∃ w ∈ t.work, w.op = s.cnt.op ∧ w.due = s.cnt.clk + 20 ∧ w.act = .setX d.toNat cv.2)
          ∧ objGet t 0x7230 3 = (objGet s 0x7230 3 + 1) % 2 ^ 64 ∧ t.SameData s

/-- Integer operations: their results, the divisions and the takeover of a busy divider (04 R103, 02 R63). -/
def Obligations.IntegerArithmetic : Prop :=
  Spec.ScalarImmediateResults ∧ Spec.ScalarRegisterResults ∧ Spec.DivisionRounding ∧ Spec.DivisionCompletes ∧ Spec.DividerTakeover

/-- FADD, FSUB, FMUL, FMA, FMIN, FMAX land in F D, and FEQ, FLT, FLE in X D, four clk after issue, in the precision of FN[0];
FMA adds F D (04 R102, R104; 02 Table 2-7). -/
def Spec.ScalarFpResults : Prop :=
  ∀ (s : State) (d a b : BitVec 5) (q : BitVec 4) (fn : BitVec 9), Spec.clkGiven s →
    let f : Fmt := if fn.getLsbD 0 then fp32 else fp64
    let x := getF s a.toNat
    let y := getF s b.toNat
    let lands := fun act => (Host.Outcome.next (resultDue s 4 [] act) : Host.Outcome State Fault Refusal)
    exec (.fadd d a q b fn) s = lands (.setF d.toNat (fpAdd f x y))
      ∧ exec (.fsub d a q b fn) s = lands (.setF d.toNat (fpSub f x y))
      ∧ exec (.fmul d a q b fn) s = lands (.setF d.toNat (fpMul f x y))
      ∧ exec (.fma d a q b fn) s = lands (.setF d.toNat (fpFma f x y (getF s d.toNat)))
      ∧ exec (.fmin d a q b fn) s = lands (.setF d.toNat (fpMinMax false f x y))
      ∧ exec (.fmax d a q b fn) s = lands (.setF d.toNat (fpMinMax true f x y))
      ∧ exec (.feq d a q b fn) s = lands (.setX d.toNat (fpEq f x y))
      ∧ exec (.flt d a q b fn) s = lands (.setX d.toNat (fpLt f x y))
      ∧ exec (.fle d a q b fn) s = lands (.setX d.toNat (fpLe f x y))

/-- FDIV and FSQRT take the FP divider for 16 clk and land in F D then; FSQRT reads A only (04 R102, R104; 02 Table 2-7). -/
def Spec.FpDivisionCompletes : Prop :=
  ∀ (s : State) (d a b : BitVec 5) (q : BitVec 4) (fn : BitVec 9), Spec.clkGiven s →
    let f : Fmt := if fn.getLsbD 0 then fp32 else fp64
    let key := resKey .fpDivider 0
    let lands := fun v : W64 => (Host.Outcome.next
      { resultDue s 16 [key] (.setF d.toNat v) with
        uses := storeSet ⟨0, 0, 0⟩ s.uses key ⟨s.cnt.op, s.cnt.clk, s.cnt.clk + 16⟩ } : Host.Outcome State Fault Refusal)
    resBusy s key s.cnt.clk = false →
      exec (.fdiv d a q b fn) s = lands (fpDiv f (getF s a.toNat) (getF s b.toNat))
        ∧ exec (.fsqrt d a q b fn) s = lands (fpSqrt f (getF s a.toNat))

/-- FCVT: the conversion of FN[3..1] lands four clk after issue, in X D for 011b and 101b and in F D else; 11xb is an unsupported
format combination (0Bh, subcode 01h), which a running stream takes as a fault (04 R104). -/
def Spec.FcvtSelectsConversion : Prop :=
  ∀ (s : State) (d a b : BitVec 5) (q : BitVec 4) (fn : BitVec 9), Spec.clkGiven s →
    let k := (fn >>> 1).setWidth 3
    (k = 3 ∨ k = 5 → exec (.fcvt d a q b fn) s
        = .next (resultDue s 4 [] (.setX d.toNat (fpCvt fn (getX s a.toNat) (getF s a.toNat)))))
      ∧ (k.toNat < 3 ∨ k = 4 → exec (.fcvt d a q b fn) s
        = .next (resultDue s 4 [] (.setF d.toNat (fpCvt fn (getX s a.toNat) (getF s a.toNat)))))
      ∧ (6 ≤ k.toNat → s.seq.running = true → exec (.fcvt d a q b fn) s
        = .next (takeFault s (issueEvent s 0xB 1 0 false 0)))

/-- An FP32 result has bits [63..32] zero, and a NaN result is the canonical quiet NaN of its precision (04 R104): whatever the
operands, for every operation of the scalar FP unit that rounds. -/
def Spec.FpResultForm : Prop :=
  ∀ x y z : W64,
    (∀ r ∈ [fpAdd fp32 x y, fpSub fp32 x y, fpMul fp32 x y, fpFma fp32 x y z, fpDiv fp32 x y, fpSqrt fp32 x,
        fpMinMax false fp32 x y, fpMinMax true fp32 x y],
      r.toNat < 2 ^ 32 ∧ (field r 30 23 = 255 → field r 22 0 ≠ 0 → r = 0x7FC00000))
    ∧ (∀ r ∈ [fpAdd fp64 x y, fpSub fp64 x y, fpMul fp64 x y, fpFma fp64 x y z, fpDiv fp64 x y, fpSqrt fp64 x,
        fpMinMax false fp64 x y, fpMinMax true fp64 x y],
      field r 62 52 = 2047 → field r 51 0 ≠ 0 → r = 0x7FF8000000000000)

/-- The scalar FP unit: FADD, FSUB, FMUL, FMA, FMIN, FMAX, FEQ, FLT, FLE and FCVT complete in every state, FDIV and FSQRT wherever the FP
divider is free; their results, and the form of a result (04 R102, R104). -/
def Obligations.ScalarFp : Prop :=
  Spec.ScalarFpResults ∧ Spec.FpDivisionCompletes ∧ Spec.FcvtSelectsConversion ∧ Spec.FpResultForm

/-- MOVXF and MOVFX copy 64 bits; CONF places the 42-bit immediate in F D[63..22], a compact one extended to 42 bits by Q[0] first;
CTLR lands what the register reads, where the level may reach the register; one that reads a scale slot or a cue entry, where no word of
it is in error (04 R102, 03 R66; a word in error is met as 13 R342 says). -/
def Obligations.ScalarMovesComplete : Prop :=
  ∀ (s : State) (d a b : BitVec 5) (q : BitVec 4) (fn : BitVec 9) (i : Imm), Spec.clkGiven s →
    exec (.movxf d a q b fn) s = .next (resultDue s 1 [] (.setF d.toNat (getX s a.toNat)))
      ∧ exec (.movfx d a q b fn) s = .next (resultDue s 1 [] (.setX d.toNat (getF s a.toNat)))
      ∧ exec (.conf d a q i) s = .next (resultDue s 1 [] (.setF d.toNat ((scImm q i).setWidth 42 ++ (0 : BitVec 22))))
      ∧ (condCtl false (immZ i) s = none →
          (0x511 ≤ immZ i ∧ immZ i < 0x514 → (slotGet s (selSlot s)).marks = []) →
          (0x901 ≤ immZ i ∧ immZ i < 0x905 → (cueGet s (selCue s)).marks = []) →
          exec (.ctlr d a q i) s = .next (resultDue s (if 0x300 ≤ immZ i ∧ immZ i < 0x304 then 1 else 2) []
            (.setX d.toNat (ctlRead s (immZ i)))))

/-- A CTLW that the level may make completes: to FADDR of the S set or the M set, ESCSP, the loop counts, the scale exponents SCDQ, the
vector bases, the rattle's key, or one of the selections of tile record, slot, ring, coprocessor record, micro-op, stash entry, cue entry
and object, it writes that register, without its reserved bits, and changes nothing else but the issue number. To every other register
but ODCMD, whose object has its own effect, it completes too, one operation on, no scalar register, byte or address of the stream changed,
where no word of a slot is in error (03 R66, Table 3-1). -/
def Spec.ControlWritesTakeEffect : Prop :=
  ∀ (s : State) (d a : BitVec 5) (q : BitVec 4) (i : Imm), Spec.clkGiven s →
    let v := getX s a.toNat
    let n := immZ i
    condCtl true n s = none →
      (n = 0x104 → exec (.ctlw d a q i) s
        = .next { issuedOnly s with ctl := { s.ctl with sx := { s.ctl.sx with faddr := v } } })
      ∧ (n = 0x204 → exec (.ctlw d a q i) s
        = .next { issuedOnly s with ctl := { s.ctl with mx := { s.ctl.mx with faddr := v } } })
      ∧ (n = 0x20E → exec (.ctlw d a q i) s = .next { issuedOnly s with ctl := { s.ctl with escsp := v } })
      ∧ (n = 0x610 → exec (.ctlw d a q i) s = .next { issuedOnly s with ctl := { s.ctl with rtkl := v } })
      ∧ (n = 0x611 → exec (.ctlw d a q i) s = .next { issuedOnly s with ctl := { s.ctl with rtkh := v } })
      ∧ (0x300 ≤ n → n < 0x304 → exec (.ctlw d a q i) s
        = .next { issuedOnly s with seq := { s.seq with lc := storeSet 0 s.seq.lc (n - 0x300) (v.setWidth 32) } })
      ∧ (0x500 ≤ n → n < 0x508 → exec (.ctlw d a q i) s
        = .next { issuedOnly s with ctl := { s.ctl with scdq := storeSet 0 s.ctl.scdq (n - 0x500) (v.setWidth 9) } })
      ∧ (0x600 ≤ n → n < 0x604 → exec (.ctlw d a q i) s
        = .next { issuedOnly s with ctl := { s.ctl with vb := storeSet 0 s.ctl.vb (n - 0x600) (v &&& 0xFFFFFFFFFFFFF) } })
      ∧ (n = 0x400 → exec (.ctlw d a q i) s = .next { issuedOnly s with ctl := { s.ctl with tpsel := v &&& 0xFFC7 } })
      ∧ (n = 0x510 → exec (.ctlw d a q i) s = .next { issuedOnly s with ctl := { s.ctl with scsel := v &&& 0xF3FFF } })
      ∧ (n = 0x620 → exec (.ctlw d a q i) s = .next { issuedOnly s with ctl := { s.ctl with cpsel := v &&& 0xFF } })
      ∧ (n = 0x622 → exec (.ctlw d a q i) s = .next { issuedOnly s with ctl := { s.ctl with mssel := v &&& 0x7FF } })
      ∧ (n = 0x700 → exec (.ctlw d a q i) s = .next { issuedOnly s with ctl := { s.ctl with stsel := v &&& 0xFF } })
      ∧ (n = 0x900 → exec (.ctlw d a q i) s = .next { issuedOnly s with ctl := { s.ctl with cqsel := v &&& 0x3FF } })
      ∧ (n = 0xD00 → exec (.ctlw d a q i) s
        = .next { issuedOnly s with ctl := { s.ctl with odsel := v &&& 0x80FFFFFFFFFFFFFF } })
      ∧ (n ≠ 0xD02 → (∀ k, (slotGet s k).marks = [] ∧ (cueGet s k).marks = []) → ∃ t, exec (.ctlw d a q i) s = .next t
          ∧ t.cnt.op = s.cnt.op + 1 ∧ t.sc = s.sc ∧ t.mem = s.mem ∧ t.seq.pc = s.seq.pc)

/-- Access to control registers (03 R66): an unknown number, or a write of a register that is read-only at every level, is an
illegal encoding (01h, subcode 05h); an access the level has no right to is a privilege violation (04h, subcode 02h); a running
stream takes the fault. U level reaches none of the S and M sets, S level none of the M set. -/
def Spec.ControlAccessFaults : Prop :=
  ∀ (s : State) (d a : BitVec 5) (q : BitVec 4) (i : Imm), Spec.clkGiven s →
    let n := immZ i
    s.seq.running = true →
      (n < 0x100 → exec (.ctlw d a q i) s = .next (takeFault s (issueEvent s 1 5 0 false 0))
        ∧ exec (.ctlr d a q i) s = .next (takeFault s (issueEvent s 1 5 0 false 0)))
      ∧ (0x200 ≤ n → n < 0x206 → s.seq.pl ≠ 3 →
          exec (.ctlw d a q i) s = .next (takeFault s (issueEvent s 4 2 0 false 0))
          ∧ exec (.ctlr d a q i) s = .next (takeFault s (issueEvent s 4 2 0 false 0)))
      ∧ (0x100 ≤ n → n < 0x106 → s.seq.pl = 0 →
          exec (.ctlw d a q i) s = .next (takeFault s (issueEvent s 4 2 0 false 0))
          ∧ exec (.ctlr d a q i) s = .next (takeFault s (issueEvent s 4 2 0 false 0)))
      ∧ (n = 0x206 → exec (.ctlw d a q i) s = .next (takeFault s (issueEvent s 1 5 0 false 0)))

/-- Control registers: CTLW completes wherever the level may make it, and accesses that fault (03 R66). -/
def Obligations.ControlRegisters : Prop :=
  Spec.ControlWritesTakeEffect ∧ Spec.ControlAccessFaults

/-! ### Short vectors (04) -/

/-- The two halves of a D- or Q-form result as its landing holds them. -/
def Spec.halves (q : Bool) (v : Nat) : List (Nat × Nat) :=
  (0, v % 2 ^ 64) :: (if q then [(1, v / 2 ^ 64 % 2 ^ 64)] else [])

/-- What a short-vector operation answers: its elements land together after l clk. -/
def Spec.vecLands (s : State) (l : Nat) (o : SvOps) (e : Nat) (els : Nat → Nat) : Host.Outcome State Fault Refusal :=
  .next (resultDue s l []
    (.setVec o.vd.toNat 64 (Spec.halves o.qf (vPack e ((List.range (vCount o.qf e)).map els)))))

/-- VADD to VSEL land every element of their form three clk after issue: with FN[0] VADD and VSUB saturate, else elements wrap
modulo 2^e; FN[1] makes elements unsigned for saturation, minimum, maximum and VCGT, and VSHR logical (04 R108, R109). -/
def Spec.VectorIntegerResults : Prop :=
  ∀ (s : State) (o : SvOps), Spec.clkGiven s →
    let e := 8 * 2 ^ o.es.toNat
    let a := fun i => vElem (getV s o.qf o.va.toNat) e i
    let b := fun i => vElem (getV s o.qf o.vb.toNat) e i
    let c := fun i => vElem (getV s o.qf o.vc.toNat) e i
    let sat := o.fn.getLsbD 0
    let uns := o.fn.getLsbD 1
    let num := fun x : Nat => if uns then (x : Int) else signedOf e x
    let ones := 2 ^ e - 1
    let lands := Spec.vecLands s 3 o e
    (condV2 o = none →
      exec (.vadd o) s = lands (fun i => narrow e sat uns (num (a i) + num (b i)))
      ∧ exec (.vsub o) s = lands (fun i => narrow e sat uns (num (a i) - num (b i)))
      ∧ exec (.vand o) s = lands (fun i => a i &&& b i) ∧ exec (.vor o) s = lands (fun i => a i ||| b i)
      ∧ exec (.vxor o) s = lands (fun i => a i ^^^ b i)
      ∧ exec (.vshl o) s = lands (fun i => a i * 2 ^ (b i % e) % 2 ^ e)
      ∧ exec (.vshr o) s = lands (fun i => if uns then a i / 2 ^ (b i % e) else sraNat e (a i) (b i % e))
      ∧ exec (.vmin o) s = lands (fun i => if num (a i) ≤ num (b i) then a i else b i)
      ∧ exec (.vmax o) s = lands (fun i => if num (a i) ≤ num (b i) then b i else a i)
      ∧ exec (.vceq o) s = lands (fun i => if a i = b i then ones else 0)
      ∧ exec (.vcgt o) s = lands (fun i => if num (b i) < num (a i) then ones else 0))
    ∧ (condV3 o = none →
      exec (.vsel o) s = lands (fun i => (a i &&& c i) ||| (b i &&& (c i ^^^ ones))))

/-- How an exact integer result is kept in e bits: modulo 2^e, or clamped to the signed or the unsigned range (04 R109). -/
def Spec.VectorNarrowing : Prop :=
  ∀ (e : Nat) (z : Int), 0 < e →
    (∀ uns, narrow e false uns z < 2 ^ e ∧ ((narrow e false uns z : Int) - z) % (2 ^ e : Int) = 0)
    ∧ (narrow e true true z : Int) = max 0 (min (2 ^ e - 1) z)
    ∧ signedOf e (narrow e true false z) = max (-(2 ^ (e - 1) : Int)) (min (2 ^ (e - 1) - 1) z)

/-- Short-vector integer operations and the narrowing of their elements (04 R106 to R110). -/
def Obligations.VectorInteger : Prop :=
  Spec.VectorIntegerResults ∧ Spec.VectorNarrowing

/-- The FP operations of short vectors land three clk after issue, each element under the rules of R104 in its own format, FN[0]
choosing BF16 for 16-bit elements; VFCEQ and VFCLT give all ones or zero, zero where unordered (04 R108, R110). -/
def Spec.VectorFpResults : Prop :=
  ∀ (s : State) (o : SvOps), Spec.clkGiven s →
    let e := 8 * 2 ^ o.es.toNat
    let f : Fmt := if o.es = 1 then (if o.fn.getLsbD 0 then bf16 else fp16) else if o.es = 2 then fp32 else fp64
    let a := fun i => fDecode f (vElem (getV s o.qf o.va.toNat) e i)
    let b := fun i => fDecode f (vElem (getV s o.qf o.vb.toNat) e i)
    let c := fun i => fDecode f (vElem (getV s o.qf o.vc.toNat) e i)
    let ones := 2 ^ e - 1
    let lands := Spec.vecLands s 3 o e
    (condVf2 o = none →
      exec (.vfadd o) s = lands (fun i => fEncode f (fvAdd (a i) (b i)))
      ∧ exec (.vfsub o) s = lands (fun i => fEncode f (fvAdd (a i) (fvNeg (b i))))
      ∧ exec (.vfmul o) s = lands (fun i => fEncode f (fvMul (a i) (b i)))
      ∧ exec (.vfmin o) s = lands (fun i => fEncode f (fvMinMax false (a i) (b i)))
      ∧ exec (.vfmax o) s = lands (fun i => fEncode f (fvMinMax true (a i) (b i)))
      ∧ exec (.vfceq o) s = lands (fun i => if fvCompare (a i) (b i) = some .eq then ones else 0)
      ∧ exec (.vfclt o) s = lands (fun i => if fvCompare (a i) (b i) = some .lt then ones else 0))
    ∧ (condVf3 o = none →
      exec (.vfma o) s = lands (fun i => fEncode f (fvAdd (fvMul (a i) (b i)) (c i))))

/-- VWMUL and VDOT land four clk after issue in elements four times as wide, with the signedness of FN[3..2]; VDOT adds the products
of four adjacent elements to VC and wraps; VDUP copies the low element of X VA to every element in three clk (04 R108, R111, R112). -/
def Spec.VectorWideningResults : Prop :=
  ∀ (s : State) (o : SvOps), Spec.clkGiven s →
    let e := 8 * 2 ^ o.es.toNat
    let n := vCount o.qf e
    let q := (o.fn.setWidth 2).toNat
    let sign := (o.fn >>> 2).setWidth 2
    let a := fun i => let x := vElem (getV s o.qf o.va.toNat) e i; if sign = 1 then (x : Int) else signedOf e x
    let b := fun i => let x := vElem (getV s o.qf o.vb.toNat) e i; if sign = 0 then signedOf e x else (x : Int)
    let c := fun j => (vElem (getV s o.qf o.vc.toNat) (4 * e) j : Int)
    let wide := fun (z : Nat → Int) => (Host.Outcome.next (resultDue s 4 [] (.setVec o.vd.toNat 64
      (Spec.halves o.qf (vPack (4 * e) ((List.range (n / 4)).map fun j => patternOf (4 * e) (z j)))))) :
        Host.Outcome State Fault Refusal)
    (condVwmul o = none → exec (.vwmul o) s = wide (fun j => a (q * n / 4 + j) * b (q * n / 4 + j)))
    ∧ (condVdot o = none → exec (.vdot o) s = wide (fun j =>
        c j + (a (4 * j) * b (4 * j) + a (4 * j + 1) * b (4 * j + 1) + a (4 * j + 2) * b (4 * j + 2)
          + a (4 * j + 3) * b (4 * j + 3))))
    ∧ (condVdup o = none → exec (.vdup o) s = Spec.vecLands s 3 o e fun _ => (getX s o.va.toNat).toNat % 2 ^ e)

/-- Short-vector FP and widening operations (04 R106 to R110). -/
def Obligations.VectorFp : Prop :=
  Spec.VectorFpResults ∧ Spec.VectorWideningResults

/-- A short-vector operation on an odd register in Q form is an illegal encoding (01h, subcode 06h), and one of an element size or a
signedness that is reserved for it an unsupported format combination (0Bh, subcode 01h): a running stream takes the fault
(02 R37, 04 R108, R111). -/
def Obligations.VectorOperandFaults : Prop :=
  ∀ (s : State) (o : SvOps) (c : SvOps → Instr), Spec.clkGiven s →
    c ∈ [Instr.vadd, .vsub, .vand, .vor, .vxor, .vshl, .vshr, .vmin, .vmax, .vceq, .vcgt, .vfadd, .vfsub, .vfmul, .vfmin,
      .vfmax, .vfceq, .vfclt, .vwmul] → s.seq.running = true →
      (o.qf = true → (o.vd.toNat % 2 = 1 ∨ o.va.toNat % 2 = 1 ∨ o.vb.toNat % 2 = 1) →
        exec (c o) s = .next (takeFault s (issueEvent s 1 6 1 false 0)))
      ∧ (o.qf = false → 4 ≤ o.es.toNat → exec (c o) s = .next (takeFault s (issueEvent s 0xB 1 1 false 0)))
      ∧ (o.qf = false → o.es = 2 → (o.fn >>> 2).setWidth 2 = (3 : BitVec 2) →
          exec (.vwmul o) s = .next (takeFault s (issueEvent s 0xB 1 1 false 0)))

/-! ### Scalar and short-vector memory access (04 R105 to R107, R113) -/

/-- A scalar load or store issues its access: three clk later it is located and checked. The access holds the effective address
X A + offset, the size 2^Q[2..1], the data of the register that D names for a store, and Q[3] for the sign (04 R105). -/
def Spec.ScalarAccessIssues : Prop :=
  ∀ (s : State) (d a : BitVec 5) (q : BitVec 4) (i : Imm) (st fp : Bool), Spec.clkGiven s →
    let c : Instr := match st, fp with
      | false, false => .ldx d a q i
      | false, true => .ldf d a q i
      | true, false => .stx d a q i
      | true, true => .stf d a q i
    let size := 2 ^ ((q >>> 1).setWidth 2 : BitVec 2).toNat
    (fp = true → 4 ≤ size) →
      ∃ acc : Access, exec c s = .next { resultDue s 3 [] (.access acc) with
          work := insertWork { due := s.cnt.clk + 3, phase := 1, op := s.cnt.op, res := [], act := .access acc } s.work }
        ∧ acc.ea = getX s a.toNat + scImm q i ∧ acc.slot = 0 ∧ acc.level = s.seq.pl ∧ acc.op = s.cnt.op
        ∧ acc.base = s.cnt.clk ∧ acc.first = 0
        ∧ acc.data = (if st then (if fp then getF s d.toNat else getX s d.toNat).setWidth 128 else 0)
        ∧ ∃ sh, accShape acc = some sh ∧ sh.store = st ∧ sh.fp = fp ∧ sh.n = 1 ∧ sh.size = size ∧ sh.d = d.toNat
          ∧ sh.signExt = q.getLsbD 3 ∧ sh.vec = false

/-- LDF and STF of 1 or 2 bytes are an unsupported format combination (0Bh, subcode 01h) (04 R105). -/
def Spec.FpAccessSizeFault : Prop :=
  ∀ (s : State) (d a : BitVec 5) (q : BitVec 4) (i : Imm), Spec.clkGiven s → s.seq.running = true → q.getLsbD 2 = false →
    exec (.ldf d a q i) s = .next (takeFault s (issueEvent s 0xB 1 0 false 0))
      ∧ exec (.stf d a q i) s = .next (takeFault s (issueEvent s 0xB 1 0 false 0))

/-- A short-vector access issues with element i at X A + immediate + i·e/8 (VLD, VST), at X A + i·immediate (VLDS, VSTS), or with
one element copied to all (VLDR); the immediate is sign-extended; a store holds the vector's bits (04 Table 4-3). -/
def Spec.VectorAccessIssues : Prop :=
  ∀ (s : State) (o : SvMem) (k : Nat) (c : SvMem → Instr), Spec.clkGiven s →
    (k, c) ∈ [(0, Instr.vld), (1, .vst), (2, .vlds), (3, .vsts), (4, .vldr)] → condVmem o = none →
      let step := if k = 2 ∨ k = 3 then o.imm.toInt else ((2 ^ o.es.toNat : Nat) : Int)
      ∃ acc : Access, exec (c o) s = .next { resultDue s 3 [] (.access acc) with
          work := insertWork { due := s.cnt.clk + 3, phase := 1, op := s.cnt.op, res := [], act := .access acc } s.work }
        ∧ acc.slot = 1 ∧ acc.level = s.seq.pl ∧ acc.first = 0 ∧ acc.base = s.cnt.clk
        ∧ acc.data = (if k = 1 ∨ k = 3 then BitVec.ofNat 128 (getV s o.qf o.vd.toNat) else 0)
        ∧ ∃ sh, accShape acc = some sh ∧ sh.size = 2 ^ o.es.toNat ∧ sh.d = o.vd.toNat ∧ sh.dup = decide (k = 4)
          ∧ sh.store = decide (k = 1 ∨ k = 3) ∧ sh.n = (if k = 4 then 1 else vCount o.qf (8 * 2 ^ o.es.toNat))
          ∧ ∀ i, elemAddr acc sh i = getX s o.xa.toNat + (if k = 2 ∨ k = 3 then 0 else o.imm.signExtend 64)
              + BitVec.ofInt 64 (step * i)

/-- Accesses of the scalar core and its short vectors issue, or fault at issue (04 R105, R111 to R113). -/
def Obligations.CoreAccesses : Prop :=
  Spec.ScalarAccessIssues ∧ Spec.FpAccessSizeFault ∧ Spec.VectorAccessIssues

/-- Bytes that land in memory are what a later read of each address gives, the last byte of an address standing, and every other
byte of memory reads as before, where no code word of memory is marked (04 R107, 13 R479). -/
def Obligations.StoredBytesLand : Prop :=
  ∀ (s : State) (bytes : List (Nat × Byte)), s.marks = [] →
      let t := writeBytes s bytes
      (∀ a, memGet t a = (match bytes.reverse.find? (fun b => decide (b.1 = a)) with
        | some b => b.2
        | none => memGet s a))
      ∧ t.sc = s.sc ∧ t.tiles = s.tiles ∧ t.elem = s.elem ∧ t.slots = s.slots ∧ t.pending = s.pending

/-! ### The element-wise engine (08) -/

/-- A VE operation whose A and B lie in L registers, or B in its immediate, and whose registers hold no poison. -/
def Spec.fromRegisters (s : State) (o : VeOps) : Prop := o.src.getLsbD 0 = false ∧ s.elem.lMark = []

/-- B of lane i: the broadcast immediate, or lane i of LB. -/
def Spec.laneB (s : State) (o : VeOps) (sl i : Nat) : W32 :=
  match o.imm with
  | some m => veImm o.imi m
  | none => laneGet s sl o.lb.toNat i

/-- An operation answers a state in which, for every slice of its group, lanes 0 to 255 of LD land together after l clk with the
values f slice lane; data, the stream and the control registers are as before. -/
def Spec.lanesLand (c : Instr) (s : State) (o : VeOps) (l : Nat) (f : Nat → Nat → W32) : Prop :=
  ∃ t, exec c s = .next t
    ∧ (∀ sl ∈ members (groupMask s o.gn.toNat), ∃ w ∈ t.work,
        w.due = s.cnt.clk + l ∧ w.phase = 0 ∧ w.op = s.cnt.op
          ∧ w.act = .setL ((List.range 256).map fun i => (laneIdx sl o.ld.toNat i, f sl i, false)))
    ∧ s.SameData t ∧ t.seq = s.seq ∧ t.ctl = s.ctl ∧ t.cnt.op = s.cnt.op + 1 ∧ t.cnt.clk = s.cnt.clk

/-- A row of the table of lane-wise operations. -/
structure Spec.LaneRow where
  cmd : Instr
  fn : VeFn
  lat : Nat
  val : W32 → W32 → W32 → W32

/-- The lane-wise operations: command, latency, and the result of a lane from A, B and LD (08 Table 8-1, R191, R192; latencies
02 Table 2-7). -/
def Spec.laneTable (o : VeOps) : List Spec.LaneRow :=
  let ones : Bool → W32 := fun b => if b then BitVec.allOnes 32 else 0
  let s32 : Int → W32 := fun z => BitVec.ofInt 32 (if o.sat then max (-(2 ^ 31)) (min (2 ^ 31 - 1) z) else z)
  let u32 : Int → W32 := fun z => BitVec.ofInt 32 (if o.sat then max 0 (min (2 ^ 32 - 1) z) else z)
  let cmp : W32 → W32 → Option Ordering := fun a b => fvCompare (f32 a) (f32 b)
  [ ⟨.veFadd o, .fadd, 11, fun a b _ => f32Add a b⟩, ⟨.veFsub o, .fsub, 11, fun a b _ => f32Sub a b⟩,
    ⟨.veFmul o, .fmul, 11, fun a b _ => f32Mul a b⟩, ⟨.veFma o, .fma, 11, fun a b d => f32Fma a b d⟩,
    ⟨.frcp o, .frcp, 11, fun a _ _ => f32Div f32One a⟩,
    ⟨.veFsqrt o, .fsqrt, 11, fun a _ _ => BitVec.ofNat 32 (fSqrt fp32 (f32 a))⟩,
    ⟨.frsqrt o, .frsqrt, 11, fun a _ _ => BitVec.ofNat 32 (fRsqrt fp32 (f32 a))⟩,
    ⟨.fscale o, .fscale, 11, fun a b _ => toF32 (fvScale (f32 a) (max (-300) (min 300 b.toInt)))⟩,
    ⟨.veFmin o, .fmin, 9, fun a b _ => toF32 (fvMinMax false (f32 a) (f32 b))⟩,
    ⟨.veFmax o, .fmax, 9, fun a b _ => toF32 (fvMinMax true (f32 a) (f32 b))⟩,
    ⟨.fabs o, .fabs, 8, fun a _ _ => a &&& 0x7FFFFFFF⟩, ⟨.fneg o, .fneg, 8, fun a _ _ => a ^^^ 0x80000000⟩,
    ⟨.veAdd o, .add, 9, fun a b _ => s32 (a.toInt + b.toInt)⟩, ⟨.veSub o, .sub, 9, fun a b _ => s32 (a.toInt - b.toInt)⟩,
    ⟨.veMul o, .mul, 10, fun a b _ => s32 (a.toInt * b.toInt)⟩,
    ⟨.addu o, .addu, 9, fun a b _ => u32 ((a.toNat : Int) + b.toNat)⟩,
    ⟨.subu o, .subu, 9, fun a b _ => u32 ((a.toNat : Int) - b.toNat)⟩,
    ⟨.mulu o, .mulu, 10, fun a b _ => u32 ((a.toNat : Int) * b.toNat)⟩,
    ⟨.min o, .min, 9, fun a b _ => if a.toInt ≤ b.toInt then a else b⟩,
    ⟨.max o, .max, 9, fun a b _ => if a.toInt ≤ b.toInt then b else a⟩,
    ⟨.minu o, .minu, 9, fun a b _ => if a.toNat ≤ b.toNat then a else b⟩,
    ⟨.maxu o, .maxu, 9, fun a b _ => if a.toNat ≤ b.toNat then b else a⟩,
    ⟨.veAnd o, .and, 8, fun a b _ => a &&& b⟩, ⟨.veOr o, .or, 8, fun a b _ => a ||| b⟩,
    ⟨.veXor o, .xor, 8, fun a b _ => a ^^^ b⟩, ⟨.andn o, .andn, 8, fun a b _ => a &&& ~~~b⟩,
    ⟨.shl o, .shl, 8, fun a b _ => a <<< (b.toNat % 32)⟩, ⟨.shr o, .shr, 8, fun a b _ => a >>> (b.toNat % 32)⟩,
    ⟨.veSra o, .sra, 8, fun a b _ => a.sshiftRight (b.toNat % 32)⟩, ⟨.mov o, .mov, 8, fun a _ _ => a⟩,
    ⟨.ceq o, .ceq, 9, fun a b _ => ones (decide (a = b))⟩, ⟨.clt o, .clt, 9, fun a b _ => ones (decide (a.toInt < b.toInt))⟩,
    ⟨.cltu o, .cltu, 9, fun a b _ => ones (decide (a.toNat < b.toNat))⟩,
    ⟨.fceq o, .fceq, 9, fun a b _ => ones (cmp a b == some .eq)⟩, ⟨.fclt o, .fclt, 9, fun a b _ => ones (cmp a b == some .lt)⟩,
    ⟨.fcle o, .fcle, 9, fun a b _ => ones (cmp a b == some .lt || cmp a b == some .eq)⟩,
    ⟨.sel o, .sel, 9, fun a b d => (a &&& d) ||| (b &&& ~~~d)⟩ ]

/-- Every lane-wise operation lands the result of Table 8-1 in all 256 lanes of LD of every slice of its group, at its latency, with
B from LB or the broadcast immediate (08 R190 to R192). -/
def Obligations.LaneResults : Prop :=
  ∀ (s : State) (o : VeOps), Spec.clkGiven s → Spec.fromRegisters s o →
    ∀ p ∈ Spec.laneTable o, condVe p.fn o = none →
      Spec.lanesLand p.cmd s o p.lat fun sl i =>
        p.val (laneGet s sl o.la.toNat i) (Spec.laneB s o sl i) (laneGet s sl o.ld.toNat i)

/-- BCST copies lane 0 of LB, or the immediate, to every lane; IOTA adds the lane number; RDROP and RMASK give each lane by the
rattle of its index in B; the reductions RSUM to RISUM give every lane the one result of all 256 lanes of LA, folded in neighbouring
pairs (08 Table 8-1, R196, R208 to R210). -/
def Spec.LaneBroadcastsAndReductions : Prop :=
  ∀ (s : State) (o : VeOps), Spec.clkGiven s → Spec.fromRegisters s o →
    let lanes := fun sl => (List.range 256).map fun i => laneGet s sl o.la.toNat i
    let key : W128 := s.ctl.rtkh ++ s.ctl.rtkl
    (condVe .bcst o = none → Spec.lanesLand (.bcst o) s o 8 fun sl _ => Spec.laneB s o sl 0)
    ∧ (condVe .iota o = none → Spec.lanesLand (.iota o) s o 8 fun sl i => Spec.laneB s o sl 0 + BitVec.ofNat 32 i)
    ∧ (condVe .rdrop o = none → Spec.lanesLand (.rdrop o) s o 13 fun sl i =>
        ratLane false key (s.ctl.rtsub.setWidth 32) s.cnt.step (veWord o) (laneGet s sl o.la.toNat i) (laneGet s sl o.lb.toNat i))
    ∧ (condVe .rmask o = none → Spec.lanesLand (.rmask o) s o 13 fun sl i =>
        ratLane true key (s.ctl.rtsub.setWidth 32) s.cnt.step (veWord o) (laneGet s sl o.la.toNat i) (laneGet s sl o.lb.toNat i))
    ∧ ∀ p ∈ [(Instr.rsum o, VeFn.rsum), (.rmax o, .rmax), (.rmin o, .rmin), (.ramax o, .ramax), (.risum o, .risum)],
        condVe p.2 o = none →
          (∀ sl ∈ members (groupMask s o.gn.toNat), resBusy s (resKey .reduction sl) s.cnt.clk = false) →
            Spec.lanesLand p.1 s o 20 fun sl _ => reduceLanes p.2 (lanes sl)

/-- CVTN and CVTW land in 11 clk: CVTN packs its 256 converted lanes, CVTW gives the value of each packed element; the format and
the exponent come from the field word or from MODE.FA (08 R193, R194). -/
def Spec.LaneConversions : Prop :=
  ∀ (s : State) (o : VeOps), Spec.clkGiven s → Spec.fromRegisters s o →
    let lanes := fun sl => (List.range 256).map fun i => laneGet s sl o.la.toNat i
    let w := veWord o
    let fmt := if o.imm.isSome ∧ w / 2 ^ 13 % 2 = 1 then w / 512 % 16 else s.seq.fa.toNat
    let e : Int := if o.imm.isSome then signedOf 9 w else 0
    (condVe .cvtn o = none →
      Spec.lanesLand (.cvtn o) s o 11 fun sl i => ((cvtnLanes fmt e (lanes sl)).1).getD i 0)
    ∧ (condVe .cvtw o = none → Spec.lanesLand (.cvtw o) s o 11 fun sl i => (cvtwLanes fmt e (lanes sl)).getD i 0)

/-- Broadcasts, reductions and conversions of the element-wise engine (08 R189 to R196). -/
def Obligations.LaneBroadcasts : Prop :=
  Spec.LaneBroadcastsAndReductions ∧ Spec.LaneConversions

/-- FEVAL and FDRV look their entry up six clk after issue and land at issue + 15: FEVAL evaluates the entry its word names, FDRV
that entry's PAIR; an entry that is not valid gives the canonical NaN and is counted per lane in 7260h:06 (08 R202, R203). Where the
pseudocode names no segment the value is free (log entry 37). -/
def Obligations.FunctionEvaluation : Prop :=
  ∀ (s : State) (o : VeOps), Spec.clkGiven s → Spec.fromRegisters s o → members (groupMask s o.gn.toNat) ≠ [] →
    ∀ p ∈ [(Instr.feval o, VeFn.feval), (.fdrv o, .fdrv)], condVe p.2 o = none →
      let entry := fun (u : State) (sl : Nat) => if p.2 = .fdrv then pairEntry u sl (veWord o % 64)
        else if entryValid u sl (veWord o % 64) then some (veWord o % 64) else none
      ∃ (t : State) (j : VeJob), exec p.1 s = .next t ∧ s.SameData t
        ∧ { due := s.cnt.clk + 6, phase := 1, op := s.cnt.op, res := [], act := .veRead j } ∈ t.work
        ∧ ∀ u : State, u.elem.tableMark = [] →
            (∀ n, n = ((members (groupMask s o.gn.toNat)).filter fun sl => (entry u sl).isNone).length →
              objGet (veRead u j) 0x7260 6
                = if n = 0 then objGet u 0x7260 6 else (objGet u 0x7260 6 + 256 * n) % 2 ^ 64)
            ∧ ∀ sl ∈ members (groupMask s o.gn.toNat), ∃ w ∈ (veRead u j).work, ∃ y : Nat → W32,
                w.due = s.cnt.clk + 15 ∧ w.act = .setL ((List.range 256).map fun i => (laneIdx sl o.ld.toNat i, y i, false))
                  ∧ (entry u sl = none → ∀ i < 256, y i = 0x7FC00000)
                  ∧ ∀ k, entry u sl = some k → ∀ i < 256, ∀ z,
                      fevalWords (fun n => ((List.range 208).map fun m => imgWord (entryImage u sl k) m).getD n 0)
                        (laneGet s sl o.la.toNat i) = some z → y i = z

/-- LDL, STL, LDB, GATH and SCAT issue: three clk later the access is located and checked, at VB[k] plus the offset of the field
word, with the lanes of LA, LB and LD as they stand at issue; a gather or scatter with SRC[0] takes its index from bank LA[2..0],
block ARB instead (08 R187, R197, R199; 02 R55). -/
def Obligations.LaneMemoryIssues : Prop :=
  ∀ (s : State) (o : VeOps) (kind : Nat) (c : VeOps → Instr), Spec.clkGiven s →
    (kind, c) ∈ [(0, Instr.ldl), (1, .stl), (2, .ldb), (3, .gath), (4, .scat)] → condVeMem kind o = none →
      s.elem.lMark = [] → members (groupMask s o.gn.toNat) ≠ [] →
        let w := veWord o
        let fromBank := 3 ≤ kind ∧ o.src.getLsbD 0 = true
        ∃ (t : State) (m : VeMem), exec (c o) s = .next t
          ∧ { due := s.cnt.clk + 3, phase := 1, op := s.cnt.op, res := [], act := .veMem m } ∈ t.work
          ∧ m.kind = kind ∧ m.ld = o.ld.toNat ∧ m.op = s.cnt.op ∧ m.level = s.seq.pl
          ∧ m.addr = (if kind ≤ 2 then storeGet 0 s.ctl.vb (w / 2 ^ 26 % 4) + BitVec.ofNat 64 (w % 2 ^ 22)
              else storeGet 0 s.ctl.vb (w / 2 ^ 12 % 4))
          ∧ m.lanes.map (·.slice) = members (groupMask s o.gn.toNat)
          ∧ m.bank = (if fromBank then some (o.la.toNat % 8, o.arb.toNat) else none)
          ∧ (∀ l ∈ m.lanes, l.d = lanesOf s l.slice o.ld.toNat ∧ l.b = lanesOf s l.slice o.lb.toNat
              ∧ (¬fromBank → l.a = lanesOf s l.slice o.la.toNat))
          ∧ s.SameData t

/-- FTLD lands the entry image in its entry at issue + 15 from the first 208 lanes of LA; entries 0 to 15 are M level's, and a
running stream takes the privilege fault else (08 R204, R205). -/
def Spec.EntryLoads : Prop :=
  ∀ (s : State) (o : VeOps), Spec.clkGiven s → Spec.fromRegisters s o → condVe .ftld o = none →
    let entry := veEntry o
    (s.seq.pl = 3 ∨ 16 ≤ entry →
      ∃ t, exec (.ftld o) s = .next t ∧ s.SameData t
        ∧ ∀ sl ∈ members (groupMask s o.gn.toNat), ∃ w ∈ t.work, w.due = s.cnt.clk + 15 ∧ w.op = s.cnt.op
          ∧ w.act = .table sl entry (((List.range 208).map fun i => laneGet s sl o.la.toNat i).flatMap fun x => leBytes 4 x.toNat)
              (List.replicate 52 false))
    ∧ (s.seq.pl ≠ 3 → entry < 16 → s.seq.running = true →
        exec (.ftld o) s = .next (takeFault s (issueEvent s 4 1 3 false 0)))

/-- A coprocessor opcode whose record is not valid is not loaded (0Ah, subcode 01h); a loaded table routine reads its entry six clk
after issue and lands at the latency its record declares (02 R50, 08 R206). -/
def Spec.CoprocessorRoutine : Prop :=
  ∀ (s : State) (op : BitVec 8) (o : VeOps), Spec.clkGiven s → o.src.getLsbD 0 = false → o.src.getLsbD 1 = false →
    let r := storeGet 0 s.elem.cprec op.toNat
    (r.getLsbD 63 = false → s.seq.running = true →
      exec (.coprocessorOpcode op o) s = .next (takeFault s (issueEvent s 0xA 1 3 false 0)))
    ∧ (r.getLsbD 63 = true → r.getLsbD 62 = false → s.elem.lMark = [] → members (groupMask s o.gn.toNat) ≠ [] →
        (∀ sl ∈ members (groupMask s o.gn.toNat), resBusy s (resKey .coproc sl) s.cnt.clk = false) →
        ∃ (t : State) (j : VeJob) (keys : List Nat), exec (.coprocessorOpcode op o) s = .next t ∧ s.SameData t
          ∧ { due := s.cnt.clk + 6, phase := 1, op := s.cnt.op, res := keys, act := .veRead j } ∈ t.work
          ∧ j.fn = .routine ∧ j.fe = field r 19 14 ∧ j.land = s.cnt.clk + field r 61 49)

/-- Function-table entries and coprocessor routines (08 R202 to R208). -/
def Obligations.ElementEntries : Prop :=
  Spec.EntryLoads ∧ Spec.CoprocessorRoutine

/-! ### Tiles and arrays (05, 06) -/

/-- TCFG takes effect eight clk after issue, with the word of X A; a word with EN = 0 leaves the tile unconfigured; at its issue the
bindings of the tile are cleared in the slices of the group (05 R120, R122; 06 R144). -/
def Obligations.TileConfigures : Prop :=
  ∀ (s : State) (o : TeMove), Spec.clkGiven s → condTcfg o s = none →
    let mask := groupMask s o.gn.toNat
    let word := getX s o.xa.toNat
    ∃ t, exec (.tcfg o) s = .next t
      ∧ t.work = insertWork
          { due := s.cnt.clk + 8, phase := 0, op := s.cnt.op, res := []
            act := .tcfg o.t.toNat (if cfgEn word then word else 0) o.gn mask } s.work
      ∧ (∀ sl ∈ members mask, storeGet 0 t.tiles.active sl ≠ o.t.toNat + 1 ∧ storeGet 0 t.tiles.shadow sl ≠ o.t.toNat + 1)
      ∧ t.tiles.frag = s.tiles.frag ∧ t.tiles.bank = s.tiles.bank ∧ t.tiles.cfg = s.tiles.cfg ∧ t.mem = s.mem
      ∧ t.sc = s.sc ∧ t.elem = s.elem
      ∧ ∀ u : State, tileCfg (landTcfg u o.t.toNat word o.gn mask) o.t.toNat
          = (if cfgEn word then ⟨word, o.gn, mask⟩ else ⟨0, 0, 0⟩)

/-- TLD, TST and SWL of a configured tile issue: every slice of the owning membership that no earlier movement occupies reads each
row r of its block at the clk of Table 5-4, and SWL binds the shadow of those slices to the tile (05 R124, 06 R144). On an empty group
they issue and do nothing (02 R41). -/
def Spec.TileMovementIssues : Prop :=
  ∀ (s : State) (o : TeMove) (kind : Nat) (c : TeMove → Instr), Spec.clkGiven s →
    (kind, c) ∈ [(0, Instr.tld), (1, .tst), (2, .swl)] → condMove kind o s = none → s.work = [] →
      (o.cv = true → (slotGet s o.slot.toNat).marks = []) →
      let tc := tileCfg s o.t.toNat
      (groupMask s o.gn.toNat = 0 → ∃ t, exec (c o) s = .next t ∧ s.SameData t ∧ t.work = [] ∧ t.seq = s.seq ∧ t.ctl = s.ctl)
      ∧ (groupMask s o.gn.toNat ≠ 0 → ∃ t, exec (c o) s = .next t
        ∧ (∀ (k sl : Nat), (members tc.mask)[k]? = some sl → ∃ m : Move,
            m.kind = kind ∧ m.t = o.t.toNat ∧ m.slice = sl ∧ m.gk = k ∧ m.cfg = tc.word ∧ m.addr = getX s o.xa.toNat
              ∧ m.fmt = o.fmt ∧ m.base = s.cnt.clk
              ∧ (0 < mvBc m → ∀ r < mvBr m, ∃ w ∈ t.work, w.act = .rowRead m r ∧ w.phase = 1
                  ∧ w.due = s.cnt.clk + (if kind = 2 then 5 else 7)
                      + ceilDiv ((r + 1) * mvB m) (mvBr m * (if kind = 1 then 1024 else 2048))))
        ∧ (kind = 2 → ∀ sl ∈ members tc.mask, storeGet 0 t.tiles.shadow sl = o.t.toNat + 1)
        ∧ t.mem = s.mem ∧ t.sc = s.sc ∧ t.elem = s.elem ∧ t.tiles.frag = s.tiles.frag ∧ t.tiles.bank = s.tiles.bank)

/-- A movement of a tile that is not configured is a tile fault (06h, subcode 09h), and one under a group other than the owning
membership 06h, subcode 0Ah (05 R120, R129); the group is not empty (02 R41). -/
def Spec.TileMovementFaults : Prop :=
  ∀ (s : State) (o : TeMove) (c : TeMove → Instr), Spec.clkGiven s → c ∈ [Instr.tld, .tst, .swl] → s.seq.running = true →
    groupMask s o.gn.toNat ≠ 0 →
    let tc := tileCfg s o.t.toNat
    (cfgEn tc.word = false → exec (c o) s = .next (takeFault s (issueEvent s 6 9 2 false 0)))
    ∧ (cfgEn tc.word = true → groupMask s o.gn.toNat ≠ tc.mask →
        exec (c o) s = .next (takeFault s (issueEvent s 6 10 2 false 0)))

/-- Tile movements issue, or fault at issue (05 R121 to R131). -/
def Obligations.TileMovements : Prop :=
  Spec.TileMovementIssues ∧ Spec.TileMovementFaults

/-- A tile product that meets no condition issues: the stationary blocks are read seven clk later, result row i lands at its clk, and
the stationary tile becomes the active binding of each slice of its group (06 R143, R150, R151). TMMD has the same product and adds
its derivative rows (09 R220); it has no meaning in compact form (02 R52). On an empty group the two issue and do nothing (02 R41). -/
def Obligations.TileProductIssues : Prop :=
  ∀ (s : State) (o : TeProd) (de : BitVec 6) (db : BitVec 3), Spec.clkGiven s →
    let a := tileCfg s o.ta.toNat
    let b := tileCfg s o.tb.toNat
    let done := fun (c : Instr) (drain : Bool) => ∃ (t : State) (p : Prod),
      exec c s = .next t ∧ p ∈ t.tiles.prods ∧ p.op = s.cnt.op ∧ p.ad = o.ad.toNat ∧ p.cfgA = a ∧ p.cfgB = b ∧ p.acc = o.acc
        ∧ p.drain.isSome = drain ∧ p.trans = o.orr.getLsbD 0
        ∧ (∃ w ∈ t.work, w.act = .prodBlock s.cnt.op ∧ w.due = s.cnt.clk + 7 ∧ w.phase = 1)
        ∧ ((prodFold p).red ≠ 0 → p.routed = false → ∀ i < (prodFold p).mr, ∃ w ∈ t.work,
            w.act = .prodLand s.cnt.op i ∧ w.phase = 0 ∧ w.due = rowLandClk p (prodFold p) i)
        ∧ ((prodFold p).red ≠ 0 → p.routed = true → ∃ d, s.cnt.clk + 24 ≤ d ∧ ∀ i < (prodFold p).mr, ∃ w ∈ t.work,
            w.act = .prodLand s.cnt.op i ∧ w.phase = 0 ∧ w.due = d)
        ∧ t.mem = s.mem ∧ t.sc = s.sc ∧ t.elem = s.elem ∧ t.tiles.frag = s.tiles.frag ∧ t.tiles.bank = s.tiles.bank
    let idle := fun (c : Instr) => ∃ t, exec c s = .next t ∧ s.SameData t ∧ t.work = s.work ∧ t.seq = s.seq ∧ t.ctl = s.ctl
    (groupMask s o.gn.toNat ≠ 0 →
      (condProd false o s = none → done (.tmm o) false)
      ∧ (s.seq.compact = false → condProd true o s = none → done (.tmmd o de db) true))
    ∧ (groupMask s o.gn.toNat = 0 → o.orr.getLsbD 1 = false →
      idle (.tmm o) ∧ (s.seq.compact = false → idle (.tmmd o de db)))
    ∧ (s.seq.compact = true → s.seq.running = true →
        exec (.tmmd o de db) s = .next (takeFault s (issueEvent s 1 0xB 2 false 0)))

/-- MVM of a format the path takes issues: three clk later its header is read, with the vector of each slice and MODE.FW as they
stand at issue; another format is an unsupported combination (0Bh, subcode 01h) (06 R156, Table 6-9). -/
def Obligations.MatrixVectorIssues : Prop :=
  ∀ (s : State) (o : MvOps), Spec.clkGiven s →
    let fw := s.seq.fw.toNat
    let takes := fw ∈ [1, 2, 3, 4, 5, 6, 7, 10, 11, 12, 13, 14]
    (takes → members (groupMask s o.gn.toNat) ≠ [] → s.elem.lMark = [] →
      ∃ (t : State) (j : MvJob), exec (.mvm o) s = .next t
        ∧ { due := s.cnt.clk + 3, phase := 1, op := s.cnt.op, res := [], act := .mvmStart j } ∈ t.work
        ∧ j.ad = o.ad.toNat ∧ j.acc = o.acc ∧ j.addr = getX s o.xa.toNat ∧ j.fw = fw
        ∧ j.vec = (members (groupMask s o.gn.toNat)).map (fun sl => (sl, lanesOf s sl o.lv.toNat))
        ∧ t.mem = s.mem ∧ t.sc = s.sc ∧ t.elem = s.elem ∧ t.tiles.bank = s.tiles.bank)
    ∧ (¬takes → s.seq.running = true → exec (.mvm o) s = .next (takeFault s (issueEvent s 0xB 1 4 false 0)))

/-! ### The stream: bundles, branches, loops and modes (02) -/

/-- The stream may issue in this clk, and nothing else happens by itself in it: no hold, no event at the boundary, no clk
withheld, no scan or cue or invalidation under way, and nothing in flight. -/
def Spec.mayIssue (s : State) : Prop :=
  s.seq.running = true ∧ s.trust.halted = false ∧ s.seq.issueFrom ≤ s.cnt.clk ∧ s.seq.awaiting = [] ∧ s.seq.wait = []
    ∧ s.seq.deferred = [] ∧ s.cnt.ipend = 0 ∧ s.power.mute = 0 ∧ s.fab.beatScans = [] ∧ s.fab.angleScans = []
    ∧ s.fab.cueWait = [] ∧ s.ctl.tinvs = [] ∧ s.work = [] ∧ s.marks = [] ∧ s.seq.holdTo ≤ s.cnt.clk ∧ s.dma.held = []
    ∧ s.fab.inbox = [] ∧ s.rel.undo = [] ∧ s.cnt.writes = [] ∧ s.rel.ending = false
    ∧ s.seq.ctrlMark = .good

/-- BUNDLE_ISSUE of a bundle with no operations: one clk passes, it is counted in 7200h:0A, and the next bundle is the one that
follows; after the second delay slot it is the branch's target if the branch is taken; at the end bundle of the innermost loop it is
the loop's first body bundle while the count is above 1, which is decremented, and a count of 1 closes the loop (02 R43, R47, R48).
A mode change takes effect after the second bundle of its shadow (02 R45). -/
def Spec.EmptyBundleIssues : Prop :=
  ∀ s : State, Spec.mayIssue s → nextBundle (refill s) = .inr [] →
    let pc := s.seq.pc
    let next := afterBundle (refill s) pc.toNat
    let i := s.seq.depth - 1
    next < 2 ^ 22 →
    ∃ t, exec .bundleIssue s = .next t
      ∧ t.cnt.clk = s.cnt.clk + 1 ∧ objGet t 0x7200 0xA = (objGet s 0x7200 0xA + 1) % 2 ^ 64 ∧ t.pending = s.pending
      ∧ t.seq.running = true ∧ t.ctl = s.ctl ∧ s.SameData t
      ∧ (s.seq.branch = none → s.seq.depth = 0 → t.seq.pc.toNat = next)
      ∧ (s.seq.branch = none → 0 < s.seq.depth → storeGet 0 s.seq.le i ≠ pc → t.seq.pc.toNat = next ∧ t.seq.depth = s.seq.depth)
      ∧ (s.seq.branch = none → 0 < s.seq.depth → storeGet 0 s.seq.le i = pc → 1 < (storeGet 0 s.seq.lc i).toNat →
          t.seq.pc = storeGet 0 s.seq.lstart i ∧ storeGet 0 t.seq.lc i = storeGet 0 s.seq.lc i - 1 ∧ t.seq.depth = s.seq.depth)
      ∧ (s.seq.branch = none → s.seq.depth = 1 → storeGet 0 s.seq.le i = pc → (storeGet 0 s.seq.lc i).toNat ≤ 1 →
          t.seq.pc.toNat = next ∧ t.seq.depth = 0)
      ∧ (∀ b, s.seq.branch = some b → b.slot = 1 → t.seq.pc.toNat = next ∧ t.seq.branch = some { b with slot := 2 })
      ∧ (∀ b, s.seq.branch = some b → b.slot = 2 →
          t.seq.branch = none ∧ t.seq.pc = (if b.taken then b.target else BitVec.ofNat 22 next))
      ∧ (∀ c, s.seq.change = some c → c.left = 2 → t.seq.change = some { c with left := 1 } ∧ t.seq.pl = s.seq.pl)
      ∧ (∀ c, s.seq.change = some c → c.left = 1 → t.seq.change = none
          ∧ (c.kind = 3 → t.seq.pl = (if c.value.toNat % 4 ≠ 2 ∧ c.value.toNat % 4 < s.seq.pl.toNat then c.value.setWidth 2
              else s.seq.pl))
          ∧ (c.kind = 4 → t.seq.compact = !s.seq.compact)
          ∧ (c.kind = 2 → ∀ g, storeGet 0 t.seq.gmask g
              = if g = c.value.toNat % 8 then storeGet 0 s.seq.gstage g else storeGet 0 s.seq.gmask g))

/-- A bundle that holds one ADDI, spelt as Tables 2-1 to 2-4 spell it (header with the SC bit and BLEN 3, MAJ 01h MIN 00h, D, A and Q,
one immediate syllable), issues in one clk what the ADDI command does, and the next bundle lies four syllables on (02 R33, R34, R36). -/
def Spec.AddiBundleIssues : Prop :=
  ∀ (s : State) (d a : BitVec 5) (q : BitVec 4) (imm : BitVec 14), Spec.mayIssue s →
    let r := refill s
    let x := s.seq.pc.toNat
    let m := scImm q { width := .w14, bits := imm.setWidth 42 }
    s.seq.compact = false → s.seq.past = false → s.seq.branch = none → s.seq.depth = 0 → s.seq.change = none →
      x % 16 < 12 → stepAddr false x 4 < 2 ^ 22 → (∀ k < 4, sylBad r false x k = false) →
      syllable r false x 0 = 0x2003 → syllable r false x 1 = 0x0100 →
      syllable r false x 2 = d.toNat * 512 + a.toNat * 16 + q.toNat → syllable r false x 3 = imm.toNat →
      ∃ t, exec .bundleIssue s = .next t ∧ t.cnt.clk = s.cnt.clk + 1 ∧ t.cnt.op = s.cnt.op + 1
        ∧ t.seq.pc.toNat = stepAddr false x 4 ∧ t.work = []
        ∧ getX t d.toNat = (if d = 0 then 0 else getX s a.toNat + m) ∧ (∀ r, r ≠ d.toNat → getX t r = getX s r)
        ∧ t.sc.f = s.sc.f ∧ t.mem = s.mem ∧ t.tiles = s.tiles ∧ t.elem = s.elem ∧ t.slots = s.slots ∧ t.ctl = s.ctl

/-- One clk of the running stream: a bundle of no operations, and one that adds (02 R29, R53). -/
def Obligations.BundlesIssue : Prop :=
  Spec.EmptyBundleIssues ∧ Spec.AddiBundleIssues

/-- Whether the branch condition CC holds of X XA (02 Table 2-4). -/
def Spec.branchTaken (cc : BitVec 3) (x : W64) : Prop :=
  match cc.toNat with
  | 0 => True
  | 1 => x = 0
  | 2 => x ≠ 0
  | 3 => x.toInt < 0
  | 4 => 0 ≤ x.toInt
  | 5 => 0 < x.toInt
  | _ => x.toInt ≤ 0

/-- BR, BRF and the indirect branch issue: the branch waits for its two delay slots, taken as CC says of X XA; BRF's form change has
them as its shadow; X XL takes the address of the bundle after the second delay slot. The indirect branch goes to X XA[21..0]. Nothing
else changes (02 R43, R46). -/
def Spec.BranchesIssue : Prop :=
  ∀ (s : State) (xa xl : BitVec 5) (cc : BitVec 3) (imm : BitVec 28) (c : Instr) (target : IAddr) (brf : Bool), Spec.clkGiven s →
    (c, target, brf) ∈ [(Instr.br xa cc xl imm, imm.setWidth 22, false), (.brf xa cc xl imm, imm.setWidth 22, true),
      (.brIndirect xa cc xl, (getX s xa.toNat).setWidth 22, false)] →
    cc ≠ 7 → s.seq.branch = none → nearLoopEnd s = false → (brf = true → s.seq.change = none) →
    target.toNat % 16 < (if s.seq.compact = brf then 12 else 14) →
      let link := afterBundle s (nextTwo s).2
      ∃ (t : State) (taken : Bool), exec c s = .next t ∧ (taken = true ↔ Spec.branchTaken cc (getX s xa.toNat))
        ∧ t = { s with
            cnt := { s.cnt with op := s.cnt.op + 1 }
            work := if xl = 0 then s.work
              else insertWork ⟨s.cnt.clk + 1, 0, s.cnt.op, [], .setX xl.toNat (BitVec.ofNat 64 (link % 2 ^ 22))⟩ s.work
            seq := { s.seq with
              branch := some { addr := s.seq.pc, target := target, taken := taken, slot := 1, brf := brf }
              change := if brf then some { kind := 4, value := 0, left := 2 } else s.seq.change } }

/-- A branch with CC 111b, a branch where a branch is pending or at the end of a loop, and a branch to a syllable that the line does
not have, are faults: 01h subcode 05h, 01h subcode 07h, 02h subcode 01h with the target in FADDR (02 R29, R35, R44, R49; 03 Table 3-3). -/
def Spec.BranchFaults : Prop :=
  ∀ (s : State) (xa xl : BitVec 5) (cc : BitVec 3) (imm : BitVec 28), Spec.clkGiven s → s.seq.running = true →
    let c := Instr.br xa cc xl imm
    (cc = 7 → exec c s = .next (takeFault s (issueEvent s 1 5 0 false 0)))
    ∧ (cc ≠ 7 → (s.seq.branch.isSome = true ∨ nearLoopEnd s = true) →
        exec c s = .next (takeFault s (issueEvent s 1 7 0 false 0)))
    ∧ (cc ≠ 7 → s.seq.branch = none → nearLoopEnd s = false → (if s.seq.compact then 14 else 12) ≤ imm.toNat % 16 →
        exec c s = .next (takeFault s (issueEvent s 2 1 0 false (BitVec.ofNat 64 (imm.toNat % 2 ^ 22)))))

/-- LOOP opens a loop: the count is CI, or X XC kept to 32 bits, the end and the first body bundle are held, and the depth rises; a
count of zero opens none and goes on after the end bundle (02 R47). The registers of the other loops stay. -/
def Spec.LoopOpens : Prop :=
  ∀ (s : State) (xc : BitVec 5) (ci : BitVec 9) (imm : BitVec 28), Spec.clkGiven s →
    let e : IAddr := imm.setWidth 22
    let x := (getX s xc.toNat).toNat
    let n := if xc = 0 then ci.toNat else min x 0xFFFFFFFF
    let d := s.seq.depth
    s.seq.branch = none → d < 4 → e.toNat % 16 < (if s.seq.compact then 14 else 12) → s.seq.pc.toNat < e.toNat →
      ∃ t, exec (.loop xc ci imm) s = .next t ∧ t.cnt = { s.cnt with op := s.cnt.op + 1 } ∧ t.work = s.work
        ∧ s.SameData t ∧ t.ctl = s.ctl
        ∧ (n ≠ 0 → t.seq.depth = d + 1 ∧ t.seq.pc = s.seq.pc ∧ (storeGet 0 t.seq.lc d).toNat = n ∧ storeGet 0 t.seq.le d = e
            ∧ storeGet 0 t.seq.lstart d = BitVec.ofNat 22 (afterBundle s s.seq.pc.toNat)
            ∧ ∀ k, k ≠ d → storeGet 0 t.seq.lc k = storeGet 0 s.seq.lc k ∧ storeGet 0 t.seq.le k = storeGet 0 s.seq.le k)
        ∧ (n = 0 → t.seq = { s.seq with
            pc := BitVec.ofNat 22 (afterBundle s e.toNat), past := decide (2 ^ 22 ≤ afterBundle s e.toNat) })

/-- Branches and loops (02 R43, R44, R47). -/
def Obligations.BranchesAndLoops : Prop :=
  Spec.BranchesIssue ∧ Spec.BranchFaults ∧ Spec.LoopOpens

/-- The mode and system operations of the stream complete (02 R40 to R42, R45, 03 R91): MODEW, GMC and PDROP put their change in its
two-bundle shadow; GMS stages one chunk of a mask; MODER lands MODE in one clk; PMSYNC begins its count of two more bundles; HALT
stops a running stream, which the host is told. Each answers a next state under conditions on the level and the pending change alone, and
nothing else changes. -/
def Spec.ModeOperationsComplete : Prop :=
  ∀ (s : State) (xa : BitVec 5) (ch : BitVec 2) (gn : BitVec 3) (pl : BitVec 2), Spec.clkGiven s →
    let x := getX s xa.toNat
    let shadow := fun (k : BitVec 3) (v : Nat) =>
      (Host.Outcome.next { issuedOnly s with seq := { s.seq with change := some { kind := k, value := BitVec.ofNat 10 v, left := 2 } } } :
        Host.Outcome State Fault Refusal)
    (s.seq.change = none →
      exec (.modew xa) s = shadow 1 (field x 15 12 * 64 + field x 11 8 * 4 + field x 7 6)
      ∧ exec (.gmc gn) s = shadow 2 gn.toNat
      ∧ (pl ≠ 2 → pl.toNat < s.seq.pl.toNat → exec (.pdrop pl) s = shadow 3 pl.toNat))
    ∧ exec (.moder xa) s = .next (resultDue s 1 [] (.setX xa.toNat (BitVec.ofNat 64
        (s.seq.pl.toNat * 2 + (if s.seq.compact then 32 else 0) + s.seq.spr.toNat * 64 + s.seq.fw.toNat * 256
          + s.seq.fa.toNat * 4096))))
    ∧ (ch ≠ 3 → ∃ t, exec (.gms xa ch gn) s = .next t
        ∧ t = { issuedOnly s with seq := { s.seq with gstage := t.seq.gstage } }
        ∧ ∀ g i, i < 160 → (storeGet 0 t.seq.gstage g).getLsbD i
            = if g = gn.toNat ∧ i / 64 = ch.toNat then x.getLsbD (i % 64) else (storeGet 0 s.seq.gstage g).getLsbD i)
    ∧ (s.seq.pl = 3 → exec .pmsync s = .next { issuedOnly s with seq := { s.seq with pmsync := s.seq.pmsync ++ [2] } })
    ∧ (s.seq.pl = 3 → s.seq.running = true → domOn s 29 = false →
        exec .halt s = .next { issuedOnly s with
          seq := { s.seq with running := false, wait := [], waitBeats := 0 }
          trust := { s.trust with halted := false }
          out := .stream false 0 :: s.out })
    ∧ (s.seq.pl = 3 → s.seq.running = true →
        ∃ t, exec .halt s = .next t ∧ t.seq = { s.seq with running := false, wait := [], waitBeats := 0 }
          ∧ .stream false 0 ∈ t.out ∧ t.cnt.op = s.cnt.op + 1 ∧ s.SameData t)

/-- The privilege of the system operations: PMSYNC and HALT outside M level and XRET at U level are violations (04h, subcode 01h),
and a PDROP that does not lower the level is 01h, subcode 0Ah (02 R42). -/
def Spec.SystemPrivilege : Prop :=
  ∀ (s : State) (pl : BitVec 2), Spec.clkGiven s → s.seq.running = true →
    (s.seq.pl ≠ 3 → exec .pmsync s = .next (takeFault s (issueEvent s 4 1 0 false 0))
      ∧ exec .halt s = .next (takeFault s (issueEvent s 4 1 0 false 0)))
    ∧ (s.seq.pl = 0 → exec .xret s = .next (takeFault s (issueEvent s 4 1 0 false 0)))
    ∧ (pl ≠ 2 → s.seq.change = none → s.seq.pl.toNat ≤ pl.toNat →
        exec (.pdrop pl) s = .next (takeFault s (issueEvent s 1 0xA 0 false 0)))

/-- PMSYNC, HALT, MODEW, MODER, GMS, GMC and PDROP complete where the level and the shadow let them issue; what a level may not do
(02 R41, R42, R45, 03 R65, R91). -/
def Obligations.ModesAndPrivilege : Prop :=
  Spec.ModeOperationsComplete ∧ Spec.SystemPrivilege

/-! ### Entry and return (03) -/

/-- The state after entry at level l, with the four words given, the handler at h: the stream runs at l in native form with no loop,
branch or change open, its first bundle may issue 16 clk after the entry, and one clk has passed. The other level's registers stay, and
so does all data, but for the cache line that a vector in clay or marl is read through (log entry 95). -/
def Spec.entered (s t : State) (l : BitVec 2) (ret saved fault faddr : W64) (h : IAddr) : Prop :=
  (levelRegs t l).ret = ret ∧ (levelRegs t l).saved = saved ∧ (levelRegs t l).fault = fault ∧ (levelRegs t l).faddr = faddr
    ∧ (levelRegs t l).vtb = (levelRegs s l).vtb ∧ (levelRegs t l).ie = (levelRegs s l).ie
    ∧ (l = 3 → t.ctl.sx = s.ctl.sx) ∧ (l = 1 → t.ctl.mx = s.ctl.mx)
    ∧ t.seq.running = true ∧ t.seq.pl = l ∧ t.seq.compact = false ∧ t.seq.depth = 0 ∧ t.seq.branch = none ∧ t.seq.change = none
    ∧ t.seq.pc = h ∧ t.seq.issueFrom = s.cnt.clk + 16 ∧ t.cnt.clk = s.cnt.clk + 1
    ∧ (useCache s (field (levelRegs s l).vtb 47 8 * 256 + 8 * field fault 7 0) 8 false 0).SameData t

/-- An address that a slice reaches without an error of the die-to-die link: on its own die, or by what the link brings (log entry 104). The
sequencer reaches it as slice 0 does. -/
def Spec.linkFree (slice pa : Nat) : Prop := dieOfAddr pa = slice / 80 ∨ ∀ clk, Config.linkOutcome clk pa % 6 = 0

/-- The vector of a code at a level is a valid, well-formed one that names h, in memory that has a target. -/
def Spec.vectorAt (s : State) (l : BitVec 2) (code : Nat) (h : IAddr) : Prop :=
  let va := field (levelRegs s l).vtb 47 8 * 256 + 8 * code
  let e : W64 := BitVec.ofNat 64 (ofLe (peekBytes s va 8))
  hasTarget s va = true ∧ Spec.linkFree 0 va ∧ bit e 63 = true ∧ h = e.setWidth 22 ∧ h.toNat % 16 < 12

/-- SAVED for an interrupted stream that has no branch pending (03 Table 3-2). -/
def Spec.savedOf (s : State) (deferred : Bool) : W64 :=
  let change := match s.seq.change with
    | some c => c.left * 2 ^ 33 + c.kind.toNat * 2 ^ 30 + c.value.toNat * 2 ^ 20
    | none => 0
  BitVec.ofNat 64 (s.seq.depth * 2 ^ 35 + change + (if deferred then 2 ^ 14 else 0) + 8 + (if s.seq.compact then 4 else 0)
    + s.seq.pl.toNat)

/-- FAULT_ENTRY takes the deferred fault that was detected: the level that its code routes it to saves the interrupted stream in RET
and SAVED and the fault in FAULT and FADDR, and the handler is the one of its vector (03 R68, R69, R73). INTERRUPT_ENTRY does so for
the lowest pending enabled interrupt, whose latch it clears (03 R70). -/
def Obligations.EntrySavesTheStream : Prop :=
  ∀ (s : State) (h : IAddr) (l : BitVec 2),
    s.seq.running = true → s.power.mute = 0 → s.fab.beatScans = [] → s.fab.angleScans = [] → s.fab.cueWait = [] → s.ctl.tinvs = [] →
    s.work = [] → s.marks = [] → s.dma.held = [] → s.fab.inbox = [] → s.rel.undo = [] → s.cnt.writes = [] →
    s.rel.ending = false → s.cnt.escalating = false → s.seq.branch = none → s.seq.depth ≤ 4 →
    (∀ c, s.seq.change = some c → c.left ≤ 2) →
    (∀ d : Deferred, s.seq.deferred = [d] → d.clk < s.cnt.clk → d.replay = none → d.code ≠ 7 → d.code ≠ 0xC →
      (levelRegs s l).saved.getLsbD 3 = false → l = routeFault d.code.toNat d.level s.seq.pl →
      Spec.vectorAt s l d.code.toNat h →
        ∃ t, exec .faultEntry s = .next t ∧ t.seq.deferred = []
          ∧ Spec.entered s t l (s.seq.pc.setWidth 64) (Spec.savedOf s true)
              (BitVec.ofNat 64 (d.code.toNat + d.sub.toNat * 2 ^ 8 + d.slot.toNat * 2 ^ 16 + 2 ^ 19 + d.slice % 256 * 2 ^ 24
                + d.bundle.toNat * 2 ^ 40 + d.level.toNat * 2 ^ 62)) d.faddr h)
    ∧ (∀ k : Nat, s.seq.deferred = [] → k < 16 → s.cnt.ipend.getLsbD k = true → (∀ j < k, s.cnt.ipend.getLsbD j = false) →
      l = (if s.ctl.iroute.getLsbD k then 3 else 1) → (levelRegs s l).ie.getLsbD k = true → s.seq.pl.toNat < l.toNat →
      Spec.vectorAt s l (16 + k) h →
        ∃ t, exec .interruptEntry s = .next t
          ∧ (∀ j < 16, t.cnt.ipend.getLsbD j = (s.cnt.ipend.getLsbD j && decide (j ≠ k)))
          ∧ Spec.entered s t l (s.seq.pc.setWidth 64) (Spec.savedOf s false)
              (BitVec.ofNat 64 (16 + k + s.seq.pl.toNat * 2 ^ 62)) 0 h)

/-- XRET without a replay record or tile progress: the level, the form, the loop depth, the pending branch and the pending change become
those of SAVED and RET, SAVED.SA is cleared, and issue goes on eight clk later at RET, or at the delay slot of the branch at RET that DI
names (03 R82, R86 to R88, Table 3-2). The reserved LD 5 to 7 and values of DI and MSC are read as log entry 96 says. -/
def Spec.XretReturns : Prop :=
  ∀ s : State, Spec.clkGiven s →
    let x := s.seq.pl
    let r := levelRegs s x
    let w := r.saved
    let ppl : BitVec 2 := w.setWidth 2
    let form := { s with seq := { s.seq with compact := w.getLsbD 2 } }
    let ret := (r.ret.setWidth 22 : IAddr).toNat
    x ≠ 0 → x ≠ 2 → ppl ≠ 2 → ppl.toNat ≤ x.toNat → w.getLsbD 19 = false → s.tiles.recs = [] → s.cnt.escalating = false →
      ∃ t, exec .xret s = .next t ∧ t.seq.running = s.seq.running ∧ t.seq.issueFrom = s.cnt.clk + 8 ∧ t.cnt.clk = s.cnt.clk
        ∧ t.seq.pc = (match savedBranch w r.ret with
          | none => r.ret.setWidth 22
          | some b => BitVec.ofNat 22 (if b.slot = 2 then afterBundle form (afterBundle form ret) else afterBundle form ret))
        ∧ t.seq.depth = min (field w 37 35) 4 ∧ t.seq.branch = savedBranch w r.ret
        ∧ (levelRegs t x).saved.getLsbD 3 = false ∧ (levelRegs t x).ret = r.ret ∧ (levelRegs t x).fault = r.fault
        ∧ (field w 32 30 = 0 → t.seq.pl = ppl ∧ t.seq.compact = w.getLsbD 2 ∧ t.seq.change = none)
        ∧ (∀ k : BitVec 3, field w 32 30 = k.toNat → k ∈ [1, 2, 3, 4] → field w 34 33 = 1 ∨ field w 34 33 = 2 →
            t.seq.pl = ppl ∧ t.seq.compact = w.getLsbD 2
            ∧ t.seq.change = some { kind := k, value := BitVec.ofNat 10 (field w 29 20), left := field w 34 33 })
        ∧ s.SameData t ∧ t.work = s.work ∧ t.pending = s.pending

/-- What entry saves, the return restores: from SAVED and RET as an entry computes them, the pending branch, the pending change, the
level, the form and the depth come back, and issue goes on at the branch or at the bundle that was not issued (03 R73, R86, R87). -/
def Spec.ReturnUndoesEntry : Prop :=
  ∀ (s : State) (e : Event), s.seq.depth ≤ 4 → e.replay = none →
    (∀ b, s.seq.branch = some b → (b.slot = 1 ∨ b.slot = 2) ∧ (b.brf = true ↔ ∃ c, s.seq.change = some c ∧ c.kind = 4)) →
    (∀ c, s.seq.change = some c → c.kind ∈ [1, 2, 3, 4] ∧ c.left ≤ 2) →
      let w := (savedWords s e).2
      let ret := (savedWords s e).1
      w.setWidth 2 = s.seq.pl ∧ w.getLsbD 2 = s.seq.compact ∧ field w 37 35 = s.seq.depth
        ∧ savedChange w = s.seq.change ∧ savedBranch w ret = s.seq.branch
        ∧ ret.setWidth 22 = (match s.seq.branch with
          | some b => b.addr
          | none => s.seq.pc)

/-- XRET, and that it undoes an entry (03 R83). -/
def Obligations.Returns : Prop :=
  Spec.XretReturns ∧ Spec.ReturnUndoesEntry

/-- The watchdogs: a count of beats without a MARK that has reached MX_WDT files the deferred fault 09h, subcode 01h, and restarts at
zero; a wait that has met that many boundaries files 09h, subcode 02h, for its slot and bundle. A limit of 0 files none (03 R480). -/
def Obligations.WatchdogExpiries : Prop :=
  ∀ s : State, s.seq.running = true →
    let lim := field s.ctl.wdt 31 0
    let files := fun (t : State) (sub : BitVec 8) (slot : BitVec 3) (bundle : IAddr) =>
      ∃ d, d ∈ t.seq.deferred ∧ d.code = 9 ∧ d.sub = sub ∧ d.slot = slot ∧ d.bundle = bundle ∧ d.level = s.seq.pl
        ∧ d.clk = s.cnt.clk ∧ d.replay = none
    (lim ≠ 0 → lim ≤ s.cnt.watchdog →
      ∃ t, exec .watchdogExpiry s = .next t ∧ t.cnt.watchdog = 0 ∧ files t 1 0 0 ∧ s.SameData t ∧ t.ctl = s.ctl)
    ∧ (∀ w r, s.seq.wait = w :: r → lim ≠ 0 → lim ≤ s.seq.waitBeats →
        ∃ t, exec .waitHoldWatchdogExpiry s = .next t ∧ t.seq.waitBeats = 0 ∧ s.SameData t ∧ t.ctl = s.ctl
          ∧ files t 2 (match w with
            | .dmw _ _ => 5
            | .clw _ => 6
            | .wbeat _ => 7) s.seq.waitAt)
    ∧ (lim = 0 → exec .watchdogExpiry s = .next s ∧ exec .waitHoldWatchdogExpiry s = .next s)

/-! ### The DM, CL and CU slots (10, 12, 11) -/

/-- A DM issue joins the DMA issue queue with its descriptor address, group, tag, level and scale policy, and a CL issue the collective
queue, where the queue has room; an empty group joins nothing. DMW, CLW and WBEAT hold issue from the next clk on for what they name;
a WBEAT whose count is reached holds nothing. RBEAT and RANG land the beat count with the clk since its boundary, and the step angle
with the step count, in one clk (10 R254, R260, 12 R314, R317, 11 R301). -/
def Spec.SideSlotsComplete : Prop :=
  ∀ (s : State) (x : BitVec 5) (gn : BitVec 3) (tag : BitVec 6), Spec.clkGiven s →
    let v := getX s x.toNat
    let mask := groupMask s gn.toNat
    let holds := fun (w : Wait) => (Host.Outcome.next { issuedOnly s with
      seq := { s.seq with wait := s.seq.wait ++ [w], waitBeats := 0, waitAt := s.seq.pc } } : Host.Outcome State Fault Refusal)
    let since := min (s.cnt.clk + s.cnt.withheld - s.fab.beat.boundary) 0xFFFF
    (s.dma.queue.length < 16 → s.fab.cueWait = [] → exec (.dmaIssue x gn tag) s = .next { issuedOnly s with
        dma := { s.dma with
          queue := if mask = 0 then s.dma.queue
            else s.dma.queue ++ [⟨v, mask, tag, s.seq.pl, s.seq.spr, s.cnt.op, s.cnt.clk, none, none⟩] } })
    ∧ (s.coll.queue.length < 16 → exec (.collectiveIssue x tag) s = .next { issuedOnly s with
        coll := { s.coll with queue := s.coll.queue ++ [(v, tag, s.seq.pl, s.cnt.op, s.cnt.clk)] } })
    ∧ exec (.dmw gn tag) s = holds (.dmw mask tag) ∧ exec (.clw tag) s = holds (.clw tag)
    ∧ (s.fab.beat.count.toNat < v.toNat % 2 ^ 48 → exec (.wbeat x) s = holds (.wbeat (v.setWidth 48)))
    ∧ (v.toNat % 2 ^ 48 ≤ s.fab.beat.count.toNat → exec (.wbeat x) s = .next (issuedOnly s))
    ∧ exec (.rbeat x) s = .next (resultDue s 1 [] (.setX x.toNat (BitVec.ofNat 16 since ++ s.fab.beat.count)))
    ∧ exec (.rang x) s = .next (resultDue s 1 [] (.setX x.toNat (s.cnt.step ++ s.cnt.angle)))

/-- A queue that is full holds issue: nothing is placed (02 R53). -/
def Spec.FullQueuesHoldIssue : Prop :=
  ∀ (s : State) (x : BitVec 5) (gn : BitVec 3) (tag : BitVec 6), Spec.clkGiven s →
    (16 ≤ s.dma.queue.length → exec (.dmaIssue x gn tag) s = .next s)
    ∧ (16 ≤ s.coll.queue.length → exec (.collectiveIssue x tag) s = .next s)

/-- The operations of the DM, CL and CU slots, and the queues that hold issue (02 Table 2-4, 10 R254, 12 R314, 11 R301). -/
def Obligations.SideSlots : Prop :=
  Spec.SideSlotsComplete ∧ Spec.FullQueuesHoldIssue

/-- MARK sets the angle, starts an angle scan from the next clk on and clears the watchdog's count; at angle 0 the step count rises by
one, or stays where a repeat was announced, and a pending stop stops the stream instead (01 R20, 11 R305, R311). Registers of programs
stay; the scale slots advance in the clks that follow. -/
def Obligations.MarkMovesTheAngle : Prop :=
  ∀ (s : State) (imm : BitVec 28), Spec.clkGiven s →
    let angle : BitVec 16 := imm.setWidth 16
    (angle ≠ 0 → exec (.mark imm) s = .next { s with
        cnt := { s.cnt with op := s.cnt.op + 1, angle := angle, watchdog := 0 }
        fab := { s.fab with angleScans := s.fab.angleScans ++ [(s.cnt.clk + 1, 0, angle.toNat)] } })
    ∧ (angle = 0 → s.cnt.stopAtMark = false → ∃ t, exec (.mark imm) s = .next t
        ∧ t.cnt.angle = 0 ∧ t.cnt.watchdog = 0 ∧ t.cnt.repeatPending = false
        ∧ t.cnt.step = (if s.cnt.repeatPending then s.cnt.step else s.cnt.step + 1)
        ∧ t.fab.angleScans = s.fab.angleScans ++ [(s.cnt.clk + 1, 0, 0)] ∧ t.seq = s.seq ∧ s.SameData t)
    ∧ (angle = 0 → s.cnt.stopAtMark = true → s.seq.running = true →
        ∃ t, exec (.mark imm) s = .next t ∧ t.seq.running = false ∧ t.cnt.step = s.cnt.step ∧ t.cnt.angle = s.cnt.angle
          ∧ s.SameData t)

/-! ### The beat (11) -/

/-- At a boundary of a device whose generator runs and does not wait, the count rises by one, the boundary is this clk, a beat scan of
that count begins in it, and every ACTIVE Shuaskol port's next frame carries the marker; the beat compare raises interrupt 19h once its
count is reached (11 R298, R304, 03 R70). -/
def Spec.BeatBoundaries : Prop :=
  ∀ s : State, s.fab.beat.gen = true → s.fab.beat.waiting = false → domOn s 1 = true →
    let count := s.fab.beat.count + 1
    ∃ t, exec (.beatBoundary true) s = .next t
      ∧ t.fab.beat.count = count ∧ t.fab.beat.boundary = s.cnt.clk + s.cnt.withheld
      ∧ t.fab.beatScans = s.fab.beatScans ++ [(s.cnt.clk, 0, count.toNat)]
      ∧ (∀ k ∈ shuaskolPorts s, (portGet t k).marker = true)
      ∧ (∀ k, k ∉ shuaskolPorts s → portGet t k = portGet s k)
      ∧ t.cnt.ipend = (if s.ctl.bcmpArmed = true ∧ s.ctl.bcmp.toNat % 2 ^ 48 ≤ count.toNat then s.cnt.ipend ||| 0x200 else s.cnt.ipend)
      ∧ (s.ctl.wdt = 0 → t.cnt.watchdog = s.cnt.watchdog ∧ t.seq = s.seq)
      ∧ s.SameData t ∧ t.work = s.work ∧ t.cnt.clk = s.cnt.clk ∧ t.cnt.step = s.cnt.step

/-- The root's enable starts the beat at object 2320h:04 with the period of 2320h:01 and HOP 0; a period switch takes effect at its
count; the backup root counts on as acting root; a holdover's end files record 0043h of severity 2, sends a tocsin and stops a running
stream at its next MARK to angle 0; a reacquired beat is taken from the best upstream, jumping forward, or waits for the upstream's count
(11 R294 to R296, R299, R300). -/
def Spec.BeatSources : Prop :=
  ∀ (s : State) (port : BitVec 3) (count : BitVec 48),
    let b := s.fab.beat
    let k := port.toNat
    (domOn s 1 = true → b.enabled = false → objGet s 0x2300 1 = objGet s 0x2320 2 → ∃ t, exec .beatRootEnable s = .next t
        ∧ t.fab.beat.gen = true ∧ t.fab.beat.st = 1 ∧ t.fab.beat.hop = 0 ∧ t.fab.beat.period = objGet s 0x2320 1
        ∧ t.fab.beat.count = BitVec.ofNat 48 (objGet s 0x2320 4) ∧ s.SameData t)
    ∧ (∀ c ns, b.switchAt = some (c, ns) → c.toNat ≤ b.count.toNat → exec .beatPeriodSwitch s
        = .next { s with fab := { s.fab with beat := { b with period := ns, periodFrom := c, switchAt := none } } })
    ∧ (b.gen = true → b.st ≠ 1 → objGet s 0x2300 1 = objGet s 0x2320 3 → objGet s 0x2320 3 ≠ objGet s 0x2320 2 →
        ∃ t, exec .backupRootTakeover s = .next t ∧ t.fab.beat = { b with
          st := 1, actingRoot := true, hop := 0, waiting := false, root := BitVec.ofNat 14 (objGet s 0x2320 3) }
        ∧ t.seq = s.seq ∧ s.SameData t)
    ∧ (b.st = 3 → ∃ t, exec .holdoverExpiry s = .next t ∧ t.fab.beat.st = 4
        ∧ (Spec.recordsFit s → ∃ r, Spec.lastRecord t = some r ∧ r.type = 0x43 ∧ r.sev = 2)
        ∧ t.cnt.stopAtMark = (s.seq.running || s.cnt.stopAtMark) ∧ t.seq = s.seq ∧ s.SameData t)
    ∧ (bestUpstream s = some k → b.st ≠ 1 → b.st ≠ 2 → domOn s 1 = true →
        ∃ t, exec (.beatReacquired port count) s = .next t ∧ t.fab.beat.st = 2 ∧ t.fab.beat.upstream = k
          ∧ t.fab.beat.hop.toNat = (portGet s k).peerHop.toNat + 1
          ∧ (b.gen = true → b.count.toNat ≤ count.toNat → t.fab.beat.count = count ∧ t.fab.beat.waiting = false)
          ∧ (b.gen = true → count.toNat < b.count.toNat → t.fab.beat.count = b.count ∧ t.fab.beat.waiting = true)
          ∧ s.SameData t)

/-- The beat: its boundaries and where it comes from (11 R294 to R300). -/
def Obligations.TheBeat : Prop :=
  Spec.BeatBoundaries ∧ Spec.BeatSources

/-- A stream starts with X1 as its cue gives it and every other X and F register zero, native form, M level, no loop, branch or change
open, every tile unconfigured, no progress record, an empty stash and the vendor entries in place; at M level's address, or at the
runtime address of 2400h:01 (01 R25, 02 R46, 04 R99, 05 R119, 08 R204, 09 R228). A device that was damped starts it after the wake
(15 R396). -/
def Obligations.StreamStarts : Prop :=
  ∀ (s : State) (q : Nat) (own : BitVec 2) (arg : Nat), s.power.wake = some (q, own, arg) → s.power.state = 0 →
    ∃ t, exec .streamStartAfterWake s = .next t ∧ t.power.wake = none ∧ t.seq.running = true ∧ t.seq.compact = false ∧ t.seq.pl = 3
      ∧ t.seq.pc = (if own = 3 then BitVec.ofNat 22 arg else BitVec.ofNat 22 (objGet s 0x2400 1))
      ∧ getX t 1 = (if own = 3 then 0 else BitVec.ofNat 64 (arg % 2 ^ 22)) ∧ (∀ r, r ≠ 1 → getX t r = 0) ∧ (∀ r, getF t r = 0)
      ∧ t.seq.branch = none ∧ t.seq.change = none ∧ t.seq.wait = [] ∧ t.seq.deferred = [] ∧ t.seq.lines = []
      ∧ t.tiles.cfg = [] ∧ t.tiles.recs = [] ∧ t.tiles.active = [] ∧ t.tiles.shadow = [] ∧ t.elem.vendor = true
      ∧ t.dma.stash = [] ∧ t.mem = s.mem ∧ t.tiles.frag = s.tiles.frag ∧ t.elem.l = s.elem.l

/-! ### Control registers with an effect of their own -/

/-- The writes that act: SX_SWI raises interrupts 1Ch to 1Fh by bits 0 to 3; SX_TINV is complete 64 clk on, for SX_PTB as it stands; a nonzero SX_BCMP arms
interrupt 19h; MX_WDT restarts the count; SCLDQ puts the negated sum of the slots' exponents into the SCDQ it names; CPENT and MSOP write
the selected record and micro-op where no rule refuses it; the level must have the right (03 R70, R97, R480, 07 R172, 08 R206, R207). -/
def Spec.ControlActions : Prop :=
  ∀ (s : State) (v : W64), Spec.clkGiven s →
    let lae := fun k => signedOf 9 (slotGet s k).lae.toNat * (if (slotGet s k).lv then 1 else 0)
    let f := fun hi lo => field v hi lo
    (s.seq.pl = 1 ∨ s.seq.pl = 3 →
      (∃ t, exec (.sxSwiWrite v) s = .next t ∧ t = { issuedOnly s with cnt := { s.cnt with op := s.cnt.op + 1, ipend := t.cnt.ipend } }
        ∧ ∀ j < 16, t.cnt.ipend.getLsbD j = (s.cnt.ipend.getLsbD j || (decide (12 ≤ j) && v.getLsbD (j - 12))))
      ∧ exec (.sxTinvWrite v) s = .next { issuedOnly s with
          ctl := { s.ctl with tinvs := s.ctl.tinvs ++ [(s.cnt.clk + 64, v.getLsbD 0, f 51 21, s.ctl.ptb)] } }
      ∧ exec (.sxBcmpWrite v) s = .next { issuedOnly s with
          ctl := { s.ctl with bcmp := v &&& 0xFFFFFFFFFFFF, bcmpArmed := decide (v &&& 0xFFFFFFFFFFFF ≠ 0) } }
      ∧ (v.getLsbD 63 = true → v.getLsbD 62 = true → 4 ≤ f 61 49 → f 61 49 ≤ 4096 → 4 ≤ f 48 36 → f 48 36 ≤ 4096 →
          f 35 25 + f 24 20 ≤ 2047 → exec (.cpentWrite v) s = .next { issuedOnly s with
            elem := { s.elem with cprec := storeSet 0 s.elem.cprec (field s.ctl.cpsel 7 0) (v &&& 0xFFFFFFFFFFFFC000) } })
      ∧ ((microFn (f 63 58) (f 57 50)).isSome = true → exec (.msopWrite v) s = .next { issuedOnly s with
            elem := { s.elem with msop := storeSet 0 s.elem.msop (field s.ctl.mssel 10 0) v } }))
    ∧ (s.seq.pl = 3 → exec (.mxWdtWrite v) s = .next { s with
        ctl := { s.ctl with wdt := v &&& 0xFFFFFFFF }
        cnt := { s.cnt with op := s.cnt.op + 1, watchdog := 0 } })
    ∧ (let sum := lae (f 29 16) + (if v.getLsbD 63 then 0 else lae (f 45 32))
       (∀ k, (slotGet s k).marks = []) → exec (.scldqWrite v) s = .next { issuedOnly s with
         ctl := { s.ctl with scdq := storeSet 0 s.ctl.scdq (f 2 0) (BitVec.ofInt 9 (-sum)) } })

/-- The words that a write of CQW0 would commit to the selected cue entry: those staged, and the stored ones for the others. -/
def Spec.staged (s : State) (w0 : W64) : Cue :=
  let old := cueGet s (field s.ctl.cqsel 9 0)
  { w0 := w0, w1 := storeGet old.w1 s.fab.stage 1, w2 := storeGet old.w2 s.fab.stage 2, w3 := storeGet old.w3 s.fab.stage 3,
    fired := false, host := false, marks := [] }

/-- TPR0, SCCTL, CQW0, DCREP and ODCMD: a TPR0 with V = 0 invalidates the selected record, and one with V = 1 commits it from the staged
words only where the tile's word and the slice's position agree; SCCTL writes the selected slot; CQW0 commits the staged words to the
selected cue entry, below 960 from S level, or refuses them with 01h or 02h in CQREF; DCREP files record 0010h with its count; ODCMD leaves
the access's status in ODST with done set (05 R132, R134, 07 R171, 11 R303, 09 R226, 17 R454). -/
def Spec.RecordCommits : Prop :=
  ∀ (s : State) (v : W64), Spec.clkGiven s →
    let slc := field s.ctl.tpsel 15 8
    let res := field s.ctl.tpsel 7 6
    let key := recKey slc res (field s.ctl.tpsel 2 0)
    let tc := tileCfg s (field v 59 57)
    let e := field s.ctl.cqsel 9 0
    (s.seq.pl = 1 ∨ s.seq.pl = 3 →
      (slc < 160 → res < 3 → ∃ t, exec (.tpr0Write v) s = .next t ∧ (∀ k, k ≠ key → recGet t k = recGet s k)
        ∧ (v.getLsbD 63 = false → recGet t key = ⟨0, 0, 0⟩)
        ∧ (v.getLsbD 63 = true → tc.word = s.ctl.tpr2 → cfgEn tc.word = true → (members tc.mask)[field v 25 18]? = some slc →
            (recGet t key).w0.getLsbD 63 = true ∧ (recGet t key).w1 = s.ctl.tpr1 ∧ (recGet t key).w2 = s.ctl.tpr2)
        ∧ (v.getLsbD 63 = true → tc.word ≠ s.ctl.tpr2 → recGet t key = ⟨0, 0, 0⟩)
        ∧ t.mem = s.mem ∧ t.sc = s.sc ∧ t.elem = s.elem ∧ t.tiles.frag = s.tiles.frag ∧ t.tiles.bank = s.tiles.bank)
      ∧ (let k := field s.ctl.scsel 13 0
         (slotGet s k).marks = [] → exec (.scctlWrite v) s
           = .next { issuedOnly s with slots := storeSet blankSlot s.slots k (slotWrite (slotGet s k) v s.seq.pl) })
      ∧ ((cueGet s e).marks = [] → ∃ t, exec (.cqw0Write v) s = .next t ∧ s.SameData t ∧ t.seq = s.seq ∧ (∀ k, k ≠ e → cueGet t k = cueGet s k)
        ∧ (cueBad (Spec.staged s v) = false → (960 ≤ e → s.seq.pl = 3) → v.getLsbD 63 = true → t.fab.stage = []
            ∧ (cueGet t e).w1 = (Spec.staged s v).w1 ∧ (cueGet t e).w2 = (Spec.staged s v).w2
            ∧ (cueGet t e).w3 = (Spec.staged s v).w3 ∧ field (cueGet t e).w0 63 52 = field v 63 52
            ∧ field (cueGet t e).w0 51 50 = (if s.seq.pl = 3 then 3 else 1) ∧ field (cueGet t e).w0 49 47 = 1
            ∧ field (cueGet t e).w0 31 0 = field v 31 0)
        ∧ (field v 45 40 ≠ 0 → cueGet t e = cueGet s e ∧ t.ctl.cqref.toNat = e * 2 ^ 16 + 1)
        ∧ (s.seq.pl = 1 → 960 ≤ e → cueGet t e = cueGet s e ∧ (t.ctl.cqref.toNat = e * 2 ^ 16 + 1 ∨ t.ctl.cqref.toNat = e * 2 ^ 16 + 2))))
    ∧ (∃ t, exec (.dcrepWrite v) s = .next t ∧ s.SameData t
        ∧ (field v 31 0 = 0 → t = issuedOnly s)
        ∧ (field v 31 0 ≠ 0 → objGet t 0x7270 9 = (objGet s 0x7270 9 + field v 31 0) % 2 ^ 64
            ∧ (Spec.recordsFit s → ∃ r, Spec.lastRecord t = some r ∧ r.type = 0x10 ∧ r.sev = 2 ∧ r.count.toNat = field v 31 0 ∧ r.detail.toNat = field v 47 32)))
    ∧ (s.seq.pl = 3 → ∃ t, exec (.odcmdWrite v) s = .next t
        ∧ (field v 3 0 = 0 ∨ 8 < field v 3 0 → t.ctl.odst = 0x10C ∧ s.SameData t)
        ∧ (field v 3 0 = 2 → s.ctl.odsel = 0x012300 → s.trust.restarting = false → s.trust.boot ≠ 4 →
            t.ctl.odst = 0x100 ∧ t.ctl.oddat.toNat = objGet s 0x2300 1 % 2 ^ 16 ∧ s.SameData t))

/-- Control-register writes with an action: software interrupts, invalidations, comparators, watchdog, and the commits of records. -/
def Obligations.CommitsAndActions : Prop :=
  Spec.ControlActions ∧ Spec.RecordCommits

/-! ### DMA, scaled conversions and the stash (10, 07, 09) -/

/-- A held transfer but for which of its requests have entered a controller queue: requests of other transfers may enter one as room
comes (10 R265). -/
def Spec.queuesAside (h : Held) : Held := { h with out := h.out.map fun f => { f with admitted := false } }

/-- Acceptance: the oldest transfer of the queue that the slice has still to accept, six clk after its issue and with room for it, is
held with its descriptor of 64 bytes read from scratch; it leaves the queue once every slice of its group has accepted it. A descriptor
that the check refuses ends the transfer in error: DMERR bit, DMELOG with cause, tag and slice, interrupt 12h (10 R254, R255, R261). -/
def Spec.DmaAcceptsTransfer : Prop :=
  ∀ (s : State) (slice : BitVec 8) (x : Xfer) (q : List Xfer),
    let sl := slice.toNat
    let desc : BitVec 512 := BitVec.ofNat 512 (ofLe (peekBytes s x.xd.toNat 64))
    let held : Held := ⟨x, sl, ((members x.mask).filter fun m => decide (m < sl)).length, desc, false, [], [], 0, 0, false, 0⟩
    s.dma.queue = x :: q → sl < 160 → x.mask.getLsbD sl = true → s.dma.accepted = [] → x.issued + 6 ≤ s.cnt.clk →
    (heldIn s sl).length < 16 → x.level = 3 → x.xd.toNat % 64 = 0 →
    (∃ k o, regionOf x.xd.toNat = .scratch k o) → s.marks = [] → Spec.linkFree sl x.xd.toNat →
    endClaimed s (.phys x.xd.toNat) 64 false = false →
      ∃ t, exec (.dmaAccept slice) s = .next t ∧ s.SameData t ∧ t.seq = s.seq
        ∧ (descCheck 3 desc = none → t.dma.held = s.dma.held ++ [held])
        ∧ (members x.mask = [sl] → t.dma.queue = q ∧ t.dma.accepted = [])
        ∧ (members x.mask ≠ [sl] → t.dma.queue = x :: q ∧ t.dma.accepted = [(x.op * 256 + sl, true)])
        ∧ (∀ cause, descCheck 3 desc = some cause →
            t.ctl.dmerr.getLsbD x.tag.toNat = true ∧ t.ctl.dmelog.toNat = cause + x.tag.toNat * 2 ^ 8 + sl * 2 ^ 14
              ∧ t.cnt.ipend = s.cnt.ipend ||| 4
              ∧ (∀ h ∈ t.dma.held, ∃ g ∈ s.dma.held, Spec.queuesAside h = Spec.queuesAside g))

/-- A row of a transfer is cut into requests of at most 1 KiB that stay within one 1 KiB block of each end, lie one after the other and
cover the row (10 R258). -/
def Spec.RequestsCoverARow : Prop :=
  ∀ (src dst : W64) (len : Nat), len % 16 = 0 → src.toNat % 16 = 0 → dst.toNat % 16 = 0 → src.toNat + len < 2 ^ 64 →
    dst.toNat + len < 2 ^ 64 →
      let rs := splitRow (len / 16 + 1) (some src) (some dst) len
      (rs.map (·.len)).sum = len
      ∧ (∀ r ∈ rs, 0 < r.len ∧ r.len ≤ 1024 ∧ r.len % 16 = 0)
      ∧ (∀ (i : Nat) (r : Req), rs[i]? = some r → ∃ o, o = ((rs.take i).map (·.len)).sum
          ∧ r.src = .named (src + BitVec.ofNat 64 o) ∧ r.dst = .named (dst + BitVec.ofNat 64 o)
          ∧ (src.toNat + o) % 1024 + r.len ≤ 1024 ∧ (dst.toNat + o) % 1024 + r.len ≤ 1024)

/-- Copy, fill and prefetch: the slice's oldest transfer of the kind that is not begun gets the requests of its rows, a copy with the
group strides of its ends, a fill with a destination only and a prefetch with a source only; no data, queue, conversion, stream or
control register changes. Named here for a local copy of M level that names no local window and does not overlap (10 R255 to R258). -/
def Spec.DmaTransfersBegin : Prop :=
  ∀ (s : State) (slice : BitVec 8) (h : Held) (c : BitVec 8 → Instr) (kind : Nat),
    (kind, c) ∈ [(0, Instr.copy), (1, .fill), (3, .cachePrefetch)] → unbegun s slice.toNat [kind] = some h → h.x.level = 3 →
    (∀ o, regionOf (dSrc h.desc) ≠ .localScratch o) → (∀ o, regionOf (dDst h.desc) ≠ .localScratch o) →
    dSrc h.desc < 2 ^ 48 → dDst h.desc < 2 ^ 48 → (kind = 0 → dRem h.desc = false) →
      let src : W64 := BitVec.ofNat 64 (dSrc h.desc) + BitVec.ofInt 64 (dGss h.desc * h.k)
      let dst : W64 := BitVec.ofNat 64 (dDst h.desc) + BitVec.ofInt 64 (dGsd h.desc * h.k)
      let reqs := if kind = 0 then rowReqs h.desc (some src) (some dst)
        else if kind = 1 then rowReqs h.desc none (some (BitVec.ofNat 64 (dDst h.desc)))
        else rowReqs h.desc (some src) none
      (kind = 0 → (src.toNat + spanLen h.desc (dSpt h.desc) ≤ dst.toNat ∨ dst.toNat + spanLen h.desc (dDpt h.desc) ≤ src.toNat)
        ∧ (∀ o, regionOf src.toNat ≠ .localScratch o) ∧ (∀ o, regionOf dst.toNat ≠ .localScratch o)) →
      reqs ≠ [] →
        let with' := fun g : Held =>
          if g.x.op = h.x.op ∧ g.slice = h.slice then { h with begun := true, todo := reqs } else g
        ∃ t, exec (c slice) s = .next t ∧ s.SameData t
          ∧ t.dma.held.map Spec.queuesAside = (s.dma.held.map with').map Spec.queuesAside
          ∧ t.dma.queue = s.dma.queue ∧ t.dma.convs = s.dma.convs ∧ t.seq = s.seq ∧ t.ctl = s.ctl ∧ t.work = s.work

/-- DMA transfers: acceptance, the requests of a row, and what each kind begins (10 R254 to R258). -/
def Obligations.DmaTransfers : Prop :=
  Spec.DmaAcceptsTransfer ∧ Spec.RequestsCoverARow ∧ Spec.DmaTransfersBegin

/-- The life of a request, for the one transfer that a slice holds: it is issued with its ends resolved, takes the next number and joins
the requests in flight; once it has its place and no older request goes before it, a copy's completion moves its bytes and a fill's writes
its pattern, other bytes stay, and the request leaves its slot; one that finds a scratch bank claimed by the stream waits, counted in 7201h;
a prefetch's brings its line into the owning die's cache under its hint, counted as a hit or a miss (DEDUCED, log entry 95), and
moves nothing; 65,536 clk after its issue it times out with cause 06h; a request past its service bound is marked and counted once in
7220h:0A (10 R246, R251, R255, R258, R259, R261, R265, R267). -/
def Obligations.DmaRequestsServed : Prop :=
  ∀ (s : State) (slice : BitVec 8) (h : Held) (num : Nat),
    let sl := slice.toNat
    heldIn s sl = [h] → h.slice = sl → h.begun = true → h.conv = false → s.marks = [] →
      (∀ (r : Req) (rest : List Req) (a b : W64), h.todo = r :: rest → r.src = .named a → r.dst = .named b → h.x.level = 3 →
        dRem h.desc = false → h.out.length < 16 → hasTarget s a.toNat = true → hasTarget s b.toNat = true →
        a.toNat < 2 ^ 48 → b.toNat < 2 ^ 48 → Spec.linkFree sl a.toNat → Spec.linkFree sl b.toNat →
          let req : Req := ⟨.phys a.toNat, .phys b.toNat, r.len⟩
          ∃ t, exec (.dmaRequestIssue slice) s = .next t ∧ s.SameData t ∧ t.dma.nextReq = s.dma.nextReq + 1
            ∧ (heldIn t sl).map Spec.queuesAside = [Spec.queuesAside { h with
                todo := rest
                drawn := s.dma.nextReq + 1
                out := h.out ++ [⟨s.dma.nextReq, req, r, s.cnt.clk + s.cnt.withheld, false, 0, reqPlaces s req (dCh h.desc), false, 0⟩] }])
      ∧ (∀ (f : Flight) (dst : Nat), h.out = [f] → f.num = num → f.req.dst = .phys dst → dst % 16 = 0 → f.req.len % 16 = 0 →
          f.owed = 0 → f.admitted = true → behindOlder s f = false → reqClaimed s f.req = false → s.cnt.writes = [] →
          f.req.src = .none ∨ (∃ src, f.req.src = .phys src ∧ src % 16 = 0) →
          ∃ t, exec (.dmaRequestComplete slice num) s = .next t
            ∧ (∀ g ∈ heldIn t sl, g.out = [] ∧ g.todo = h.todo) ∧ (h.todo = [] → heldIn t sl = [])
            ∧ (∀ a, ¬(dst ≤ a ∧ a < dst + f.req.len) → memGet t a = memGet s a)
            ∧ (∀ src, f.req.src = .phys src → ∀ i < f.req.len, memGet t (dst + i) = memGet s (src + i))
            ∧ (f.req.src = .none → ∀ i < f.req.len,
                memGet t (dst + i) = BitVec.ofNat 8 (dBody h.desc 255 192 / 2 ^ (8 * (i % 8)) % 256))
            ∧ t.sc = s.sc ∧ t.tiles = s.tiles ∧ t.elem = s.elem ∧ t.slots = s.slots ∧ t.ctl = s.ctl)
      ∧ (∀ f : Flight, h.out = [f] → f.num = num → f.owed = 0 → f.admitted = true → behindOlder s f = false →
          reqClaimed s f.req = true → sl < 160 →
          ∃ t, exec (.dmaRequestComplete slice num) s = .next t ∧ s.SameData t
            ∧ objGet t 0x7201 (sl / 20 + 1) = (objGet s 0x7201 (sl / 20 + 1) + 1) % 2 ^ 64
            ∧ ∀ g ∈ heldIn t sl, g.out.map (·.num) = [num])
      ∧ (∀ (f : Flight) (src : Nat), h.out = [f] → f.num = num → f.owed = 0 → f.admitted = true → behindOlder s f = false →
          f.req.src = .phys src → f.req.dst = .none → reqClaimed s f.req = false →
          0 < f.req.len → src % 128 + f.req.len ≤ 128 → src < 2 ^ 42 →
          let line := lineGet s (src / 128)
          ∃ t, exec (.dmaRequestComplete slice num) s = .next t
            ∧ (∀ g ∈ heldIn t sl, g.out = [] ∧ g.todo = h.todo) ∧ (h.todo = [] → heldIn t sl = [])
            ∧ lineGet t (src / 128) = (if line.held then ⟨true, line.dirty, false⟩
                else if dCh h.desc = 1 then line else ⟨true, false, decide (dCh h.desc = 2)⟩)
            ∧ objGet t 0x7220 5 = (if line.held then (objGet s 0x7220 5 + 1) % 2 ^ 64 else objGet s 0x7220 5)
            ∧ objGet t 0x7220 6 = (if line.held then objGet s 0x7220 6 else (objGet s 0x7220 6 + 1) % 2 ^ 64)
            ∧ t.mem = s.mem ∧ t.marks = s.marks ∧ t.sc = s.sc ∧ t.tiles = s.tiles ∧ t.elem = s.elem ∧ t.slots = s.slots ∧ t.ctl = s.ctl)
      ∧ (∀ f : Flight, h.out = [f] → f.num = num → s.ckpt.job = none → s.ckpt.returns = [] → f.since + 65536 ≤ s.cnt.clk + s.cnt.withheld →
          ∃ t, exec (.dmaRequestTimeout slice num) s = .next t ∧ s.SameData t ∧ heldIn t sl = []
            ∧ t.ctl.dmerr.getLsbD h.x.tag.toNat = true ∧ t.ctl.dmelog.toNat = 6 + h.x.tag.toNat * 2 ^ 8 + sl * 2 ^ 14
            ∧ t.cnt.ipend = s.cnt.ipend ||| 4)
      ∧ (∀ f : Flight, h.out = [f] → f.num = num → f.late = false → f.places ≠ [] → f.admitted = true →
          ∃ t, exec (.serviceBoundExceeded slice num) s = .next t ∧ s.SameData t
            ∧ heldIn t sl = [{ h with out := [{ f with late := true }] }]
            ∧ objGet t 0x7220 0xA = (objGet s 0x7220 0xA + 1) % 2 ^ 64)

/-- A scaled conversion begins once its operation has left the queue and its slot is registered: it captures the slot, a cold one goes
to its pre-scan, which is counted in 7250h:01, and a warm one converts at the slot's exponent; it stays among the transfers that its engine
holds. The end of the pre-scan chooses the exponent by the policy; the last pass leaves its exponent applied in the slot, the slot used and
warm, and ends the conversion (07 R174, R175, Table 7-6; 10 R254). -/
def Obligations.ScaledConversionRuns : Prop :=
  ∀ (s : State) (slice : BitVec 8) (slot : BitVec 14) (h : Held) (c : Conv),
    (unbegun s slice.toNat [2] = some h → slice.toNat < 160 → s.dma.held = [h] → h.out = [] → leftQueue s h.x.op = true →
      s.dma.convs = [] → s.work = [] →
      let v := slotGet s (cvSlot h.desc)
      v.st ≠ 0 → v.marks = [] →
        ∃ t, exec (.scaledConversion slice) s = .next t ∧ s.SameData t ∧ t.dma.held = [{ h with begun := true, conv := true }]
          ∧ (∃ c', t.dma.convs = [c'] ∧ c'.slot = cvSlot h.desc ∧ c'.cap = v ∧ c'.tag = h.x.tag ∧ c'.mask = h.x.mask
              ∧ c'.e0 = signedOf 9 v.e.toNat ∧ c'.pass = (if v.st = 1 then 1 else 2))
          ∧ (v.st = 1 → objGet t 0x7250 1 = (objGet s 0x7250 1 + 1) % 2 ^ 64))
    ∧ (s.dma.convs = [c] → c.slot = slot.toNat → s.marks = [] → c.level = 3 → c.parts ≠ [] → (slotGet s c.slot).marks = [] →
      claimedParts s c = [] →
        (c.pass = 1 →
          let p := (c.parts.foldl (measureSlice c) (s, emptyPass)).2
          p.failed = [] →
          ∃ t, exec (.scaledConversionPassEnd slot) s = .next t ∧ t.mem = s.mem ∧ t.slots = s.slots ∧ t.sc = s.sc
            ∧ t.dma.convs = [{ c with
                e0 := (policy p.note.hown c.cap.tf.toNat c.cap.mg.toNat c.spr).getD 0
                hown := toF32 p.note.hown
                nonFinite := p.note.nf
                bad := []
                pass := 2 }])
        ∧ (c.pass = 3 →
          let p := (c.parts.foldl (convertSlice c c.e0) (s, emptyPass)).2
          p.bad = [] → (∃ x ∈ c.parts, x.1 ∉ p.failed) →
          ∃ t, exec (.scaledConversionPassEnd slot) s = .next t ∧ t.dma.convs = []
          ∧ (slotGet t c.slot).lae = BitVec.ofInt 9 c.e0 ∧ (slotGet t c.slot).lv = true ∧ (slotGet t c.slot).used = true
          ∧ (slotGet t c.slot).st = 2 ∧ (∀ k, k ≠ c.slot → slotGet t k = slotGet s k) ∧ t.sc = s.sc ∧ t.elem = s.elem
          ∧ t.tiles = s.tiles))

/-- The stash (09 R228 to R233): a put into a free entry with room in every slice makes it busy on the way to resident and gives each
slice the lowest run that fits; a get of a resident entry makes it busy on the way to free, or back to resident where it keeps, with
LAST 01b, counted in 7270h:05; a release frees a resident, evicted or dropped entry, and leaves every other that is not moving and that no
repeat announced since its put is to free (R234). Each part begins; memory stays until its requests complete. -/
def Obligations.StashKinds : Prop :=
  ∀ (s : State) (slice : BitVec 8) (h : Held),
    let d := h.desc
    let e := tEnt d
    let v := entGet s e
    s.dma.held = [h] → h.slice = slice.toNat → h.begun = false → h.conv = false → h.out = [] → claimedByOther s h.x.op e = false →
    members h.x.mask = [slice.toNat] →
    leftQueue s h.x.op = true → h.x.level = 3 → dHdr d 247 0 = 0 → dBody d 139 0 = 0 →
      (dKind d = 8 → tLoc d % 64 = 0 → tLoc d + tSize d * 1024 ≤ 0x1000000 → v.st = 0 → 0 < tSize d → tSize d ≤ 9830 →
        ∀ g, firstFit s slice.toNat (tSize d) = some g →
          ∃ t, exec (.stashPut slice) s = .next t ∧ s.SameData t
            ∧ (entGet t e).st = 4 ∧ (entGet t e).next = 1 ∧ (entGet t e).size = tSize d ∧ (entGet t e).layer.toNat = tLayer d
            ∧ (entGet t e).mask = h.x.mask ∧ storeGet 0 (entGet t e).run slice.toNat = g + 1
            ∧ (let run := 0xFF0000 - objGet s 0x2031 1 * 1024 + g * 1024
               t.dma.held = [{ h with
                 begun := true
                 todo := (List.range (tSize d)).map fun i => ⟨.phys (scratchAddr slice.toNat (tLoc d + i * 1024)),
                   .phys (scratchAddr slice.toNat (run + i * 1024)), 1024⟩ }]))
      ∧ (dKind d = 9 → tLoc d % 64 = 0 → tLoc d + v.size * 1024 ≤ 0x1000000 → v.st = 1 → v.mask = h.x.mask → 0 < v.size →
          ∃ t, exec (.stashGet slice) s = .next t ∧ s.SameData t ∧ (entGet t e).st = 4
            ∧ (entGet t e).next = (if tKeep d then 1 else 0) ∧ (entGet t e).last = 1 ∧ (entGet t e).run = v.run
            ∧ objGet t 0x7270 5 = (objGet s 0x7270 5 + 1) % 2 ^ 64)
      ∧ (dKind d = 10 → v.st ≠ 0 → v.st ≠ 4 →
          ∃ t, exec (.stashRelease slice) s = .next t ∧ s.SameData t ∧ (entGet t e).st = 0 ∧ (entGet t e).run = []
            ∧ (storeWf freeEntry s.dma.stash = true → ∀ k, k ≠ e → (entGet s k).st ≠ 4 → s.dma.cut ≤ (entGet s k).seqNo → entGet t k = entGet s k)
            ∧ t.dma.held = [])

/-! ### The collective engine (12) -/

/-- A span of memory that M level may use: addresses below 2^48 with a target, outside program memory. -/
def Spec.spanOk (s : State) (a n : Nat) : Prop :=
  a + n ≤ 2 ^ 48 ∧ ∀ i < n, hasTarget s (a + i) = true ∧ ∀ o, regionOf (a + i) ≠ .program o

/-- Collectives come and go: the head of the queue is accepted six clk after its issue with its descriptor, and one of phase 0 opens at
once with the beat as its open beat; one of a later phase opens when the phase is open; a malformed descriptor ends in CLERR with cause
01h and interrupt 12h; past its deadline an exchange ends with cause 06h and sets L, and a vote without its reduced word ends so and commits
repeat or fail (12 R314 to R317, R332, R334). -/
def Spec.CollectivesOpenAndEnd : Prop :=
  ∀ (s : State) (tag : BitVec 6) (q : W64 × BitVec 6 × BitVec 2 × Nat × Nat) (rest : List (W64 × BitVec 6 × BitVec 2 × Nat × Nat))
    (c : Coll),
    let desc : BitVec 512 := BitVec.ofNat 512 (ofLe (peekBytes s q.1.toNat 64))
    let now := s.fab.beat.count
    (s.coll.queue = q :: rest → q.2.2.2.2 + 6 ≤ s.cnt.clk → s.coll.held = [] → s.coll.early = [] → q.2.2.1 = 3 →
      q.1.toNat % 64 = 0 → (∃ k o, regionOf q.1.toNat = .scratch k o) → s.marks = [] →
        (kBad desc = false → psMember s (kPs desc) = true → ∃ t, exec .collectiveAccept s = .next t ∧ s.SameData t
          ∧ t.coll.queue = rest ∧ t.coll.held = [{ freshColl q desc with
              step := s.cnt.step
              att := s.coll.attempt
              isOpen := decide (kPh desc = 0)
              openBeat := if kPh desc = 0 then now else 0 }])
        ∧ (kBad desc = true → ∃ t, exec .collectiveAccept s = .next t ∧ s.SameData t ∧ t.coll.queue = rest ∧ t.coll.held = []
          ∧ t.ctl.clerr.getLsbD q.2.1.toNat = true ∧ t.ctl.clelog.toNat % 2 ^ 14 = 1 + q.2.1.toNat * 2 ^ 8
          ∧ t.cnt.ipend = s.cnt.ipend ||| 4))
    ∧ (s.coll.held = [c] → c.tag = tag →
        (c.isOpen = false → s.coll.early = [] → storeGet false s.coll.phases (kPh c.desc) = true →
          exec (.collectiveOpen tag) s
            = .next { s with coll := { s.coll with held := [{ c with isOpen := true, openBeat := now }] } })
        ∧ (c.isOpen = true → kOp c.desc ≠ 2 →
            c.openBeat.toNat + (if kDl c.desc = 0 then objGet s 0x2341 3 else kDl c.desc) ≤ now.toNat →
            ∃ t, exec (.collectiveDeadline tag) s = .next t ∧ t.coll.held = [] ∧ t.ctl.clerr.getLsbD tag.toNat = true
              ∧ t.ctl.clelog.toNat % 2 ^ 8 = 6 ∧ t.coll.voteL = true
              ∧ objGet t 0x7310 2 = (objGet s 0x7310 2 + 1) % 2 ^ 64 ∧ s.SameData t ∧ t.seq = s.seq)
        ∧ (c.isOpen = true → kOp c.desc = 2 → voteReduced s c = false → s.coll.queue = [] →
            c.openBeat.toNat + (if kDl c.desc = 0 then objGet s 0x2341 3 else kDl c.desc) ≤ now.toNat →
            ∃ t, exec (.collectiveDeadline tag) s = .next t ∧ t.coll.held = [] ∧ t.ctl.clerr.getLsbD tag.toNat = true
              ∧ t.ctl.clelog.toNat % 2 ^ 8 = 6 ∧ (t.ctl.clverd.toNat % 8 = 1 ∨ t.ctl.clverd.toNat % 8 = 3)
              ∧ t.cnt.repeatPending = true ∧ objGet t 0x7310 2 = (objGet s 0x7310 2 + 1) % 2 ^ 64 ∧ t.mem = s.mem ∧ t.sc = s.sc))

/-- What a collective of one member does, which has no messages to send: REDUCE_SCATTER of FP32 writes each element, as the mantissa of
its block's grid, to DST as FP32 and counts in 7310h:01; ALL_GATHER copies the elements from SRC to DST; a vote holds its word of open
beat, weight and flags, the weight being the withdrawn micro-batches of a step with a non-finite or of a replacement's first step (14 R385).
Bytes outside DST and the work area stay (12 R319 to R323, R333). -/
def Spec.CollectivesOfOne : Prop :=
  ∀ (s : State) (tag : BitVec 6) (c : Coll) (mine : List Nat),
    let d := c.desc
    let p := psOf s (kPs d)
    let n := kNe d
    let wa := 2048 * (kNb d + 16)
    let v := fun i => if i < n then f32 (BitVec.ofNat 32 (ofLe (peekBytes s (kSrc d + 4 * i) 4))) else f32 0
    let top := fun b => blockTop ((List.range 256).map fun i => v (256 * b + i))
    let out := fun i =>
      let e := top (i / 256)
      toF32 (fvScale (fvOfInt (mantissa (kPrec d) e (v i))) (if e = -0x8000 then 0 else e - kPrec d + 2))
    let w := if kSf d = 0 then 1 else if kSf d = 1 then 2 else 4
    let apart := fun a la b lb : Nat => a + la ≤ b ∨ b + lb ≤ a
    s.coll.held = [c] → c.tag = tag → c.isOpen = true → c.running = false → c.phase = 0 → c.level = 3 → c.got = [] →
    myIndex s p = some mine → psDims p = [] → s.marks = [] → s.cnt.writes = [] →
      (kOp d = 0 → kSf d = 2 → kCmp d = false → kWd d = false → s.cnt.dropStep ≠ some s.cnt.step → 0 < n → Spec.spanOk s (kSrc d) (4 * n) →
        Spec.spanOk s (kDst d) (4 * n) → Spec.spanOk s (kWa d) wa → apart (kSrc d) (4 * n) (kWa d) wa →
        apart (kDst d) (4 * n) (kWa d) wa → (∀ b < kNb d, top b ≠ 0x7FFF) →
          ∃ t, exec (.reduceScatter tag) s = .next t ∧ t.coll.held = [] ∧ t.ctl.clerr = s.ctl.clerr
            ∧ objGet t 0x7310 1 = (objGet s 0x7310 1 + 1) % 2 ^ 64
            ∧ (∀ i < n, ofLe (peekBytes t (kDst d + 4 * i) 4) = (out i).toNat)
            ∧ (∀ a, ¬(kDst d ≤ a ∧ a < kDst d + 4 * n) → ¬(kWa d ≤ a ∧ a < kWa d + wa) → memGet t a = memGet s a)
            ∧ t.sc = s.sc ∧ t.tiles = s.tiles ∧ t.elem = s.elem ∧ t.slots = s.slots)
      ∧ (kOp d = 1 → 0 < n → Spec.spanOk s (kSrc d) (w * n) → Spec.spanOk s (kDst d) (w * n) →
          ∃ t, exec (.allGather tag) s = .next t ∧ t.coll.held = [] ∧ t.ctl.clerr = s.ctl.clerr
            ∧ (∀ i < w * n, memGet t (kDst d + i) = memGet s (kSrc d + i))
            ∧ (∀ a, ¬(kDst d ≤ a ∧ a < kDst d + w * n) → memGet t a = memGet s a)
            ∧ t.sc = s.sc ∧ t.tiles = s.tiles ∧ t.elem = s.elem ∧ t.slots = s.slots)
      ∧ (kOp d = 2 →
          let weight : Nat := if (s.ctl.clnfl ≠ 0 ∧ objGet s 0x2341 1 = 1) ∨ s.cnt.dropStep = some s.cnt.step then kMbc d else 0
          let flag := fun (b : Bool) => (if b then 1 else 0 : Nat)
          let word : Nat := c.openBeat.toNat + weight * 2 ^ 48 + flag s.coll.voteL * 2 ^ 80 + flag s.coll.voteN * 2 ^ 81
            + flag s.coll.voteT * 2 ^ 82 + flag s.coll.voteD * 2 ^ 83
          exec (.closeVote tag) s
            = .next { s with coll := { s.coll with held := [{ c with items := [(word : Int)], count := 1, running := true }] } })

/-- The grid of a block: every mantissa of a finite block is at most 2^(P-2) in magnitude, and is the exact value over
u = 2^(E-P+2) rounded to nearest; a block without a nonzero value has no mantissa but zero (12 R318 to R320). -/
def Spec.BlockGrid : Prop :=
  ∀ (vs : List FVal) (prec : Nat), 2 ≤ prec →
    let e := blockTop vs
    (∀ v ∈ vs, ∀ neg n k, v = .fin neg n k → e ≠ 0x7FFF → e ≠ -0x8000 →
      let m := mantissa prec e v
      let sh := k - (e - prec + 2)
      m.natAbs ≤ 2 ^ (prec - 2)
      ∧ (0 ≤ sh → m = (if neg then -1 else 1) * n * 2 ^ sh.toNat)
      ∧ (sh < 0 → (2 * (m * 2 ^ (-sh).toNat - (if neg then -1 else 1) * n)).natAbs ≤ 2 ^ (-sh).toNat))
    ∧ (e = -0x8000 → ∀ v ∈ vs, mantissa prec e v = 0)
    ∧ ((∃ v ∈ vs, fvNonFinite v = true) → e = 0x7FFF)

/-- Collectives: acceptance, opening, deadline, those of one member, and the grid of a block (12 R314 to R333). -/
def Obligations.Collectives : Prop :=
  Spec.CollectivesOpenAndEnd ∧ Spec.CollectivesOfOne ∧ Spec.BlockGrid

/-- Messages: one for a collective that is not open yet is held where it is an exponent or vote message that is not held already and
has room, and counted by its words in 7310h:0E; a copy is dropped and counted in 7310h:08; one with FAIL set ends an exchange with cause 07h;
one with a wrong digest ends the collective with cause 09h, interrupt 13h and D; a good one is counted and kept: data of an all-gather lands
in DST, and a message of a reduce-scatter stands word for word in the work area, whose other bytes are left free but for the messages that
stand there (its place is a DESIGN CHOICE, log entry 22). The exponent or vote message of a phase goes out again when its peer asks (12 R323 to R325, R327, R328, R332). -/
def Obligations.CollectiveMessages : Prop :=
  ∀ (s : State) (bid : BitVec 16) (ps : BitVec 4) (peer : BitVec 14) (pk : BitVec 3) (dim : BitVec 2) (body : List W128)
    (tally status digest : W128) (tag : BitVec 6) (c : Coll),
    let m : Msg := ⟨bid.toNat, ps.toNat, peer.toNat, pk.toNat, dim.toNat, body, tally, status, digest⟩
    let cmd := Instr.collectiveMessageComplete ⟨bid, ps⟩ peer pk dim body tally status digest
    let p := psOf s (kPs c.desc)
    let inTime := c.openBeat.toNat + (if kDl c.desc = 0 then objGet s 0x2341 3 else kDl c.desc)
    let counted := fun t : State => objGet t 0x7310 0xE = (objGet s 0x7310 0xE + 16 * (body.length + 3)) % 2 ^ 64
    (s.coll.held = [] → pk = 0 ∨ pk = 4 → (bid.toNat, ps.toNat, (if pk = 0 then 0 else 2)) ∉ s.coll.ended → s.coll.early = [] →
      body.length + 3 ≤ 2 ^ 19 →
      ∃ t, exec cmd s = .next t ∧ t.coll = { s.coll with early := [m] } ∧ counted t ∧ s.SameData t)
    ∧ (∀ ph, s.coll.held = [c] → c.tag = tag → c.isOpen = true → msgPhase s c m = some ph → s.fab.beat.count.toNat ≤ inTime →
        let had := ∃ g ∈ c.got, g.bid = m.bid ∧ g.ps = m.ps ∧ g.peer = m.peer ∧ g.pk = m.pk ∧ g.dim = m.dim
        let kept := { s.coll with held := [{ c with got := c.got ++ [m] }] }
        (had → ∃ t, exec cmd s = .next t ∧ t.coll = s.coll ∧ s.SameData t
          ∧ objGet t 0x7310 8 = (objGet s 0x7310 8 + 1) % 2 ^ 64)
        ∧ (¬had → status.getLsbD 0 = true → kOp c.desc ≠ 2 →
            ∃ t, exec cmd s = .next t ∧ t.coll.held = [] ∧ t.coll.voteL = true ∧ t.ctl.clerr.getLsbD tag.toNat = true
              ∧ t.ctl.clelog.toNat % 2 ^ 8 = 7 ∧ objGet t 0x7310 3 = (objGet s 0x7310 3 + 1) % 2 ^ 64 ∧ counted t ∧ s.SameData t)
        ∧ (¬had → status.getLsbD 0 = false → digestOf p.dk (body ++ [tally, status]) ≠ digest →
            ∃ t, exec cmd s = .next t ∧ t.coll.held = [] ∧ t.coll.voteD = true ∧ t.ctl.clerr.getLsbD tag.toNat = true
              ∧ t.ctl.clelog.toNat % 2 ^ 8 = 9 ∧ t.cnt.ipend.getLsbD 3 = true ∧ s.SameData t)
        ∧ (¬had → status.getLsbD 0 = false → digestOf p.dk (body ++ [tally, status]) = digest → c.running = false →
            (kOp c.desc = 2 → ∃ t, exec cmd s = .next t ∧ t.coll = kept ∧ counted t ∧ s.SameData t)
            ∧ (kOp c.desc = 0 → c.level = 3 → s.marks = [] → s.cnt.writes = [] →
                let wa := 2048 * (kNb c.desc + 16)
                let sent := body ++ [tally, status, digest]
                (∀ o, workPlace c (16 * (body.length + 3)) = some o → Spec.spanOk s (kWa c.desc) wa → ∃ t, exec cmd s = .next t
                  ∧ t.coll = { s.coll with held := [{ c with wa := c.wa ++ [(m, o)], got := c.got ++ [m] }] } ∧ counted t
                  ∧ (∀ i < 16 * (body.length + 3), memGet t (kWa c.desc + o + i) = ((sent.getD (i / 16) 0) >>> (8 * (i % 16))).setWidth 8)
                  ∧ (∀ x ∈ c.wa, ∀ i < msgBytes x.1, memGet t (kWa c.desc + x.2 + i) = memGet s (kWa c.desc + x.2 + i))
                  ∧ (∀ a, ¬(kWa c.desc ≤ a ∧ a < kWa c.desc + wa) → memGet t a = memGet s a)
                  ∧ t.sc = s.sc ∧ t.tiles = s.tiles ∧ t.elem = s.elem ∧ t.slots = s.slots)
                ∧ (workPlace c (16 * (body.length + 3)) = none → ∃ t, exec cmd s = .next t ∧ t.coll = kept ∧ counted t ∧ s.SameData t))
            ∧ (kOp c.desc = 1 → c.level = 3 → s.marks = [] → s.cnt.writes = [] →
                let w := if kSf c.desc = 0 then 1 else if kSf c.desc = 1 then 2 else 4
                let b := msgBlocks s c ph m
                let a0 := kDst c.desc + 256 * w * b.1
                let n := 256 * w * b.2
                16 * body.length = n → 256 * (b.1 + b.2) ≤ kNe c.desc → Spec.spanOk s a0 n → ∃ t, exec cmd s = .next t
                  ∧ t.coll = kept ∧ counted t
                  ∧ (∀ i < n, memGet t (a0 + i) = ((body.getD (i / 16) 0) >>> (8 * (i % 16))).setWidth 8)
                  ∧ (∀ a, ¬(a0 ≤ a ∧ a < a0 + n) → memGet t a = memGet s a)
                  ∧ t.sc = s.sc ∧ t.tiles = s.tiles ∧ t.elem = s.elem ∧ t.slots = s.slots)))
    ∧ (∀ x, s.coll.held = [c] → c.tag = tag → c.running = true → (c.sent.filter fun y => decide (y.peer = peer.toNat)) = [x] →
        fateOf s 8 peer.toNat 0 0 ≠ .dark →
          ∃ t, exec (.earlyArrivalResend tag peer) s = .next t ∧ t.coll = s.coll ∧ s.SameData t
            ∧ objGet t 0x7310 0xD = (objGet s 0x7310 0xD + 16 * (x.body.length + 3)) % 2 ^ 64)

/-- A vote commits at the beat OB + DL + TB: with no flag and no tocsin it proceeds, which changes only the vote's own record and object 4110h:07, which shows the step from then on (14 R382; DEDUCED, log entry 137); with L,
while repeats are left, the attempt repeats: interrupt 11h, the attempt and repeat counts rise, a repeat is pending, and CLVERD says so
(12 R334, R335, Table 12-6). -/
def Obligations.VotesCommit : Prop :=
  ∀ (s : State) (tag : BitVec 6) (c : Coll),
    let word := (c.items.headD 0).toNat
    let dl := if kDl c.desc = 0 then objGet s 0x2341 3 else kDl c.desc
    let att := s.coll.attempt.toNat
    s.coll.held = [c] → c.tag = tag → kOp c.desc = 2 → voteReduced s c = true →
    word % 2 ^ 48 + dl + objGet s 0x2341 4 ≤ s.fab.beat.count.toNat → s.coll.tocsin.contains (kPs c.desc) = false → s.coll.lateL = false →
      (word / 2 ^ 80 % 16 = 0 →
        exec (.voteCommit tag) s = .next (objSet { s with
          ctl := { s.ctl with clverd := BitVec.ofNat 64 (att * 2 ^ 8 + word / 2 ^ 48 % 2 ^ 32 * 2 ^ 16) }
          coll := { s.coll with
            held := []
            ended := s.coll.ended ++ [(kBid c.desc, kPs c.desc, kOp c.desc)]
            committed := (s.coll.committed.filter fun x => decide (s.cnt.step.toNat < x.1 + 65536))
              ++ [(s.cnt.step.toNat, att % 8, kPs c.desc)]
            reexchange := false } } 0x4110 7 s.cnt.step.toNat))
      ∧ (word / 2 ^ 80 % 4 = 1 → s.coll.repeats < objGet s 0x2341 2 → s.coll.queue = [] →
          ∃ t, exec (.voteCommit tag) s = .next t ∧ t.coll.attempt = s.coll.attempt + 1 ∧ t.coll.repeats = s.coll.repeats + 1
            ∧ t.coll.held = [] ∧ t.coll.early = [] ∧ t.cnt.repeatPending = true ∧ t.cnt.ipend = s.cnt.ipend ||| 2
            ∧ t.ctl.clverd.toNat % 8 = 1 ∧ t.seq = s.seq ∧ t.cnt.step = s.cnt.step ∧ t.mem = s.mem ∧ t.sc = s.sc
            ∧ t.elem = s.elem ∧ objGet t 0x7310 0xA = (objGet s 0x7310 0xA + 1) % 2 ^ 64)

/-! ### Links and ports (11, 13) -/

/-- A collective flit of the step and attempt under way, addressed to this device, with good words. -/
def Spec.flitHere (s : State) (f : Flit) : Prop :=
  f.crcOk = true ∧ (∀ m ∈ f.marks, m = .good) ∧ flitCls f ≠ 3 ∧ field (headOf f) 94 91 = 2
    ∧ field (headOf f) 127 114 = objGet s 0x2300 1 ∧ objGet s 0x2300 1 < 0x3F00
    ∧ field (headOf f) 70 55 = s.cnt.step.toNat % 65536 ∧ field (headOf f) 54 52 = s.coll.attempt.toNat % 8
    ∧ ∀ k ∈ s.coll.seen, (k.1, k.2.1) ≠ (field (headOf f) 113 100, field (headOf f) 86 0)

/-- Frames on an ACTIVE Shuaskol port: the next frame with good flits is taken, and its flit for this device delivered; a frame with a
bad CRC is not; the frame that goes out next acknowledges the one and NAKs the other. A port sends the one flit that waits on a credit and
holds it for replay; on Ethernet a flit whose class the peer has paused waits, for so many times 512 bits of the interface's rate; an Ethernet
frame with a good FCS delivers its flits, and one with a bad FCS is dropped and counted in 7300h:0E (11 R275, R276, R282, R283, R286, R287). -/
def Spec.FlitsMove : Prop :=
  ∀ (s : State) (port : BitVec 3) (fr : Framing) (f : Flit) (q : Queued) (sender : BitVec 16) (seq : W32),
    let k := port.toNat
    let p := portGet s k
    let mode := objGet s 0x2301 (k + 1)
    let key := (field (headOf f) 113 100, field (headOf f) 86 0, (f.words.drop 1).take (field (headOf f) 90 87))
    let ch := 2 * flitCls q.flit + field (headOf q.flit) 97 97
    let answers := fun (t : State) (last : BitVec 12) (nak : Bool) => ∃ h rest, t.out = .frame k h :: rest ∧ h.lastGood = last ∧ h.nak = nak
    portActive s k = true →
      (mode = 1 → fr.sync = 0xF628 → fr.nak = false → fr.bm = false → fr.control = [] →
        (fr.fseq = p.rxGood + 1 → Spec.flitHere s f → ∃ t, exec (.frameReceived port fr [f]) s = .next t ∧ s.SameData t
          ∧ (portGet t k).rxGood = fr.fseq ∧ (portGet t k).peerHop = fr.hop ∧ (portGet t k).nak = false ∧ answers t fr.fseq p.nak
          ∧ t.coll.seen = s.coll.seen ++ [key] ∧ t.seq = s.seq)
        ∧ (fr.fseq = p.rxGood + 1 → f.crcOk = false → (∀ m ∈ f.marks, m = .good) →
            ∃ t, exec (.frameReceived port fr [f]) s = .next t ∧ s.SameData t
              ∧ (portGet t k).rxGood = p.rxGood ∧ answers t p.rxGood true ∧ (portGet t k).discarding = true
              ∧ t.coll = s.coll ∧ objGet t 0x7300 1 = (objGet s 0x7300 1 + 1) % 2 ^ 64))
      ∧ (mode = 1 → fr.sync ≠ 0xF628 → exec (.frameReceived port fr [f]) s = .next s)
      ∧ (mode = 1 → p.queue = [q] → q.origin ≤ 8 → flitCls q.flit < 3 → hasCredit p q.flit = true →
          ∃ t rest, exec (.flitSend port) s = .next t ∧ t.out = .flit k q.flit :: rest ∧ (portGet t k).queue = []
            ∧ (∃ fr ∈ (portGet t k).replay, ∃ x ∈ fr.2, x.flit = q.flit) ∧ s.SameData t
            ∧ (0 < storeGet 32 p.credits ch → storeGet 32 (portGet t k).credits ch + 1 = storeGet 32 p.credits ch))
      ∧ (mode = 2 → p.queue = [q] → s.cnt.clk + s.cnt.withheld < storeGet 0 p.paused (ethIface s (field (headOf q.flit) 127 114) * 4 + flitCls q.flit) →
          exec (.flitSend port) s = .next s)
      ∧ (∀ i cls quanta, mode = 2 → ethIfaces s k = 2 → s.power.dvfs = 0 → fr.control = [.pause i cls quanta] →
          ∃ t, exec (.frameReceived port fr []) s = .next t ∧ s.SameData t
            ∧ storeGet 0 (portGet t k).paused (i * 4 + cls) = s.cnt.clk + s.cnt.withheld + (quanta * 512 * 1000 + 1599999) / 1600000)
      ∧ (mode = 2 → Spec.flitHere s f → ∃ t, exec (.ethernetFrameReceived port true sender seq [f]) s = .next t
          ∧ t.coll.seen = s.coll.seen ++ [key] ∧ s.SameData t ∧ t.seq = s.seq)
      ∧ (mode = 2 → ∃ t, exec (.ethernetFrameReceived port false sender seq [f]) s = .next t ∧ s.SameData t ∧ t.coll = s.coll
          ∧ objGet t 0x7300 0xE = (objGet s 0x7300 0xE + 1) % 2 ^ 64)

/-- The life of a port: training goes step by step from DARK to ACTIVE, or to FAILED with fewer than eight lanes, or to MISWIRED where the
peer is not the one that the port's place implies; step 2 ends with this device's own exchange; a port that comes up tells its peer the
period of a beat it has; a step that times out is counted and training begins again; a port that hears no frame
goes DARK; a lane swap moves its lane to the spare at the boundary that both ends have agreed on; a port that trains at generation 1 leaves
its spare lanes and gives up a swap that has begun (DEDUCED, log entry 63); the shroud's sense mates and unmates the laser sources (11 R273, R277 to R280, R293). -/
def Obligations.PortsTrain : Prop :=
  ∀ (s : State) (port : BitVec 3) (i : TrainInfo),
    let k := port.toNat
    let p := portGet s k
    let becomes := fun (c : Instr) (q : Port) => exec c s = .next { s with
      fab := { s.fab with ports := storeSet blankPort s.fab.ports k q } }
    let b := s.fab.beat
    let done := Instr.trainingStepDone port i
    let st : PortState := if p.st = .retrain then .retrain else .training
    let gen := max 1 (min (objGet s 0x2303 1) i.peerGen)
    let agreed := { p with step := 4, gen := gen, peerId := i.peerId }
    let right := (k < 6 ∨ expressOn s = true) ∧ i.peerId.toNat = peerOf s (objGet s 0x2300 1) k ∧ i.peerPort.toNat = (if k % 2 = 0 then k + 1 else k - 1)
    (p.st = .dark ∨ p.st = .training ∨ p.st = .retrain → objGet s 0x2301 (k + 1) ≠ 2 →
      (p.step = 1 → 8 ≤ min i.lanes (lanesLeft p) → becomes done { p with st := st, step := 2, half := p.half || decide (i.lanes < 16) })
      ∧ (p.step = 1 → min i.lanes (lanesLeft p) < 8 → becomes done { p with st := .failed })
      ∧ (p.step = 2 → ∃ t h, exec done s = .next t ∧ t.fab = { s.fab with ports := storeSet blankPort s.fab.ports k { p with st := st, step := 3 } }
          ∧ t.out = .frame k h :: s.out ∧ h.control = [.exchange (objGet s 0x2303 1) (BitVec.ofNat 14 (objGet s 0x2300 1)) k (objGet s 0x2300 2)
            (objGet s 0x2300 3) (objGet s 0x2300 4) (decide (objGet s 0x2300 5 = 1))] ∧ s.SameData t)
      ∧ (p.step = 3 → right → gen ≠ 1 ∨ (p.swap = none ∧ ∀ e ∈ p.laneMap, e.2 < 16) → becomes done agreed)
      ∧ (p.step = 3 → right → gen = 1 → p.swap = none → (∃ e ∈ p.laneMap, 16 ≤ e.2) →
          let left := { agreed with laneMap := p.laneMap.filter fun e => decide (e.2 < 16), half := true }
          let gone := (p.retired.filter fun x => decide (x < 16)).length
          (gone ≤ 8 → becomes done left) ∧ (8 < gone → becomes done { left with st := .failed }))
      ∧ (p.step = 3 → right → gen = 1 → p.swap.isSome = true → ∃ t, exec done s = .next t ∧ (portGet t k).swap = none
          ∧ (portGet t k).half = true ∧ (∀ j, j ≠ k → portGet t j = portGet s j) ∧ s.SameData t)
      ∧ (p.step = 3 → ¬right → ∃ t, exec done s = .next t ∧ (portGet t k).st = .miswired ∧ s.SameData t
          ∧ (Spec.recordsFit s → ∃ r, Spec.lastRecord t = some r ∧ r.type = 0x41 ∧ r.sev = 2))
      ∧ (p.step = 4 → becomes done { p with st := st, step := 5, rtt := i.rttNs })
      ∧ (p.step = 5 → ∃ t, exec done s = .next t ∧ s.SameData t
          ∧ ((∀ g ∈ s.rel.follows, g.ucls = 8 → g.unit.toNat / 18 ≠ k) → (portGet t k).st = .active ∧ (portGet t k).rxGood = 0
            ∧ (portGet t k).swap = none ∧ (∀ j, j ≠ k → portGet t j = portGet s j)
            ∧ (b.gen = false → (portGet t k).txSeq = 0 ∧ (portGet t k).replay = [])
            ∧ (b.gen = true → ∃ h rest, t.out = .frame k h :: rest ∧ .periodNow b.periodFrom b.period ∈ h.control))))
    ∧ (p.st = .dark ∨ p.st = .training → becomes (.trainingStepTimeout port) { p with
        st := .dark, step := 1, attempts := p.attempts + 1 })
    ∧ (p.st = .retrain → becomes (.trainingStepTimeout port) { p with step := 1, attempts := p.attempts + 1 })
    ∧ (p.st = .active ∨ p.st = .training ∨ p.st = .retrain ∨ p.st = .miswired →
        ∃ t, exec (.portDarkTimeout port) s = .next t ∧ (portGet t k).st = .dark ∧ (portGet t k).peerHop = 63 ∧ s.SameData t)
    ∧ (∀ l sp, p.swap = some (l, sp) → p.agreed = false ∨ b.count.toNat < p.swapAt.toNat → exec (.laneSwapSwitch port) s = .next s)
    ∧ (∀ l sp, let old := storeGet l p.laneMap l
        p.swap = some (l, sp) → p.agreed = true → p.swapAt.toNat ≤ b.count.toNat →
        s.rel.follows = [] ∨ s.rel.follows = [⟨8, BitVec.ofNat 16 (k * 18 + old)⟩] →
        ∃ t, exec (.laneSwapSwitch port) s = .next t ∧ s.SameData t ∧ t.rel.follows = []
        ∧ storeGet l (portGet t k).laneMap l = sp ∧ (portGet t k).swap = none
        ∧ (portGet t k).retired = (if p.retired.contains old then p.retired else p.retired ++ [old])
        ∧ objGet t 0x7300 5 = (objGet s 0x7300 5 + 1) % 2 ^ 64)
    ∧ (∀ mated, ∃ t, exec (.shroudSenseChange mated) s = .next t ∧ t.fab.shroud = mated ∧ s.SameData t
        ∧ ∀ j < 4, objGet t 0x2310 (2 + j) =
            let old := objGet s 0x2310 (2 + j)
            if mated = true ∧ old = 6 then 1 else if mated = false ∧ old = 1 then 6 else old)

/-- A tocsin that is new, by source and TSEQ, raises interrupt 10h and goes out on every other ACTIVE Shuaskol port; one seen before
changes nothing (13 R354). -/
def Spec.TocsinsSpread : Prop :=
  ∀ (s : State) (port : BitVec 3) (src : BitVec 14) (ts : BitVec 87),
    let seen := s.rel.tocsins.contains (src, (BitVec.ofNat 32 (field ts 59 28) : W32))
    (seen = true → exec (.tocsinReceived port src ts) s = .next s)
    ∧ (seen = false → field ts 86 83 ≠ 1 → ∃ t, exec (.tocsinReceived port src ts) s = .next t ∧ s.SameData t ∧ t.seq = s.seq
        ∧ t.cnt.ipend = s.cnt.ipend ||| 1 ∧ (src, BitVec.ofNat 32 (field ts 59 28)) ∈ t.rel.tocsins
        ∧ (∀ j ∈ shuaskolPorts s, j ≠ port.toNat →
            ∃ q, (portGet t j).queue = (portGet s j).queue ++ [q] ∧ q.origin = port.toNat ∧ field (headOf q.flit) 94 91 = 3
              ∧ field (headOf q.flit) 86 0 = ts.toNat ∧ field (headOf q.flit) 113 100 = src.toNat)
        ∧ (∀ j, j ∉ shuaskolPorts s ∨ j = port.toNat → portGet t j = portGet s j))

/-- Frames, flits and tocsins on the ports (11 R274 to R293, 13 R353, R354). -/
def Obligations.FlitsAndTocsins : Prop :=
  Spec.FlitsMove ∧ Spec.TocsinsSpread

/-! ### Reliability (13) -/

/-- The patrol scrubber takes the words of scratch and then of the lines that the caches hold (DEDUCED, log entry 95) in order: a good or
poisoned word changes nothing, a corrected one is reported and waits for its write-back, an uncorrectable one becomes poison; of clay and
marl it takes the populated words (13 R343 to R345). -/
def Spec.ScrubReads : Prop :=
  ∀ s : State,
    let n := s.rel.scrubNear % (160 * 2 ^ 20 + 8 * s.cache.length)
    let near := nearWord s n
    let w := near / 16
    let total := ((farSpans s).map (·.2)).sum
    let m := s.rel.scrubFar % total
    let up := fun (t : State) (sub : Nat) => objGet t 0x7410 sub = (objGet s 0x7410 sub + 1) % 2 ^ 64
    (n < 160 * 2 ^ 20 → near = scratchBase + 16 * n ∧ hasTarget s near = true)
    ∧ (hasTarget s near = false ∨ markGet s w = .good ∨ markGet s w = .poison →
        exec (.patrolScrubRead false) s = .next { s with rel := { s.rel with scrubNear := n + 1 } })
    ∧ (∀ sym synd, hasTarget s near = true → markGet s w = .corrected sym synd → w ∉ s.rel.fixes →
        ∃ t, exec (.patrolScrubRead false) s = .next t ∧ t.rel.fixes = s.rel.fixes ++ [w] ∧ up t 1 ∧ up t 4 ∧ s.SameData t)
    ∧ (∀ synd, hasTarget s near = true → markGet s w = .uncorrectable synd → objGet s 0x4000 1 ≠ 1 →
        ∃ t, exec (.patrolScrubRead false) s = .next t ∧ markGet t w = .poison ∧ up t 2 ∧ t.rel.scrubNear = n + 1
          ∧ (∀ i < 16, memGet t (16 * w + i) = 0) ∧ (∀ a, a / 16 ≠ w → memGet t a = memGet s a)
          ∧ (∀ v, v ≠ w → markGet t v = markGet s v) ∧ t.sc = s.sc ∧ t.tiles = s.tiles ∧ t.elem = s.elem ∧ t.slots = s.slots)
    ∧ (total = 0 → exec (.patrolScrubRead true) s = .next { s with rel := { s.rel with scrubFar := 1 } })
    ∧ (∀ a, total ≠ 0 → farWord (farSpans s) m = some a → hasTarget s a = false ∨ markGet s (a / 16) = .good →
        exec (.patrolScrubRead true) s = .next { s with rel := { s.rel with scrubFar := m + 1 } })

/-- The write-back of a corrected word makes it good; a word that is no longer waiting is left. The summary of a unit's corrections is
filed once 2^20 beats have passed since its last record, if it has counted any (13 R343, R352). -/
def Spec.CorrectionsEnd : Prop :=
  ∀ (s : State) (a : BitVec 48) (ucls : BitVec 8) (unit : BitVec 16) (rep : UnitRep),
    let w := a.toNat / 16
    let late := rep.beat.toNat + 2 ^ 20 ≤ s.fab.beat.count.toNat
    (∀ sym synd, w ∈ s.rel.fixes → markGet s w = .corrected sym synd →
        ∃ t, exec (.correctionWriteback a) s = .next t ∧ markGet t w = .good ∧ t.rel.fixes = s.rel.fixes.erase w
          ∧ (∀ v, v ≠ w → markGet t v = markGet s v) ∧ t.mem = s.mem)
    ∧ (w ∉ s.rel.fixes → exec (.correctionWriteback a) s = .next s)
    ∧ (s.rel.reports = [rep] → rep.ucls = ucls → rep.unit = unit →
        (rep.count = 0 ∨ ¬late → exec (.correctionSummaryExpiry ucls unit) s = .next s)
        ∧ (rep.count ≠ 0 → late → ∃ t, exec (.correctionSummaryExpiry ucls unit) s = .next t
            ∧ t.rel.reports = [{ rep with count := 0, distinct := [] }]
            ∧ (Spec.recordsFit s → ∃ x, Spec.lastRecord t = some x ∧ x.type = 2 ∧ x.sev = 1 ∧ x.ucls = ucls ∧ x.unit = unit
                ∧ x.count = BitVec.ofNat 32 rep.count)
            ∧ s.SameData t))

/-- Scrubbing, corrections and their write-back and summary (13 R343 to R345, R352). -/
def Obligations.ScrubbingAndCorrection : Prop :=
  Spec.ScrubReads ∧ Spec.CorrectionsEnd

/-- The comparison of a suspect inside peal 0, with an empty ledger: a transient fault is entered in the ledger and counted, the suspect
is cleared; a permanent one of a scratch bank is entered, and its retirement begins; one of a slice also sets L in the next vote; a
spare that differs becomes a suspect. With no suspect nothing happens (13 R356 to R361). -/
def Spec.ComparisonsDecide : Prop :=
  ∀ (s : State) (u : BitVec 8 × BitVec 16) (o : Comparison) (last : BitVec 48),
    let up := fun (t : State) (sub : Nat) => objGet t 0x7410 sub = (objGet s 0x7410 sub + 1) % 2 ^ 64
    let entry := fun (t : State) => t.rel.ledger.map fun e => (e.ucls, e.unit, e.type.toNat, e.kind.toNat)
    (s.rel.suspects = [] → exec (.comparisonComplete o) s = .next s)
    ∧ (s.rel.suspects = [u] → s.rel.running = some (0, last) → s.rel.ledger = [] → s.rel.follows = [] →
        (∃ t, exec (.comparisonComplete .transient) s = .next t ∧ t.rel.suspects = [] ∧ entry t = [(u.1, u.2, 0x20, 0)]
          ∧ up t 6 ∧ t.rel.follows = [] ∧ t.coll = s.coll ∧ s.SameData t)
        ∧ (u.1 = 4 → ∃ t, exec (.comparisonComplete .permanent) s = .next t ∧ t.rel.suspects = []
          ∧ entry t = [(4, u.2, 0x21, 1)] ∧ up t 7 ∧ up t 8 ∧ t.rel.follows = [⟨4, u.2⟩] ∧ t.coll = s.coll ∧ s.SameData t)
        ∧ (u.1 = 1 → s.coll.held = [] → s.coll.committed = [] →
            ∃ t, exec (.comparisonComplete .permanent) s = .next t ∧ t.coll = { s.coll with voteL := true })
        ∧ (u.1 = 0xB → ∃ t, exec (.comparisonComplete .spareSuspect) s = .next t ∧ t.rel.suspects = [u, (0xB, 1 - u.2)]
          ∧ up t 5 ∧ s.SameData t))

/-- A retirement ends at its switch, in the clk of a beat boundary: the logical slice of a retired slice runs on the quarter's spare; a row or a column of an array
whose spare has followed a weight load or take-up is entered in the repair map; the follow ends, it is counted, filed as 0023h and entered in the ledger as retired,
or, of a bank whose row has been replaced, as repaired (DEDUCED, log entry 119) (13 R361, 01 R15, 06 R160). -/
def Spec.RetirementsSwitch : Prop :=
  ∀ (s : State) (ucls : BitVec 8) (unit : BitVec 16),
    let u := unit.toNat
    let ends := fun (t : State) => t.rel.follows = [] ∧ objGet t 0x7410 9 = (objGet s 0x7410 9 + 1) % 2 ^ 64
      ∧ t.cnt.recoveryArm = true ∧ (Spec.recordsFit s → ∃ x, Spec.lastRecord t = some x ∧ x.type = 0x23 ∧ x.ucls = ucls ∧ x.unit = unit)
      ∧ (∃ e, t.rel.ledger = s.rel.ledger ++ [e] ∧ e.ucls = ucls ∧ e.unit = unit
        ∧ e.kind = (if ucls = 4 ∨ ucls = 6 then 3 else 2)) ∧ s.SameData t
    let now := s.fab.beat.gen = true ∧ s.fab.beat.waiting = false ∧ domOn s 1 = true
      ∧ s.fab.beat.boundary = s.cnt.clk + s.cnt.withheld
    let planned := ∀ x ∈ s.rel.plans, x.2.toNat ≤ s.fab.beat.count.toNat
    (¬now → exec (.retirementSwitch ucls unit) s = .next s)
    ∧ (now → planned → s.rel.follows = [⟨ucls, unit⟩] → s.rel.ledger.length < 65536 →
      (∀ l sp, ucls = 1 → logicalOf s u = some l → spareSlice s (u / 21) = some sp →
        ∃ t, exec (.retirementSwitch ucls unit) s = .next t ∧ physSlice t l = sp ∧ ends t)
      ∧ (∀ m, ucls = 2 ∨ ucls = 3 → arrayRetire (objGet s 0x2011 (u / 256 + 1)) (decide (ucls = 3)) (u % 256) = some m →
        ((⟨ucls, unit⟩ : Follow), none) ∈ s.rel.trailed →
        ∃ t, exec (.retirementSwitch ucls unit) s = .next t ∧ objGet t 0x2011 (u / 256 + 1) = m ∧ ends t)
      ∧ (ucls = 4 → ∃ t, exec (.retirementSwitch ucls unit) s = .next t ∧ ends t))

/-- Suspects are compared, and units retired (13 R356 to R361). -/
def Obligations.SuspectsAndRetirement : Prop :=
  Spec.ComparisonsDecide ∧ Spec.RetirementsSwitch

/-- A peal ends: PEAL_COMPLETE counts it and files record 0030h with the numbers of tests passed and failed, and every bad unit
becomes a suspect; at the end of its window it ends as incomplete; with no peal running neither does anything (13 R366, R367). -/
def Spec.PealsEnd : Prop :=
  ∀ (s : State) (n passed failed : BitVec 16) (last : BitVec 48) (bad : List (BitVec 8 × BitVec 16)),
    let counted := fun (t : State) => t.rel.running = none
      ∧ objGet t 0x7410 0xA = (objGet s 0x7410 0xA + 1) % 2 ^ 64 ∧ s.SameData t
    let filed := fun (t : State) (detail : Nat) => (Spec.recordsFit s → ∃ x, Spec.lastRecord t = some x ∧ x.type = 0x30 ∧ x.detail.toNat = detail)
    (s.rel.running = some (n, last) →
        (∃ t, exec (.pealComplete passed failed bad) s = .next t ∧ counted t
          ∧ filed t (n.toNat + passed.toNat * 2 ^ 16 + failed.toNat * 2 ^ 32 + (if failed = 0 then 0 else 2 ^ 48))
          ∧ (failed = 0 → t.rel.suspects = s.rel.suspects) ∧ (failed ≠ 0 → ∀ u ∈ bad, u ∈ t.rel.suspects))
        ∧ (last.toNat ≤ s.fab.beat.count.toNat → ∃ t, exec .pealWindowExpiry s = .next t ∧ counted t
            ∧ filed t (n.toNat + 2 * 2 ^ 48))
        ∧ (s.fab.beat.count.toNat < last.toNat → exec .pealWindowExpiry s = .next s))
    ∧ (s.rel.running = none → exec (.pealComplete passed failed bad) s = .next s ∧ exec .pealWindowExpiry s = .next s)

/-- A spot check ends: the quarter's sample is given up and counted; a difference is counted and filed as 0014h, sets L in the next
vote and makes the sampled slice a suspect (13 R368, R369). -/
def Spec.SpotChecksEnd : Prop :=
  ∀ (s : State) (q : BitVec 3) (elem : BitVec 14) (bank : BitVec 8),
    let v := storeGet 0 s.rel.samples q.toNat
    let p := physSlice s (v.toNat - 1)
    let up := fun (t : State) (sub : Nat) => objGet t 0x7410 sub = (objGet s 0x7410 sub + 1) % 2 ^ 64
    let ends := fun (t : State) => storeGet 0 t.rel.samples q.toNat = 0 ∧ storeGet [] t.rel.sampleData q.toNat = []
      ∧ up t 0xB ∧ s.SameData t
    (v = 0 → ∀ d, exec (.spotCheckComplete q d elem bank) s = .next s)
    ∧ (v ≠ 0 → (∃ t, exec (.spotCheckComplete q false elem bank) s = .next t ∧ ends t ∧ t.coll = s.coll
          ∧ t.rel.suspects = s.rel.suspects ∧ t.rel.ring = s.rel.ring)
        ∧ (∃ t, exec (.spotCheckComplete q true elem bank) s = .next t ∧ ends t ∧ up t 0xC
          ∧ t.coll = { s.coll with voteL := true } ∧ (1, BitVec.ofNat 16 p) ∈ t.rel.suspects
          ∧ (Spec.recordsFit s → ∃ x, Spec.lastRecord t = some x ∧ x.type = 0x14 ∧ x.sev = 2 ∧ x.unit = BitVec.ofNat 16 p
              ∧ x.detail.toNat = elem.toNat + bank.toNat * 2 ^ 16)))

/-- Peals and spot checks end (13 R365 to R369). -/
def Obligations.PealsAndSpotChecks : Prop :=
  Spec.PealsEnd ∧ Spec.SpotChecksEnd

/-! ### Checkpoint strata (14) -/

/-- Status and reason fields of CKSTAT as an operation leaves them (14 Table 14-6). -/
def Spec.ckShows (t : State) (op st reason : Nat) (seq : W64) : Prop :=
  t.ctl.ckstat.toNat = op + st * 2 ^ 4 + reason * 2 ^ 8 + seq.toNat % 2 ^ 48 * 2 ^ 16

/-- Securing: one operation at a time, and none while slot L is busy, so another fails with reason 02h and is counted. A secure takes the next SEQ for its image; those
of strata 2 and 3 stand in slot L afterwards, draining or staged, under that SEQ, step and region, and object 4111h:03 shows the SEQ of a
staged image (14 R376, R379). -/
def Spec.CheckpointsSecured : Prop :=
  ∀ (s : State) (own : BitVec 2) (arg : W128) (es : List Extent) (data : List Byte),
    let s1 := nextOp s
    let a := ckOfCue s own arg
    let m := ckManifest s1 a
    let s2 := m.1.onCkpt fun c => { c with nextSeq := c.nextSeq + 1 }
    let lay := layOut (4 * chunkSize) es
    let nch := ceilDiv lay.2 chunkSize
    let fits := fun str => nch * chunkSize + nch * entrySize str ≤ slotSize s
    let seq := s.ckpt.nextSeq
    let opIs := field arg 3 0
    let held := fun (t : State) (str : Nat) => ∃ d, t.ckpt.drain = some d ∧ d.stratum = str ∧ d.seq = seq
      ∧ d.region = nextPlace s str ∧ d.step = s.cnt.step.toNat ∧ d.total = nch + 1
    s.dma.held = [] → ckArgOk arg = true → domOn s 1 = true → domOn s 6 = true → dmaFull s = false → s.marks = [] →
      (s.ckpt.job ≠ none ∨ s.ckpt.drain ≠ none →
        ∀ c ∈ [(1, Instr.secureStratum1 own arg), (2, .secureStratum2 own arg), (3, .secureStratum3 own arg)], opIs = c.1 →
          ∃ t, exec c.2 s = .next t ∧ Spec.ckShows t c.1 4 2 0 ∧ t.ckpt = s.ckpt
            ∧ objGet t 0x7420 2 = (objGet s 0x7420 2 + 1) % 2 ^ 64 ∧ s.SameData t)
      ∧ (s.ckpt.job = none → s.ckpt.drain = none → (∀ k, (slotGet s k).marks = []) → (∀ e, (cueGet s e).marks = []) → m.2 = .inl es →
          (readExtents s2 a.level lay.1 (4 * chunkSize)).2 = .inl data →
          (opIs = 1 → fits 1 → ∃ t, exec (.secureStratum1 own arg) s = .next t ∧ t.ckpt.nextSeq = seq + 1)
          ∧ (opIs = 2 → fits 2 → nvmeUsable s = true → slotLUsable s = true → ∃ t, exec (.secureStratum2 own arg) s = .next t
              ∧ t.ckpt.nextSeq = seq + 1 ∧ held t 2 ∧ Spec.ckShows t 2 2 0 seq)
          ∧ (opIs = 3 → fits 3 → slotLUsable s = true → ∃ t, exec (.secureStratum3 own arg) s = .next t
              ∧ t.ckpt.nextSeq = seq + 1 ∧ held t 3 ∧ Spec.ckShows t 3 2 0 seq ∧ objGet t 0x4111 3 = seq.toNat))

/-- NVME_COMMAND_COMPLETE of a drain: the oldest command leaves the queue; once the data writes have completed the Flush is sent, and after it the
header; the completion of the last command commits the image as the newest of stratum 2, and a failed command ends the drain with reason 0Bh
(14 R376, R377, R379, R380). -/
def Spec.DrainsCommit : Prop :=
  ∀ (s : State) (d : Drain) (data : List Byte) (c f h : NvmeCmd) (rest : List NvmeCmd),
    s.ckpt.drain = some d → d.stratum = 2 → s.ckpt.sent = c :: rest → c.use = 0 →
    (s.ckpt.todo = [] → (∃ x ∈ rest, x.use = 0) →
      exec (.nvmeCommandComplete true data) s = .next { s with ckpt := { s.ckpt with sent := rest } })
    ∧ (s.ckpt.todo = [f, h] → rest = [] → f.use = 0 → f.opcode = 0 → h.use = 0 → h.fua = true →
      exec (.nvmeCommandComplete true data) s
        = .next { s with ckpt := { s.ckpt with sent := [f], todo := [h] }, out := .nvme 0 f.lba f.blocks f.fua [] :: s.out })
    ∧ (s.ckpt.todo = [h] → rest = [] → h.use = 0 → h.opcode = 1 → h.bytes ≠ [] →
      exec (.nvmeCommandComplete true data) s
        = .next { s with ckpt := { s.ckpt with sent := [h], todo := [] }, out := .nvme 1 h.lba h.blocks h.fua h.bytes :: s.out })
    ∧ ((∀ x ∈ s.ckpt.todo ++ rest, x.use ≠ 0) → ∃ t, exec (.nvmeCommandComplete true data) s = .next t ∧ t.ckpt.drain = none
        ∧ storeGet 0 t.ckpt.newest 2 = d.region + 1 ∧ objGet t 0x4110 2 = d.step ∧ objGet t 0x4110 5 = d.seq.toNat
        ∧ objGet t 0x7420 1 = (objGet s 0x7420 1 + 1) % 2 ^ 64 ∧ Spec.ckShows t 2 3 0 d.seq ∧ s.SameData t)
    ∧ (∃ t, exec (.nvmeCommandComplete false data) s = .next t ∧ t.ckpt.drain = none ∧ Spec.ckShows t 2 4 0xB d.seq
        ∧ t.ckpt.newest = s.ckpt.newest ∧ objGet t 0x7420 2 = (objGet s 0x7420 2 + 1) % 2 ^ 64 ∧ s.SameData t)

/-- Checkpoints are secured, and drains commit (14 R376 to R380). -/
def Obligations.CheckpointsSecure : Prop :=
  Spec.CheckpointsSecured ∧ Spec.DrainsCommit

/-- Restoring: a good image in slot L without extents of its own is unpacked: the step count, the counter key and the cue and scale
tables come from it, the attempt is 0, and CKSTAT shows the operation committed under the image's SEQ; a bad one fails with its reason
and changes no data but the cache that the image is read through (log entry 95). From NVMe, the region is read
first. While the stream runs a restore fails with reason 01h. Returning a guest's image sends it to the guest, beside a secure that is under
way; beside a restore, or while slot L is busy, it fails with reason 02h (DEDUCED, log entry 117) (14 R381, R386 to R388). -/
def Obligations.ImagesRestored : Prop :=
  ∀ (s : State) (own : BitVec 2) (arg : W128) (bs : List Byte),
    let opIs := field arg 3 0
    let image := peekBytes s (slotAddr s 2) (slotSize s)
    let seq : W64 := BitVec.ofNat 64 (bytesAt image 16 8)
    let cnt := (image.drop (chunkSize + 1343488)).take 64
    let sl := field arg 5 4
    let back := fun (t : State) (op : Nat) => Spec.ckShows t op 3 0 seq
      ∧ t.cnt.step = BitVec.ofNat 48 (bytesAt cnt 24 6) ∧ t.ctl.rtkl = BitVec.ofNat 64 (bytesAt cnt 0 8)
      ∧ t.cnt.recoveryArm = true ∧ t.coll.attempt = 0 ∧ t.mem = s.mem ∧ t.sc = s.sc
      ∧ objGet t 0x7420 4 = (objGet s 0x7420 4 + 1) % 2 ^ 64
    let verdict := fun (t : State) (op str : Nat) =>
      (imageReason s str image = 0 → bytesAt image 52 2 = 0 → back t op)
      ∧ (imageReason s str image ≠ 0 → Spec.ckShows t op 4 (imageReason s str image) seq
          ∧ (useCache s (slotAddr s 2) (slotSize s) false 0).SameData t)
    let sent := fun (t : State) => t.ckpt.returns = []
      ∨ ∃ j, t.ckpt.returns = [j] ∧ j.op = 4 ∧ j.dev = field arg 29 16 ∧ j.place = sl ∧ 0 < j.owed
    let free := domOn s 1 = true ∧ domOn s 6 = true ∧ dmaFull s = false
    (s.dma.held = [] → ckArgOk arg = true → free → s.marks = [] → s.ckpt.job = none → s.ckpt.drain = none →
      (s.seq.running = true →
        ∀ c ∈ [(5, Instr.restoreAfterReturn own arg), (6, .restoreFromNvme own arg), (7, .restoreAfterHostWrite own arg)],
          opIs = c.1 → ∃ t, exec c.2 s = .next t ∧ Spec.ckShows t c.1 4 1 0 ∧ t.ckpt = s.ckpt ∧ s.SameData t)
      ∧ (s.seq.running = false → slotLUsable s = true →
          (opIs = 5 → ∃ t, exec (.restoreAfterReturn own arg) s = .next t ∧ verdict t 5 1)
          ∧ (opIs = 7 → objGet s 0x4111 1 ≠ 0 → ∃ t, exec (.restoreAfterHostWrite own arg) s = .next t ∧ verdict t 7 3)
          ∧ (opIs = 6 → nvmeUsable s = true → s.ckpt.todo = [] → s.ckpt.sent = [] →
            ∃ t, exec (.restoreFromNvme own arg) s = .next t ∧ Spec.ckShows t 6 1 0 0
            ∧ (∃ j, t.ckpt.job = some j ∧ j.op = 6 ∧ j.sl = sl ∧ j.got = 0 ∧ j.root = s.ctl.ptbInUse)
            ∧ (∃ x ∈ t.ckpt.sent, x.opcode = 2 ∧ x.lba = objGet s 0x4103 1 + sl * (slotSize s / 4096)) ∧ s.SameData t)))
    ∧ (s.dma.held = [] → ckArgOk arg = true → free → s.marks = [] → s.ckpt.returns = [] → opIs = 4 →
        (s.ckpt.drain ≠ none → ∃ t, exec (.returnGuestImage own arg) s = .next t ∧ Spec.ckShows t 4 4 2 0 ∧ t.ckpt = s.ckpt ∧ s.SameData t)
        ∧ (s.ckpt.drain = none →
        (∀ j, s.ckpt.job = some j → j.op = 1 →
          (ckRead (nextOp s) 3 true (BitVec.ofNat 64 (slotAddr s sl)) (imageLength s (slotAddr s sl))).2 = .inl bs →
          ∃ t, exec (.returnGuestImage own arg) s = .next t ∧ t.dma.nextReq = s.dma.nextReq + 1 ∧ t.ckpt.job = some j ∧ sent t)
        ∧ (s.ckpt.job = none →
          (ckRead (nextOp s) 3 true (BitVec.ofNat 64 (slotAddr s sl)) (imageLength s (slotAddr s sl))).2 = .inl bs →
          ∃ t, exec (.returnGuestImage own arg) s = .next t ∧ t.dma.nextReq = s.dma.nextReq + 1 ∧ t.ckpt.job = none ∧ sent t)
        ∧ (∀ j, s.ckpt.job = some j → j.op ≠ 1 → ∃ t, exec (.returnGuestImage own arg) s = .next t ∧ Spec.ckShows t 4 4 2 0
          ∧ t.ckpt = s.ckpt ∧ s.SameData t)))

/-! ### Power (15) -/

/-- The estimate of each 2 µs: object 3040h:03 shows it in W, the quarters are charged, and the cap controller moves the mute of the cap
by at most one step: up while the estimate is over the cap, down while it is under 97 % of it, and it stays in between
(15 R398, R399, R403, Table 15-5). The estimate itself rests on free values of Config (DESIGN CHOICE, log entry 6). -/
def Spec.CapController : Prop :=
  ∀ (s : State) (activity quarters queues : List Nat),
    let mw := estimateMw s activity
    let cap := 1000 * min (objGet s 0x3010 1) (objGet s 0x3010 2)
    let m := s.power.capMute
    s.trust.restarting = false → ∃ t, exec (.powerEstimate activity quarters queues) s = .next t
      ∧ objGet t 0x3040 3 = mw / 1000
      ∧ ((quarters.take 8).sum ≤ mw * 2 / 1000 → ∀ q, q < 8 → q < quarters.length → objGet t 0x7430 (1 + q) = (objGet s 0x7430 (1 + q) + quarters.getD q 0) % 2 ^ 64)
      ∧ (cap < mw → m < 12 → t.power.capMute = m + 1 ∧ t.power.dvfsNext = s.power.dvfsNext)
      ∧ (100 * mw < 97 * cap → 0 < m → t.power.capMute = m - 1 ∧ t.power.dvfsNext = s.power.dvfsNext)
      ∧ (mw ≤ cap → 97 * cap ≤ 100 * mw → t.power.capMute = m ∧ t.power.dvfsNext = s.power.dvfsNext)
      ∧ (cap < mw → m = 12 → 249 ≤ s.power.atTwelve → pointDue s < 3 →
          t.power.capMute = 6 ∧ pointDue t = pointDue s + 1)
      ∧ t.power.domains = s.power.domains ∧ t.seq = s.seq ∧ s.SameData t

/-- A gain correction moves the common gain to the ratio of measurement and estimate, by at most 1 % of the gain; a change is counted
(15 R398). -/
def Spec.GainCorrection : Prop :=
  ∀ (s : State) (measured est : Nat),
    let g := s.power.gain
    ∃ t, exec (.estimatorGainCorrection measured est) s = .next t
      ∧ g - g / 100 ≤ t.power.gain ∧ t.power.gain ≤ g + g / 100
      ∧ (est ≠ 0 → g - g / 100 ≤ g * measured / est → g * measured / est ≤ g + g / 100 → t.power.gain = g * measured / est)
      ∧ (t.power.gain = g → t = s)
      ∧ (t.power.gain ≠ g → objGet t 0x7432 6 = (objGet s 0x7432 6 + 1) % 2 ^ 64 ∧ s.SameData t)

/-- The mute in force changes at a frame boundary only, to the largest of the three levels; the clock switches at a frame boundary, and
is counted; a rise of the clock waits until the supply stands at the new set voltage, 60 mV above the point's minimum, and for five estimates
without a droop. In a withheld clk the stream and what is in flight stand still, and it is counted. A droop trip sets the droop mute to 16; once every detector
has recovered it falls by one a step (15 R401, R405, R406). -/
def Spec.MuteAndClock : Prop :=
  ∀ (s : State) (d : BitVec 4) (k : Nat),
    let p := s.power
    let edge := s.cnt.frame % 16 = 0
    let volts := fun k => (Config.vMin k : Int) + 60
    (edge → exec .muteChangeEffect s
        = .next { s with power := { p with mute := max p.capMute (max p.droopMute p.thermalMute) } })
    ∧ (¬edge → exec .muteChangeEffect s = .next s ∧ exec .dvfsClockSwitch s = .next s)
    ∧ (p.dvfsNext = none → exec .dvfsClockSwitch s = .next s)
    ∧ (p.dvfsNext = some k → edge →
        (k < p.dvfs → p.quiet < 5 ∨ p.tripped ≠ 0 ∨ p.supply < volts k - volts p.dvfs → exec .dvfsClockSwitch s = .next s)
        ∧ (p.dvfs ≤ k ∨ (5 ≤ p.quiet ∧ p.tripped = 0 ∧ volts k - volts p.dvfs ≤ p.supply) → ∃ t, exec .dvfsClockSwitch s = .next t
            ∧ t.power = { p with dvfs := k, dvfsNext := none, supply := p.supply + volts p.dvfs - volts k }
            ∧ objGet t 0x7432 3 = (objGet s 0x7432 3 + 1) % 2 ^ 64 ∧ s.SameData t))
    ∧ (∃ t, exec (.droopTrip d) s = .next t
        ∧ t.power = { p with droopMute := 16, tripped := p.tripped ||| (1 <<< d.toNat), recovering := false, quiet := 0 }
        ∧ objGet t 0x7432 2 = (objGet s 0x7432 2 + 1) % 2 ^ 64 ∧ s.SameData t)
    ∧ (p.tripped ≠ 0 → exec .droopRecovery s = .next { s with power := { p with tripped := 0, recovering := true } })
    ∧ (p.tripped = 0 → exec .droopRecovery s = .next s)
    ∧ (p.recovering = true → 0 < p.droopMute → exec .droopMuteStep s
        = .next { s with power := { p with droopMute := p.droopMute - 1, recovering := decide (1 < p.droopMute) } })
    ∧ (p.recovering = false → exec .droopMuteStep s = .next s)
    ∧ (withheld s = true → s.fab.inbox = [] → ∃ t, exec .bundleIssue s = .next t ∧ t.seq = s.seq ∧ t.work = s.work ∧ t.cnt.clk = s.cnt.clk
        ∧ t.cnt.frame = (s.cnt.frame + 1) % 16 ∧ objGet t 0x7432 1 = (objGet s 0x7432 1 + 1) % 2 ^ 64 ∧ s.SameData t)

/-- The estimator, the cap controller, the mute, the clock and droop (15 R398 to R406). -/
def Obligations.PowerControl : Prop :=
  Spec.CapController ∧ Spec.GainCorrection ∧ Spec.MuteAndClock

/-- The thermal points, on the hottest of the quarters and peripheries: below warning nothing but the readings changes, and with them the measured core supplies, which are free values (log entry 40); passing 95 °C
raises interrupt 15h and counts a warning; from 100 °C on the device is throttled, from 105 °C on the thermal mute is 16; at 110 °C
it trips: the trip is logged, THERMTRIP_N asserts, every domain but AON goes down and its contents are lost (15 R408, R409,
Table 15-7; readings in 1/8 °C). -/
def Spec.ThermalPoints : Prop :=
  ∀ (s : State) (sensors piles : List Int),
    let top := (hottest (sensors.take 40)).2
    let was := signedOf 32 (objGet s 0x3030 1)
    let cmd := Instr.thermalSensorRead sensors piles
    sensors.length = 48 →
      (top < 760 → ∃ t, exec cmd s = .next t ∧ t.power.sensors = sensors ∧ objGet t 0x3030 1 = patternOf 32 top
        ∧ t.cnt = { s.cnt with free := s.cnt.free + 2 } ∧ t.power.throttled = false ∧ t.power.limit = false
        ∧ (s.power.limit = true → t.power.thermalMute = 0) ∧ t.seq = s.seq ∧ s.SameData t)
      ∧ (was < 760 → 760 ≤ top → top < 800 → ∃ t, exec cmd s = .next t ∧ t.cnt.ipend = s.cnt.ipend ||| 32
        ∧ t.power.warnings = s.power.warnings + 1 ∧ t.seq = s.seq ∧ s.SameData t)
      ∧ (800 ≤ top → top < 840 → ∃ t, exec cmd s = .next t ∧ t.power.throttled = true
        ∧ (was < 800 → t.cnt.ipend.getLsbD 5 = true) ∧ t.seq = s.seq ∧ s.SameData t)
      ∧ (840 ≤ top → top < 880 → s.power.limitN < 49999 → s.power.limit = false → ∃ t, exec cmd s = .next t
        ∧ t.power.limit = true ∧ t.power.thermalMute = 16 ∧ t.cnt.ipend.getLsbD 5 = true
        ∧ objGet t 0x7432 4 = (objGet s 0x7432 4 + 1) % 2 ^ 64 ∧ t.seq = s.seq ∧ s.SameData t)
      ∧ (880 ≤ top → ∃ t, exec cmd s = .next t ∧ t.power.thermtrip = true ∧ t.power.state = 3 ∧ t.power.domains = 1
        ∧ (∃ x, t.power.trips.getLast? = some x ∧ x.1 = s.fab.beat.count ∧ x.2.2 = top) ∧ objGet t 0x3000 1 = 3
        ∧ t.seq.running = false ∧ t.mem = [] ∧ t.sc = ⟨[], []⟩ ∧ t.slots = [])

/-- A requested state begins once it may: the lower-power of the two requests becomes the target; a lower one waits for the stream to
stop and every tag to end. Its completion puts the state and its domains in force; entry to damped loses the sequencer, the scalar
registers, tiles and the element-wise engine, and leaves memory, the caches, cues and scale slots; before everything but AON goes down, the
dirty lines of the caches are written back, counted in 7220h:07 (DEDUCED, log entry 95) (15 R391 to R395, Table 15-2). -/
def Spec.PowerTransitions : Prop :=
  ∀ (s : State) (ids : List (Nat × ModuleId)) (t : Nat),
    let p := s.power
    let w := max (objGet s 0x3000 1) (objGet s 0x3000 2)
    let free := p.target = none ∧ s.trust.boot = 3 ∧ s.trust.security ≠ 4 ∧ s.board.p48v = true ∧ s.trust.updStatus ≠ 4
    (free → w < p.state → exec .powerTransitionBegin s = .next { s with power := { p with target := some w } })
    ∧ (free → p.state < w → mayLower s = false → exec .powerTransitionBegin s = .next s)
    ∧ (free → p.state = 0 → w = 1 → mayLower s = true →
        exec .powerTransitionBegin s = .next { s with power := { p with target := some 1 } })
    ∧ (w = p.state → exec .powerTransitionBegin s = .next s)
    ∧ (p.target = none → exec (.powerTransitionComplete ids) s = .next s)
    ∧ (p.target = some t → t < 3 → t ≤ p.state ∨ mayLower s = true → objGet s 0x2200 2 = 0 →
        ∃ u, exec (.powerTransitionComplete ids) s = .next u ∧ u.power.state = t ∧ u.power.target = none
          ∧ u.power.domains = domainsFor s t
          ∧ (p.state = 0 → 1 ≤ t → u.seq = resetSeq ∧ u.sc = ⟨[], []⟩ ∧ u.tiles = resetTiles ∧ u.elem = resetElem
              ∧ u.mem = s.mem ∧ u.cache = s.cache ∧ u.slots = s.slots ∧ u.fab.cues = s.fab.cues))
    ∧ (p.target = some 3 → p.state = 3 ∨ mayLower s = true →
        ∃ u, exec (.powerTransitionComplete ids) s = .next u ∧ u.power.state = 3 ∧ u.power.domains = 1 ∧ u.cache = [] ∧ u.mem = []
          ∧ objGet u 0x7220 7 = (objGet s 0x7220 7 + s.cache.countP fun e => e.2.dirty) % 2 ^ 64)

/-- Thermal points and power states (15 R392 to R395, R408, R409). -/
def Obligations.PowerStates : Prop :=
  Spec.ThermalPoints ∧ Spec.PowerTransitions

/-! ### The board (18) and boot (16 R411) -/

/-- From the rise of P48V to the steward: the AON converter starts in internal reset; its release samples the straps and starts the ROM,
which starts the steward firmware of a good flash image and goes to recovery without one; ROM derives the DeviceID keys and the CDI from the
UDS, which it then closes; the rest of the last reserved block of DeviceID's leaves is skipped; the steward is ready once the runtime, the engine components and the installed peals verify. PE_PERST_N low takes the link down (18 R468, R469; 16 R411, R412, R421 to R423, Tables 16-1, 16-6). -/
def Spec.BoardStarts : Prop :=
  ∀ (s : State) (straps : BitVec 3),
    (s.board.p48v = true → exec .p48vRise s = .next s)
    ∧ (s.board.p48v = false → ∃ t, exec .p48vRise s = .next t ∧ t.board.p48v = true ∧ t.board.aon = true
        ∧ t.board.inReset = true ∧ t.power.thermtrip = false ∧ t.power.state = 3 ∧ t.power.domains = 1 ∧ t.trust.boot = 0
        ∧ t.rel.ledger = s.rel.ledger ∧ t.rel.ring = s.rel.ring ∧ t.seq = resetSeq)
    ∧ (s.board.aon = true → s.board.inReset = true → exec (.aonResetRelease straps) s = .next { s with
        board := { s.board with inReset := false, resetLow := false, straps := straps }
        trust := { s.trust with boot := 1 } })
    ∧ (s.trust.boot = 1 → s.trust.flashBad = false → bootVerifies s s.trust.flash [1] = true →
        ∃ seed cdi, exec .romBootComplete s = .next { s with trust := { s.trust with
            boot := 2, running := s.trust.flash, leaves := skipBlock s.trust.leaves, udsClosed := true, deviceSeed := seed, cdi := cdi } }
          ∧ (hasIdentity s = true → seed = kdf (udsNow s) 0 [BitVec.ofNat 8 s.trust.security])
          ∧ (hasIdentity s = true → s.trust.udsClosed = false → cdi = hmac384 (udsNow s)
              (Config.sha384 (componentOf s.trust.flash 1) ++ leBytes 4 (svnOf s.trust.flash 1)
                ++ [BitVec.ofNat 8 s.trust.security, BitVec.ofNat 8 s.trust.level])))
    ∧ (s.trust.boot = 1 → s.trust.flashBad = true → ∃ t, exec .romBootComplete s = .next t ∧ t.trust.boot = 4
        ∧ t.board.stwRdy = true ∧ s.SameData t)
    ∧ (s.trust.boot ≠ 1 → exec .romBootComplete s = .next s)
    ∧ (s.trust.boot = 2 → bootVerifies s s.trust.running [2, 3] = true → pealsVerify s = true → ∃ t, exec .stewardFirmwareReady s = .next t
        ∧ t.trust.boot = 3 ∧ t.board.stwRdy = true ∧ t.seq = s.seq ∧ s.SameData t)
    ∧ (s.trust.boot ≠ 2 → exec .stewardFirmwareReady s = .next s)
    ∧ (exec (.pePerstNChange true) s = .next { s with host := { s.host with perstHigh := true } })
    ∧ (∃ t, exec (.pePerstNChange false) s = .next t ∧ t.host.perstHigh = false ∧ t.host.link = false ∧ t.seq = s.seq
        ∧ s.SameData t)

/-- Losing the input: a reset pulse of 10 µs or more, a brownout and an overvoltage stop the stream and take every domain but AON down;
the fault log gets an entry with the kind; input recovery leaves the device in D3cold with 3000h:01 at 3 (18 R470 to R472). -/
def Spec.BoardFaults : Prop :=
  ∀ (s : State) (us : Nat) (b : Bool),
    let down := fun (t : State) => t.power.domains = 1 ∧ t.power.state = 3 ∧ t.seq = resetSeq ∧ t.mem = [] ∧ t.sc = ⟨[], []⟩
    let logs := fun (t : State) (kind : Nat) => down t ∧ t.board.p48v = false ∧ t.board.aon = true
      ∧ ∃ x, t.board.faultLog.getLast? = some x ∧ x.2.1 = kind ∧ x.2.2 = (if b then 1 else 0)
    (s.board.aon = true → s.board.inReset = false → 10 ≤ us → ∃ t, exec (.resetNAssert us) s = .next t ∧ down t
        ∧ t.board.inReset = true ∧ t.board.resetLow = true ∧ t.trust.boot = 0 ∧ t.rel.ledger = s.rel.ledger)
    ∧ (s.board.p48v = true → s.board.aon = true → (∃ t, exec (.brownout b) s = .next t ∧ logs t 1)
        ∧ (∃ t, exec (.overvoltage b) s = .next t ∧ logs t 2))
    ∧ (s.board.p48v = false → s.board.aon = true → ∃ t, exec .inputRecovery s = .next t ∧ t.board.p48v = true
        ∧ objGet t 0x3000 1 = 3 ∧ t.power = s.power ∧ s.SameData t)

/-- The connector: every position of the grid of 80 columns and 60 rows carries one contact, no contact stands at two positions, and outside
the grid there is none. An unpowered device drives no output; while it is in reset every output is low but THERMTRIP_N, an open drain that
shows its latch whenever AON is powered; out of reset STW_RDY shows whether the steward is ready (18 R461, R462, R465, R467, Table 18-4). -/
def Spec.BoardContacts : Prop :=
  (∀ col row, (contactAt col row).isSome = true ↔ 1 ≤ col ∧ col ≤ 80 ∧ 1 ≤ row ∧ row ≤ 60)
    ∧ (∀ c r c' r' x, contactAt c r = some x → contactAt c' r' = some x → c = c' ∧ r = r')
    ∧ ∀ (s : State) (p : OutPin),
      (s.board.aon = false → pinLevel s p = .highZ)
      ∧ (s.board.aon = true →
          pinLevel s .thermtripN = (if s.power.thermtrip = true then .low else .highZ)
          ∧ (s.board.inReset = true ∨ s.board.resetLow = true → p ≠ .thermtripN → pinLevel s p = .low)
          ∧ (s.board.inReset = false → s.board.resetLow = false →
              pinLevel s .stwRdy = (if s.board.stwRdy = true then .high else .low)))

/-- The board: start, reset, the loss of the input, and the contacts of the connector (18 R461 to R472, 16 R411, R421). -/
def Obligations.TheBoard : Prop :=
  Spec.BoardStarts ∧ Spec.BoardFaults ∧ Spec.BoardContacts

/-! ### Firmware, tokens, debug, attestation (16) -/

/-- An update: a verified image waits as status 3, a refused one ends as 6 with its reason; a write of 1 to 1F50h:02 arms it and a write of
0 discards it as status 7; at its activation, in the clk of a beat boundary, the new image runs, the steward restarts and the flash is written, and an
abort in that clk finds nothing to abort; records that have waited in AON are filed when the steward is back; the end of the flash write is status
5; a commit raises each firmware counter to the version of the running component (16 R416, R418, R419). Requests are answered with their status and counted (17 R450). -/
def Obligations.UpdatesRun : Prop :=
  ∀ (s : State) (failed : List (BitVec 3)),
    let t0 := s.trust
    let answer := fun (t : State) (st : Nat) => ∃ r, t.out = .answer .bmc st [] :: r
    (t0.updStatus = 2 → t0.boot ≠ 4 → ∃ t, exec .updateVerifyComplete s = .next t ∧ s.SameData t
        ∧ (imageRefusal s t0.staged = 0 → t.trust = { t0 with updStatus := 3 })
        ∧ (imageRefusal s t0.staged ≠ 0 →
            t.trust = { t0 with updStatus := 6, updReason := imageRefusal s t0.staged, staged := [] }))
    ∧ (t0.updStatus = 3 → t0.goAhead = true → s.rel.running = none → s.rel.follows = [] → s.fab.beat.gen = true →
        s.fab.beat.waiting = false → s.fab.beat.boundary = s.cnt.clk + s.cnt.withheld →
        domOn s 1 = true → ∃ t, exec (.updateActivation failed) s = .next t ∧ t.trust.updStatus = 4
          ∧ t.trust.running = t0.staged ∧ t.trust.restarting = true ∧ t.trust.goAhead = false ∧ t.trust.since = s.cnt.clk + s.cnt.withheld
          ∧ t.seq.lines = []
          ∧ t.sc = s.sc ∧ t.tiles = s.tiles ∧ t.elem = s.elem ∧ t.slots = s.slots)
    ∧ (s.rel.waiting = [] → exec .stewardRestartComplete s = .next { s with trust := { t0 with restarting := false } })
    ∧ (∃ t, exec .stewardRestartComplete s = .next t ∧ t.trust = { t0 with restarting := false } ∧ t.rel.waiting = []
        ∧ (s.rel.ring.length + s.rel.waiting.length ≤ 4096 → t.rel.ring = s.rel.ring ++ s.rel.waiting) ∧ t.seq = s.seq ∧ s.SameData t)
    ∧ (t0.boot = 3 → t0.restarting = true → t0.since = s.cnt.clk + s.cnt.withheld → t0.updStatus = 4 →
        ∃ t, exec (.updateAbort .bmc) s = .next t ∧ t.trust = t0 ∧ answer t 7 ∧ s.SameData t)
    ∧ (t0.updStatus = 4 → t0.restarting = false → t0.boot = 3 → ∃ t, exec .flashWriteComplete s = .next t
        ∧ t.trust = { t0 with updStatus := 5, flash := t0.running, flashBad := false, staged := [] } ∧ s.SameData t)
    ∧ (t0.boot = 3 → t0.restarting = false →
        (t0.updStatus = 3 → ∃ t, exec (.updateActivate .bmc) s = .next t ∧ t.trust = { t0 with goAhead := true } ∧ answer t 0
          ∧ s.SameData t)
        ∧ (t0.updStatus ≠ 3 → ∃ t, exec (.updateActivate .bmc) s = .next t ∧ t.trust = t0 ∧ answer t 0xA ∧ s.SameData t)
        ∧ (1 ≤ t0.updStatus → t0.updStatus ≤ 3 → ∃ t, exec (.updateAbort .bmc) s = .next t
            ∧ t.trust = { t0 with updStatus := 7, staged := [], goAhead := false, updBy := none } ∧ answer t 0 ∧ s.SameData t)
        ∧ (t0.updStatus = 5 → s.rel.peals = [] → ∃ t, exec (.commitSecurityVersions .bmc) s = .next t
            ∧ t.trust = { t0 with updStatus := 0 } ∧ answer t 0
            ∧ (∀ k ∈ [1, 2, 3], objGet t 0x5020 k = max (objGet s 0x5020 k) (svnOf t0.running k))
            ∧ objGet t 0x5020 4 = objGet s 0x5020 4 ∧ s.SameData t))

/-- Challenges and tokens: a read of 5030h:01, through the dictionary or JTAG, makes a fresh nonce the one valid challenge, and its expiry
voids it. A token is taken against its challenge and serial: a good debug token of target 1 opens level 1, a good revocation token
revokes its key set, a good lifecycle token moves the security state, each using the challenge up; one that is not good leaves its
result in 5000h:04 and changes nothing else, and one of another size is malformed, result 5 (16 R413, R414, R428, R429). Which tokens
verify rests on the free signature checks of Config. -/
def Spec.TokensTaken : Prop :=
  ∀ (s : State) (tok : List Byte),
    let nonce := slice (padTo 32 (Config.random 32 s.cnt.free)) 0 32
    let kind := numAt tok 4 1
    let target := numAt tok 5 1
    let good := 1 ≤ kind ∧ kind ≤ 3 ∧ slice tok 0 4 = asciiBytes "IQTK" ∧ zeroAt tok 6 2 = true ∧ zeroAt tok 56 8 = true
      ∧ s.trust.challenge = some (slice tok 24 32) ∧ slice tok 8 16 = serialBytes
      ∧ ∃ k, verifySigned s tok (tokenSigner (securityShown s) kind target) = .ok k ∧ tokenAllowed s kind target k = true
    let used := { s.trust with challenge := none, token := 1 }
    let turnedAway := fun (t : State) => s.SameData t ∧ ∃ r ∈ [2, 3, 4, 5], t.trust = { s.trust with token := r }
    s.trust.boot = 3 → s.trust.restarting = false →
      (∃ t, exec (.debugChallenge .bmc) s = .next t ∧ t.trust = { s.trust with challenge := some nonce }
        ∧ (∃ r, t.out = .answer .bmc 0 (nonce ++ serialBytes) :: r) ∧ s.SameData t)
      ∧ (∃ t, exec .jtagChallengeRead s = .next t ∧ t.trust = { s.trust with challenge := some nonce }
        ∧ t.out = .bytes 0x600 (nonce ++ serialBytes) :: s.out ∧ s.SameData t)
      ∧ exec .challengeExpiry s = .next { s with trust := { s.trust with challenge := none } }
      ∧ (tok.length = tokenSize →
          (∀ c ∈ [Instr.debugToken tok, .jtagTokenWrite tok], ∃ t, exec c s = .next t ∧ (¬good → turnedAway t)
            ∧ (good → kind = 1 → target = 1 → t.trust = { used with level := max s.trust.level 1 } ∧ s.SameData t))
          ∧ (∃ t, exec (.lifecycleToken tok) s = .next t ∧ (¬good → turnedAway t)
            ∧ (good → kind = 2 → target = 2 → s.trust.updStatus = 0 →
                t.trust = { used with
                  security := 2, udsFused := true, level := 0, halted := false
                  uds := if s.trust.security = 0 then drawUds s.cnt.free else s.trust.uds } ∧ s.SameData t))
          ∧ (∃ t, exec (.revocationToken tok) s = .next t ∧ (¬good → turnedAway t)
            ∧ (good → kind = 3 → storeGet false t.trust.revoked target = true ∧ t.trust.challenge = none ∧ t.trust.token = 1
                ∧ (∀ j, j ≠ target → storeGet false t.trust.revoked j = storeGet false s.trust.revoked j) ∧ s.SameData t)))
      ∧ (tok.length ≠ tokenSize → exec (.jtagTokenWrite tok) s = .next { s with trust := { s.trust with token := 5 } })

/-- Debug levels: a write of 0 to 5030h:02 and the JTAG relock close the level at once; a level above is taken in the manufacturing state
only. At the invasive level a debugger halts a running stream, which the host is told as a stop (01 R25), and reads and writes X registers;
X0 stays zero; a read of an X register is shifted out. Below that level neither happens. A halted stream that is stepped runs the
one clk that BUNDLE_ISSUE runs and stays halted unless the clk stops it; one whose level closes runs on (DESIGN CHOICE, log entry 106)
(16 R426 to R428). -/
def Spec.DebugAccess : Prop :=
  ∀ (s : State) (v : BitVec 8) (r : BitVec 5) (w : W64),
    let inv := s.trust.level = 2
    (s.trust.boot = 3 → s.trust.restarting = false →
        (∃ t, exec (.debugLevelRequest 0) s = .next t ∧ t.trust = { s.trust with level := 0, halted := false } ∧ s.SameData t)
        ∧ (v ≠ 0 → s.trust.security ≠ 0 → ∃ t, exec (.debugLevelRequest v) s = .next t ∧ t.trust = s.trust ∧ s.SameData t)
        ∧ (v = 1 ∨ v = 2 → s.trust.security = 0 → ∃ t, exec (.debugLevelRequest v) s = .next t ∧ t.trust.level = v.toNat
            ∧ s.SameData t))
    ∧ (s.trust.halted = false → exec .jtagRelock s = .next { s with trust := { s.trust with level := 0 } })
    ∧ (s.trust.halted = true → ∃ t, exec .jtagRelock s = .next t ∧ t.trust = { s.trust with level := 0, halted := false }
        ∧ .stream true s.seq.pc.toNat ∈ t.out ∧ t.seq = s.seq ∧ s.SameData t)
    ∧ (inv → s.seq.running = true → s.trust.halted = false → ∃ t, exec .debugHalt s = .next t
        ∧ t.trust = { s.trust with halted := true } ∧ .stream false 0 ∈ t.out ∧ t.seq = s.seq ∧ s.SameData t)
    ∧ (inv → s.seq.running = false ∨ s.trust.halted = true → exec .debugHalt s = .next s)
    ∧ (¬inv → exec .debugHalt s = .next s ∧ exec .debugSingleStep s = .next s
        ∧ exec (.jtagDebugAccess true (.xreg r) w) s = .next s ∧ exec (.jtagDebugAccess false (.xreg r) w) s = .next s)
    ∧ (inv → domOn s 6 = true → (∃ t, exec (.jtagDebugAccess true (.xreg r) w) s = .next t
          ∧ getX t r.toNat = (if r = 0 then 0 else w) ∧ (∀ q, q ≠ r.toNat → getX t q = getX s q) ∧ t.mem = s.mem ∧ t.seq = s.seq)
        ∧ exec (.jtagDebugAccess false (.xreg r) w) s
            = .next { s with out := .bytes 0x600 (leBytes 8 (getX s r.toNat).toNat) :: s.out })
    ∧ (inv → s.trust.halted = true → s.Idle → s.fab.scanned ≤ s.cnt.clk → ∃ t, exec .debugSingleStep s = .next t
        ∧ t.cnt.clk = s.cnt.clk + 1 ∧ t.seq.running = false ∧ t.trust = s.trust ∧ s.SameData t)
    ∧ (inv → s.trust.halted = true → ∃ u, exec .bundleIssue { s with trust := { s.trust with halted := false } } = .next u
        ∧ exec .debugSingleStep s
          = .next { u with trust := { u.trust with halted := decide (u.trust.level = 2) && (u.seq.running == s.seq.running) } })

/-- The four instructions of the port: IDCODE shifts the identity out; BYPASS is always reached, SAMPLE/PRELOAD and EXTEST only in the
manufacturing and decommissioned states, EXTEST with RESET_N held; one that is not reached behaves as BYPASS (16 R426, Table 16-7). -/
def Spec.JtagInstructions : Prop :=
  ∀ s : State,
    let holds := fun k => (Host.Outcome.next { s with trust := { s.trust with jtag := k } } : Host.Outcome State Fault Refusal)
    let full := (s.trust.security = 0 ∧ s.trust.boot ≠ 4) ∨ s.trust.security = 4
    exec .bypass s = holds 1
      ∧ exec .idcode s = .next { s with
          trust := { s.trust with jtag := 0 }
          out := .bytes 0x600 (leBytes 4 Config.idcode.toNat) :: s.out }
      ∧ (full → exec .samplePreload s = holds 2) ∧ (¬full → exec .samplePreload s = holds 1 ∧ exec .extest s = holds 1)
      ∧ (full → exec .extest s = holds (if s.board.resetLow then 3 else 1))

/-- Tokens, debug levels, debug access and the JTAG port (16 R413, R414, R426 to R429). -/
def Obligations.TokensAndDebug : Prop :=
  Spec.TokensTaken ∧ Spec.DebugAccess ∧ Spec.JtagInstructions

/-- Attestation is answered once the steward is up and while it does not restart: version and capabilities from the manufacturing state
on, the rest in development and production; a decommissioned device answers nothing. A response changes the state only by what it sends,
the transcript it enters and the signature it uses; CHALLENGE_AUTH is signed over the messages since GET_VERSION, with the HSS signature in its
OpaqueData, or flag bit 0 where none is left (16 R423 to R425, Table 16-7). The response bytes are the model's (PRESUMED, log entry 11). -/
def Spec.AttestationAnswers : Prop :=
  ∀ (s : State) (offers nonce chain : List Byte) (slot block : BitVec 8) (ofs len : Nat),
    let all := [Instr.getVersion, .getCapabilities, .negotiateAlgorithms offers, .getDigests, .getCertificate slot ofs len,
      .challenge slot nonce, .getMeasurements block nonce, .getCsr, .setCertificate slot chain]
    let sends := fun (c : Instr) (code : Nat) (data : List Byte) => exec c s = .next { s with out := .bytes (0x500 + code) data :: s.out }
    let keeps := fun (c : Instr) (code : Nat) (data vca b : List Byte) => exec c s = .next { s with
      trust := { s.trust with vca := vca, msgB := b }
      out := .bytes (0x500 + code) data :: s.out }
    let tr := s.trust
    let chosen := [offers.headD 0 &&& 0x80, (offers.drop 1).headD 0 &&& 0x02, 0x04]
    let code := chainBytes s
    (s.trust.security = 4 → ∀ c ∈ all, exec c s = .next s)
    ∧ (s.trust.boot = 3 → s.trust.restarting = false → s.trust.security ≠ 4 →
        keeps .getVersion 0x04 [0x13] (spdmBytes 0x84 [] ++ spdmBytes 0x04 [0x13]) []
        ∧ keeps .getCapabilities 0x61 [0x16] (tr.vca ++ spdmBytes 0xE1 [] ++ spdmBytes 0x61 [0x16]) [])
    ∧ (s.trust.boot = 3 → s.trust.restarting = false → s.trust.security = 0 →
        (∀ c ∈ [Instr.negotiateAlgorithms offers, .getDigests, .getCertificate slot ofs len, .challenge slot nonce,
          .getMeasurements block nonce], sends c 0x7F [7])
        ∧ sends .getCsr 0x6D Config.csr)
    ∧ (s.trust.boot = 3 → s.trust.restarting = false → s.trust.security = 1 ∨ s.trust.security = 2 →
        keeps (.negotiateAlgorithms offers) 0x63 chosen (tr.vca ++ spdmBytes 0xE3 offers ++ spdmBytes 0x63 chosen) []
        ∧ (s.trust.slot0Set = true →
            keeps .getDigests 0x01 (1 :: Config.sha384 code) tr.vca (tr.msgB ++ spdmBytes 0x81 [] ++ spdmBytes 0x01 (1 :: Config.sha384 code))
            ∧ (ofs ≤ code.length → keeps (.getCertificate 0 ofs len) 0x02 (slice code ofs len) tr.vca
                (tr.msgB ++ spdmBytes 0x82 (0 :: leBytes 2 ofs ++ leBytes 2 len) ++ spdmBytes 0x02 (slice code ofs len))))
        ∧ (s.trust.slot0Set = true → s.trust.aliasOk = true →
            let body := Config.sha384 code ++ Config.random 32 s.cnt.free
            let msgs := tr.vca ++ tr.msgB ++ spdmBytes 0x83 (0 :: nonce) ++ spdmBytes 0x03 body
            let k := aliasNow s
            let signs := fun (flag : Byte) (hss : List Byte → List Byte) =>
              let m := signedMessage "responder-challenge_auth signing" (msgs ++ opaqueData s flag [])
              opaqueData s flag (hss m) ++ Config.ecdsaSign (kdf k.cdi 2 (leBytes 4 k.gen)) m
            ∃ t sig, exec (.challenge 0 nonce) s = .next t
            ∧ t.out = .bytes 0x503 (body ++ sig) :: s.out
            ∧ (k.left = 0 → sig = signs 1 fun _ => [])
            ∧ (k.left ≠ 0 → sig = signs 0 fun m => Config.hssSign 2 (kdf k.cdi 3 (leBytes 4 k.gen)) (1048576 - k.left) m)
            ∧ t.cnt.free = s.cnt.free + 1 ∧ t.trust.msgB = [] ∧ s.SameData t)
        ∧ (s.trust.aliasOk = true → ∃ t sig, exec (.getMeasurements 0 nonce) s = .next t
            ∧ t.out = .bytes 0x560 (6 :: sig) :: s.out ∧ s.SameData t)
        ∧ (s.trust.security = 1 → exec (.setCertificate 0 chain) s = .next { s with
            trust := { s.trust with slot0Set := !chain.isEmpty, chain := chain }
            out := .bytes 0x56E [0] :: s.out }))

/-- Discovery: on the management path the device names its two message types and its one vendor-defined set; in the mailbox, the two
types of data object; any other index or selector is answered as unknown (17 R434, R449). -/
def Spec.DiscoveryAnswers : Prop :=
  ∀ (s : State) (sel index : BitVec 8),
    let sends := fun (c : Instr) (code : Nat) (data : List Byte) => exec c s = .next { s with out := .bytes code data :: s.out }
    (1 ≤ s.trust.boot → s.trust.restarting = false →
        sends .getMessageTypeSupport 0x705 [0, 2, 5, 0x7E]
        ∧ sends (.getVendorDefinedMessageSupport 0) 0x706 ([0, 0xFF, 0] ++ (leBytes 2 (objGet s 0x1018 1)).reverse ++ [0, 1])
        ∧ (sel ≠ 0 → sends (.getVendorDefinedMessageSupport sel) 0x706 [2]))
    ∧ (domOn s 29 = true → s.host.link = true → sends (.doeDiscovery 0) 0x800 [1, 0, 0, 1] ∧ sends (.doeDiscovery 1) 0x800 [1, 0, 1, 0]
        ∧ (2 ≤ index.toNat → sends (.doeDiscovery index) 0x800 [1, 0, 0xFF, 0]))

/-- Attestation and discovery (16 R424, R425, 17 R434, R449). -/
def Obligations.Attestation : Prop :=
  Spec.AttestationAnswers ∧ Spec.DiscoveryAnswers

/-! ### The object dictionary (17) -/

/-- What a request that is answered at once leaves behind: it is counted, and its answer goes out (17 R450). -/
def Spec.answersWith (s : State) (st : Nat) (data : List Byte) : State :=
  { countRequest s st with out := .answer .bmc st data :: s.out }

/-- READ answers a number with its value, little-endian, and fails with 02h for no object and 03h for no right to read; DESCRIBE gives type,
rights, size, default and range in 32 bytes; VIEW gives the two views and the value in force; a steward that restarts answers 01h, and
one that is not up answers nothing (17 R447, R450 to R452, R456). -/
def Spec.ReadsAnswered : Prop :=
  ∀ (s : State) (cls : Cls) (idx : BitVec 16) (sub : BitVec 8) (r : ObjRow),
    let i := idx.toNat
    let j := sub.toNat
    let row := objRow i j
    let answers := fun (c : Instr) (st : Nat) (data : List Byte) => exec c s = .next (Spec.answersWith s st data)
    (s.trust.boot ≠ 3 → s.trust.boot ≠ 4 → ∀ c ∈ [Instr.readObject cls idx sub, .describeObject cls idx sub,
        .viewObject cls idx sub, .closeSession cls], exec c s = .next s)
    ∧ (s.trust.boot = 3 → stewardBusy s = true → answers (.readObject .bmc idx sub) 1 [])
    ∧ (s.trust.boot = 3 → s.trust.restarting = false →
        (row = none → answers (.readObject .bmc idx sub) 2 [] ∧ answers (.describeObject .bmc idx sub) 2 [])
        ∧ (row = some r → mayRead (rightNow s r .bmc) = false → i ≠ 0x4101 → answers (.readObject .bmc idx sub) 3 [])
        ∧ (row = some r → mayRead (rightNow s r .bmc) = true → isScalar r.ty = true → readsFree i j = false →
            answers (.readObject .bmc idx sub) 0 (leBytes (typeSize r.ty) ((derived s i j).getD (objGet s i j))))
        ∧ (row = some r → ∃ data, answers (.describeObject .bmc idx sub) 0 data ∧ data.length = 32
            ∧ data.head? = some (BitVec.ofNat 8 (typeCode r.ty)) ∧ (data.drop 4).take 4 = leBytes 4 (typeSize r.ty))
        ∧ answers (.viewObject .bmc 0x2200 1) 0 ([mgmtView s 0x2200 1, dataView s 0x2200 1,
            min (mgmtView s 0x2200 1) (dataView s 0x2200 1)].map fun v => BitVec.ofNat 8 v)
        ∧ answers (.viewObject .bmc 0x3000 1) 0 ([objGet s 0x3000 1, objGet s 0x3000 2,
            max (objGet s 0x3000 1) (objGet s 0x3000 2)].map fun v => BitVec.ofNat 8 v))

/-- WRITE: the UTC object takes any value; object 2010h:01 takes 1 to 128 with the stream stopped, answers 05h outside its range and
06h while the stream runs; a read-only object answers 03h. A refused write changes no object (17 R447, R451). -/
def Spec.WritesAnswered : Prop :=
  ∀ (s : State) (v : W64) (b : BitVec 8),
    let kept := fun (t : State) (st idx sub : Nat) => s.SameData t ∧ objGet t idx sub = objGet s idx sub
      ∧ ∃ r, t.out = .answer .bmc st [] :: r
    s.trust.boot = 3 → s.trust.restarting = false →
      (∃ t, exec (.writeObject .bmc 0x4020 1 (leBytes 8 v.toNat)) s = .next t ∧ objGet t 0x4020 1 = v.toNat ∧ s.SameData t
        ∧ ∃ r, t.out = .answer .bmc 0 [] :: r)
      ∧ (s.seq.running = false → 1 ≤ b.toNat → b.toNat ≤ 128 → ∃ t, exec (.writeObject .bmc 0x2010 1 [b]) s = .next t
        ∧ objGet t 0x2010 1 = b.toNat ∧ s.SameData t)
      ∧ (s.seq.running = false → b.toNat = 0 ∨ 128 < b.toNat → ∃ t, exec (.writeObject .bmc 0x2010 1 [b]) s = .next t
        ∧ kept t 5 0x2010 1)
      ∧ (s.seq.running = true → ∃ t, exec (.writeObject .bmc 0x2010 1 [b]) s = .next t ∧ kept t 6 0x2010 1)
      ∧ (∃ t, exec (.writeObject .bmc 0x3000 3 [b]) s = .next t ∧ kept t 3 0x3000 3)

/-- Sessions of the BMC: OPEN of a readable domain holds its bytes; SEGMENT takes the next bytes in order, and of a write session keeps
them; CLOSE applies a write session's bytes, but for the reserved bits of a table, and ends it; ABORT of an open session answers 08h, and 07h with none; a session
without a segment times out (17 R453, R455). -/
def Spec.SessionsRun : Prop :=
  ∀ (s : State) (tag : BitVec 8) (idx : BitVec 16) (sub : BitVec 8) (r : ObjRow) (x : Session) (len : Nat) (data : List Byte),
    let one := fun (t : State) (y : Session) (st : Nat) (d : List Byte) => t.dict.sessions = [(1, y)] ∧ s.SameData t
      ∧ ∃ o, t.out = .answer .bmc st d :: o
    let none' := fun (t : State) (st : Nat) => t.dict.sessions = [] ∧ s.SameData t ∧ ∃ o, t.out = .answer .bmc st [] :: o
    s.trust.boot = 3 → s.trust.restarting = false →
      (s.dict.sessions = [] → objRow idx.toNat sub.toNat = some r → isDomain r.ty = true → mayRead (rightNow s r .bmc) = true →
        (∀ k, (slotGet s k).marks = []) → (∀ e, (cueGet s e).marks = []) →
        ∃ t, exec (.openSession .bmc tag idx sub false) s = .next t
          ∧ one t ⟨tag, idx, sub, false, 0, bytesRead s .bmc idx.toNat sub.toNat (typeSize r.ty)⟩ 0 [])
      ∧ (s.dict.sessions = [(1, x)] → len ≤ 1008 →
          (x.write = false → len % 16 = 0 → ∃ t, exec (.segment .bmc x.offset len []) s = .next t
            ∧ one t { x with offset := x.offset + (slice x.bytes x.offset len).length } 0 (slice x.bytes x.offset len))
          ∧ (x.write = true → objRow x.idx.toNat x.sub.toNat = some r → x.offset % 16 = 0 → x.offset + data.length ≤ typeSize r.ty →
              data.length = len → ∃ t, exec (.segment .bmc x.offset len data) s = .next t
                ∧ one t { x with offset := x.offset + len, bytes := x.bytes ++ data } 0 [])
          ∧ (∀ k, k ≠ x.offset → ∃ t, exec (.segment .bmc k len data) s = .next t ∧ one t x 9 []))
      ∧ (s.dict.sessions = [] → ∃ t, exec (.segment .bmc 0 len data) s = .next t ∧ none' t 9)
      ∧ (s.dict.sessions = [(1, x)] → x.write = false → ∃ t, exec (.closeSession .bmc) s = .next t ∧ none' t 0)
      ∧ (s.dict.sessions = [(1, x)] → x.write = true → x.idx = 0x2309 → x.sub = 0 → s.seq.running = false →
          x.bytes.length ≤ 2048 → ∃ t, exec (.closeSession .bmc) s = .next t ∧ none' t 0
            ∧ (storeGet [] t.dict.blobs (objKey 0x2309 0)).take x.bytes.length
                = x.bytes.zipIdx.map fun b => b.1 &&& (if b.2 % 8 = 7 then 0 else if b.2 % 8 = 6 then 7 else 255))
      ∧ (s.dict.sessions = [] → ∃ t, exec (.abortRequest .bmc tag) s = .next t ∧ none' t 7)
      ∧ (s.dict.sessions = [(1, x)] → x.tag = tag → x.write = true → x.idx ≠ 0x1F50 →
          (∃ t, exec (.abortRequest .bmc tag) s = .next t ∧ none' t 8)
          ∧ exec (.sessionTimeout .bmc) s = .next { s with dict := { s.dict with sessions := [] } })

/-- Writes with an effect of their own, by the BMC with the stream stopped and no mismatch in force: each sets its object; the power request
and the two memory enables set the management view; PCIe, laser and port enables leave the domains that the enables ask for; a
flash port that is disabled forgets its module and its drain; a new beat period is announced for 1,024 beats later; the stored SEQ of a
staged image commits it; an owner key set is written once (10 R249, 11 R273, R277, R295, 14 R379, 15 R392, R395, 16 R414, 17 R434, R456,
R457). -/
def Spec.EnableWrites : Prop :=
  ∀ (s : State) (b : BitVec 8) (port : BitVec 3) (n : BitVec 16) (v : W64) (d : Drain) (ids : List (Nat × ModuleId)),
    let set := fun (c : Instr) (idx sub val : Nat) => ∃ t, exec c s = .next t ∧ objGet t idx sub = val ∧ s.SameData t
    let follows := fun (c : Instr) (idx sub : Nat) => ∃ t, exec c s = .next t ∧ objGet t idx sub = b.toNat
      ∧ t.power.domains = domainsFor t t.power.state ∧ t.power.state = s.power.state ∧ s.SameData t
    s.trust.boot = 3 → s.trust.restarting = false → s.seq.running = false → s.dict.mismatch = [] →
      (b.toNat ≤ 3 → ∃ t, exec (.requestedStateWrite .bmc b) s = .next t ∧ objGet t 0x3000 1 = b.toNat
        ∧ t.power.state = s.power.state ∧ t.power.domains = s.power.domains ∧ s.SameData t)
      ∧ (b.toNat ≤ 1 → follows (.pcieEnableWrite .bmc b) 0x2100 1)
      ∧ (b.toNat ≤ 15 → follows (.laserEnableWrite .bmc b ids) 0x2310 1)
      ∧ (b.toNat ≤ 1 → set (.clayEnableWrite .bmc b) 0x2200 1 (min b.toNat (dataView s 0x2200 1))
          ∧ set (.marlEnableWrite .bmc b ids) 0x2200 2 (min b.toNat (dataView s 0x2200 2))
          ∧ set (.portModeWrite .bmc port b ids) 0x2301 (port.toNat + 1) b.toNat
          ∧ set (.flashPortEnableWrite .bmc b) 0x2100 8 b.toNat)
      ∧ (∃ t, exec (.flashPortEnableWrite .bmc 0) s = .next t ∧ moduleOf t 0x20 = none ∧ t.ckpt.drain = none)
      ∧ (250 ≤ n.toNat → n.toNat ≤ 16000 → ∃ t, exec (.beatPeriodWrite .bmc n) s = .next t ∧ objGet t 0x2320 1 = n.toNat
          ∧ (s.fab.beat.gen = true → s.fab.beat.st = 1 → t.fab.beat.switchAt = some (s.fab.beat.count + 1024, n.toNat))
          ∧ s.SameData t)
      ∧ (s.ckpt.drain = some d → d.stratum = 3 → d.seq = v → s.marks = [] →
          ∃ t, exec (.stratum3StoredSeqWrite .bmc v) s = .next t ∧ t.ckpt.drain = none ∧ objGet t 0x4111 2 = v.toNat
            ∧ objGet t 0x4111 3 = 0 ∧ storeGet 0 t.ckpt.newest 3 = 1 ∧ objGet t 0x4110 3 = d.step)

/-- A peal package and an owner key set: a malformed package is refused with status 0Ah and installs nothing; a well-formed one that
verifies, has a security version of at least the counter and finds room is installed under its number; the hashes of an owner key set
stand in it afterwards if it was empty, and are refused with 03h if it was not (13 R365, 16 R414). Which packages verify rests on the free
signature checks of Config. -/
def Spec.PackagesInstalled : Prop :=
  ∀ (s : State) (pkg hashes : List Byte) (set : BitVec 8),
    let num : BitVec 16 := BitVec.ofNat 16 (numAt pkg 4 2)
    let rest := s.rel.peals.filter fun q => decide (q.num ≠ num)
    let good := pealFormOk pkg = true ∧ (∃ k, verifySigned s pkg (fun _ => true) = .ok k)
      ∧ versionCounter s 4 ≤ numAt pkg 8 4 ∧ rest.length < 64
    s.trust.boot = 3 → s.trust.restarting = false →
      (∃ t, exec (.pealInstall .bmc pkg) s = .next t ∧ s.SameData t
        ∧ (pealFormOk pkg = false → t.rel = s.rel ∧ ∃ r, t.out = .answer .bmc 0xA [] :: r)
        ∧ (good → ∃ p, t.rel.peals = rest ++ [p] ∧ p.num = num ∧ ∃ r, t.out = .answer .bmc 0 [] :: r))
      ∧ (set = 4 ∨ set = 5 → hashes.length = 96 →
          (storeGet [] s.trust.ownerKeys set.toNat = [] → ∃ t, exec (.ownerKeySetProvision .bmc set hashes) s = .next t
            ∧ storeGet [] t.trust.ownerKeys set.toNat = hashes ∧ s.SameData t)
          ∧ (storeGet [] s.trust.ownerKeys set.toNat ≠ [] → ∃ t, exec (.ownerKeySetProvision .bmc set hashes) s = .next t
            ∧ t.trust = s.trust ∧ (∃ r, t.out = .answer .bmc 3 [] :: r) ∧ s.SameData t))

/-- The object dictionary: reads, writes, sessions, the writes with an effect of their own, and installed packages (17 R447 to R456). -/
def Obligations.Dictionary : Prop :=
  Spec.ReadsAnswered ∧ Spec.WritesAnswered ∧ Spec.SessionsRun ∧ Spec.EnableWrites ∧ Spec.PackagesInstalled

/-! ### The host port (17) -/

/-- The cue window: HQEN writes only the enables of the queues that the host has; a staged word waits under its entry; a write of W0 with V
set commits the entry with the staged words and OWN 01b, if its queue is the host's; an entry from 960 on is refused and counted. HEVT is
cleared by writing ones (17 R443, R444, Table 17-4). -/
def Spec.HostCues : Prop :=
  ∀ (s : State) (e : BitVec 10) (w : BitVec 2) (v : W64) (staged : Store W64),
    let m : W64 := BitVec.ofNat 64 (objGet s 0x2100 7)
    let old := cueGet s e.toNat
    let new : Cue := ⟨v, storeGet old.w1 staged 1, storeGet old.w2 staged 2, storeGet old.w3 staged 3, false, true, []⟩
    domOn s 29 = true → s.host.link = true → s.host.pmcsr = 0 →
      (∃ t, exec (.hqenWrite v) s = .next t ∧ t.ctl = { s.ctl with cqen := (s.ctl.cqen &&& ~~~m) ||| (v &&& m) } ∧ t.seq = s.seq
        ∧ s.SameData t)
      ∧ (∃ t, exec (.controlWindowWrite 0 v) s = .next t ∧ t.host = { s.host with hevt := s.host.hevt &&& ~~~v } ∧ t.seq = s.seq
        ∧ s.SameData t)
      ∧ (w ≠ 0 → hostCuesOn s = false → ∃ t, exec (.hostCueStageWrite e w v) s = .next t ∧ t.fab = s.fab
        ∧ objGet t 0x7440 5 = (objGet s 0x7440 5 + 1) % 2 ^ 64 ∧ s.SameData t)
      ∧ (w ≠ 0 → hostCuesOn s = true → s.fab.hostStage = none → ∃ t, exec (.hostCueStageWrite e w v) s = .next t
        ∧ t.fab = { s.fab with hostStage := some (e, [(w.toNat, v)]) } ∧ s.SameData t)
      ∧ (hostCuesOn s = true → e.toNat < 960 → (objGet s 0x2100 7).testBit (field v 59 56) = true → cueV new = true →
          cueBad new = false → old.marks = [] → s.fab.hostStage = some (e, staged) → ∃ t, exec (.hostCueW0Write e v) s = .next t
            ∧ cueGet t e.toNat = { new with w0 := cueState v 1 1 false 0 } ∧ t.fab.hostStage = none
            ∧ t.host.hcqres.toNat = e.toNat + 2 ^ 18 ∧ (∀ k, k ≠ e.toNat → cueGet t k = cueGet s k) ∧ s.SameData t)
      ∧ (960 ≤ e.toNat → ∃ t, exec (.hostCueW0Write e v) s = .next t ∧ t.fab = s.fab
            ∧ t.host.hcqres.toNat = e.toNat + 3 * 2 ^ 16 + 2 ^ 18
            ∧ objGet t 0x7440 6 = (objGet s 0x7440 6 + 1) % 2 ^ 64 ∧ s.SameData t)

/-- A host offset that reaches memory: the scratch part of BAR2, or BAR4 at HWOFS, up to the last address that has a target (17 R438,
Table 17-5). -/
def Spec.HostReaches (s : State) (bar : BitVec 3) (o pa : Nat) : Prop :=
  (bar = 2 ∧ 0x40000000 ≤ o ∧ o < 0xE0000000 ∧ pa = scratchBase + (o - 0x40000000))
    ∨ (bar = 4 ∧ o < 2 ^ s.host.bar4k ∧ pa = s.host.hwofs.toNat + o ∧ pa ≤ 0x3FFFFFFFFFF)

/-- Host memory, through BAR2 and BAR4: a read allowed by 2100h:04 completes with the bytes of memory, and changes nothing but the cache
that it passes through (log entry 95); one that is not allowed completes with Completer Abort and is counted; an allowed write puts its
bytes, where no other agent has written in the clk (10 R252), and changes no other byte; one that is not allowed is discarded, counted and
logged under AER, at PCIe's bit (PRESUMED, log entry 118) (17 R438 to R441). -/
def Spec.HostMemory : Prop :=
  ∀ (s : State) (bar : BitVec 3) (o pa len : Nat) (bs : List Byte),
    let inside := fun n => ∀ w ∈ wordsOf pa n, hasTarget s (16 * w) = true ∧ memoryOn s (16 * w) = true ∧ inReserved (16 * w) = false
    domOn s 29 = true → s.host.link = true → s.host.pmcsr = 0 → s.marks = [] → Spec.HostReaches s bar o pa →
      (inside len → 1 ≤ objGet s 0x2100 4 → exec (.hostMemoryRead bar o len) s
          = .next { useCache s pa len false 0 with out := .bytes 0x400 (peekBytes s pa len) :: s.out })
      ∧ (inside len → objGet s 0x2100 4 = 0 → ∃ t, exec (.hostMemoryRead bar o len) s = .next t
          ∧ t.out = .bytes 0x402 [] :: s.out ∧ objGet t 0x7440 2 = (objGet s 0x7440 2 + 1) % 2 ^ 64 ∧ s.SameData t)
      ∧ (inside bs.length → 2 ≤ objGet s 0x2100 4 → s.cnt.writes = [] → ∃ t, exec (.hostMemoryWrite bar o bs) s = .next t
          ∧ (∀ i < bs.length, memGet t (pa + i) = bs.getD i 0)
          ∧ (∀ a, a < pa ∨ pa + bs.length ≤ a → memGet t a = memGet s a) ∧ t.marks = []
          ∧ t.sc = s.sc ∧ t.tiles = s.tiles ∧ t.elem = s.elem ∧ t.slots = s.slots ∧ t.seq = s.seq)
      ∧ (inside bs.length → objGet s 0x2100 4 < 2 → ∃ t, exec (.hostMemoryWrite bar o bs) s = .next t
          ∧ objGet t 0x7440 2 = (objGet s 0x7440 2 + 1) % 2 ^ 64 ∧ t.host = { s.host with aer := s.host.aer ||| 0x8000 }
          ∧ s.SameData t)

/-- A host read that meets poison, or, in poison mode, a word that is uncorrectable and so becomes poison: every such word comes back as
zeros and every other word as its data, the completion has EP set (code 403h), the read is counted in 7440h:03, and it is not a
consumption: 7410h:03 and the stream stay, and where no other word is in error all data stays (17 R441; 13 R344, R348). -/
def Obligations.PoisonedHostRead : Prop :=
  ∀ (s : State) (bar : BitVec 3) (o pa len : Nat),
    let ws := wordsOf pa len
    let bad := fun w => badMark (markGet s w)
    domOn s 29 = true → s.host.link = true → s.host.pmcsr = 0 → 1 ≤ objGet s 0x2100 4 → Spec.HostReaches s bar o pa →
    (∀ w ∈ ws, hasTarget s (16 * w) = true ∧ memoryOn s (16 * w) = true ∧ inReserved (16 * w) = false) →
    (∃ w ∈ ws, bad w = true) → (objGet s 0x4000 1 = 0 ∨ ∀ w ∈ ws, bad w = true → markGet s w = .poison) →
      ∃ t rest, exec (.hostMemoryRead bar o len) s = .next t
        ∧ t.out = .bytes 0x403 ((List.range len).map fun i => if bad ((pa + i) / 16) then 0 else memGet s (pa + i)) :: rest
        ∧ objGet t 0x7440 3 = (objGet s 0x7440 3 + 1) % 2 ^ 64 ∧ objGet t 0x7410 3 = objGet s 0x7410 3 ∧ t.seq = s.seq
        ∧ t.sc = s.sc ∧ t.tiles = s.tiles ∧ t.elem = s.elem ∧ t.slots = s.slots
        ∧ ((∀ w ∈ ws, markGet s w = .good ∨ markGet s w = .poison) → t.mem = s.mem ∧ t.marks = s.marks ∧ rest = s.out)

/-- The link trains to the lesser of the partner's and the object's rate and width; a function level reset puts the host port at reset and
is counted; PMCSR takes D0 and D3hot as the host's request and ignores the other values; configuration writes set their field; a READ of
object 1000h:00 that is posted through the buffer is answered there (17 R433, R435, R437, R442, R449). -/
def Spec.HostLink : Prop :=
  ∀ (s : State) (rate width : Nat) (v : BitVec 2) (x : W32),
    let h := s.host
    let msg : List Byte := [1, 1, 0, 0, 0, 0x10, 0, 0, 0, 0, 0, 0, 0, 0, 0, 0]
    domOn s 29 = true →
      (h.perstHigh = true → h.link = false → 1 ≤ rate → 1 ≤ width → 1 ≤ objGet s 0x2100 2 → 1 ≤ objGet s 0x2100 3 →
        ∃ flit, (6 ≤ min rate (objGet s 0x2100 2) → flit = true)
          ∧ exec (.pcieLinkTrained rate width) s = .next { s with
            cnt := { s.cnt with free := s.cnt.free + 1 }
            host := { h with link := true, rate := min rate (objGet s 0x2100 2), width := min width (objGet s 0x2100 3), flit := flit } })
      ∧ (h.link = true →
          (objGet s 0x3000 2 = 0 → s.dict.sessions = [] → ∃ t, exec .functionLevelReset s = .next t
            ∧ t.host = { resetHost with perstHigh := h.perstHigh, link := true, rate := h.rate, width := h.width, flit := h.flit }
            ∧ t.fab.hostStage = none ∧ objGet t 0x7440 0xB = (objGet s 0x7440 0xB + 1) % 2 ^ 64 ∧ s.SameData t)
          ∧ (v = 1 ∨ v = 2 → exec (.pmcsrWrite v) s = .next s)
          ∧ (v = 0 ∨ v = 3 → ∃ t, exec (.pmcsrWrite v) s = .next t ∧ t.host.pmcsr = v
              ∧ objGet t 0x3000 2 = (if v = 0 then 0 else 2) ∧ s.SameData t)
          ∧ (∃ t, exec (.configurationWrite .busMaster x) s = .next t ∧ t.host.busMaster = x.getLsbD 0 ∧ t.host.msixOn = h.msixOn
              ∧ s.SameData t)
          ∧ (∃ t, exec (.configurationWrite .msixEnable x) s = .next t ∧ t.host.msixOn = x.getLsbD 0
              ∧ t.host.busMaster = h.busMaster ∧ s.SameData t)
          ∧ (30 ≤ x.toNat → x.toNat ≤ 42 →
              exec (.configurationWrite .bar4Size x) s = .next { s with host := { h with bar4k := x.toNat } })
          ∧ exec (.configurationWrite .aerStatus x) s = .next { s with host := { h with aer := h.aer &&& ~~~x } }
          ∧ (h.pmcsr = 0 → s.trust.boot = 3 → s.trust.restarting = false → (∀ i < 16, storeGet 0 h.reqBuf i = msg.getD i 0) →
              ∃ t, exec (.dpost 16) s = .next t ∧ .answer .host 0 (leBytes 4 (objGet s 0x1000 0)) ∈ t.out
                ∧ t.host.dresp.toNat = 20 + 2 ^ 15 ∧ (t.host.respBuf.drop 16) = leBytes 4 (objGet s 0x1000 0)
                ∧ objGet t 0x7440 7 = (objGet s 0x7440 7 + 1) % 2 ^ 64 ∧ s.SameData t))

/-! ### Attached modules (17 R457 to R459) -/

/-- The flash module is noted at its first link-up, accepted or refused with its reason, and a port that does not train refuses it with
reason 0Ah; a refusal is counted and filed as 0040h. A module that goes is absent, its tier's domain down until
enabled again; a code not attached changes nothing (17 R457 to R459). -/
def Spec.ModulesComeAndGo : Prop :=
  ∀ (s : State) (id : ModuleId) (code : BitVec 8),
    let first := objGet s 0x2100 8 = 1 ∧ domOn s 29 = true ∧ moduleOf s 0x20 = none
    let refused := fun (t : State) (why : Nat) => objGet t 0x7440 0xA = (objGet s 0x7440 0xA + 1) % 2 ^ 64
      ∧ (Spec.recordsFit s → ∃ x, Spec.lastRecord t = some x ∧ x.type = 0x40 ∧ x.ucls = 0xE ∧ x.unit = 0x20 ∧ x.detail.toNat = why)
    (first → ∃ t, exec (.flashPortLinkUp id) s = .next t ∧ moduleOf t 0x20 = some (id, nvmeReason id) ∧ s.SameData t
        ∧ (nvmeReason id ≠ 0 → refused t (nvmeReason id)) ∧ (nvmeReason id = 0 → t.rel = s.rel))
    ∧ (first → ∃ t, exec .flashPortTrainingTimeout s = .next t ∧ moduleOf t 0x20 = some (noIdentity, 0xA) ∧ refused t 0xA
        ∧ s.SameData t)
    ∧ (¬first → exec (.flashPortLinkUp id) s = .next s ∧ exec .flashPortTrainingTimeout s = .next s)
    ∧ (moduleOf s code.toNat = none → exec (.modulePresenceLoss code) s = .next s)
    ∧ (moduleOf s 0x20 ≠ none → domOn s 29 = true → ∃ t, exec (.modulePresenceLoss 0x20) s = .next t
        ∧ moduleOf t 0x20 = none ∧ t.ckpt.drain = none ∧ t.power = s.power ∧ s.SameData t)
    ∧ (moduleOf s code.toNat ≠ none → code.toNat < 4 → domOn s 24 = true → ∃ t, exec (.modulePresenceLoss code) s = .next t
        ∧ moduleOf t code.toNat = none ∧ objGet t 0x2202 (5 + code.toNat) = 0 ∧ t.power.down.getLsbD 24 = true
        ∧ t.power.domains = domainsFor t t.power.state ∧ s.SameData t)

/-- The host port: cue window, memory window, link and configuration, and attached modules (17 R433 to R445, R449, R457 to R459). -/
def Obligations.HostPort : Prop :=
  Spec.HostCues ∧ Spec.HostMemory ∧ Spec.HostLink ∧ Spec.ModulesComeAndGo
end

