-- ==== Sys2Proof/Laws/State.lean ====
section
/-! SUPPORT. What each lift of State changes, field by field: true by rfl, so that no proof unfolds a record update. -/

namespace Sys2Proof.Machine

/-! ### State.onSeq -/

@[simp] theorem State.onSeq_pending (s : State) (f : Seq → Seq) : (s.onSeq f).pending = s.pending := rfl
@[simp] theorem State.onSeq_out (s : State) (f : Seq → Seq) : (s.onSeq f).out = s.out := rfl
@[simp] theorem State.onSeq_seq (s : State) (f : Seq → Seq) : (s.onSeq f).seq = f s.seq := rfl
@[simp] theorem State.onSeq_cnt (s : State) (f : Seq → Seq) : (s.onSeq f).cnt = s.cnt := rfl
@[simp] theorem State.onSeq_ctl (s : State) (f : Seq → Seq) : (s.onSeq f).ctl = s.ctl := rfl
@[simp] theorem State.onSeq_sc (s : State) (f : Seq → Seq) : (s.onSeq f).sc = s.sc := rfl
@[simp] theorem State.onSeq_work (s : State) (f : Seq → Seq) : (s.onSeq f).work = s.work := rfl
@[simp] theorem State.onSeq_uses (s : State) (f : Seq → Seq) : (s.onSeq f).uses = s.uses := rfl
@[simp] theorem State.onSeq_mem (s : State) (f : Seq → Seq) : (s.onSeq f).mem = s.mem := rfl
@[simp] theorem State.onSeq_marks (s : State) (f : Seq → Seq) : (s.onSeq f).marks = s.marks := rfl
@[simp] theorem State.onSeq_cache (s : State) (f : Seq → Seq) : (s.onSeq f).cache = s.cache := rfl
@[simp] theorem State.onSeq_tiles (s : State) (f : Seq → Seq) : (s.onSeq f).tiles = s.tiles := rfl
@[simp] theorem State.onSeq_slots (s : State) (f : Seq → Seq) : (s.onSeq f).slots = s.slots := rfl
@[simp] theorem State.onSeq_elem (s : State) (f : Seq → Seq) : (s.onSeq f).elem = s.elem := rfl
@[simp] theorem State.onSeq_dma (s : State) (f : Seq → Seq) : (s.onSeq f).dma = s.dma := rfl
@[simp] theorem State.onSeq_fab (s : State) (f : Seq → Seq) : (s.onSeq f).fab = s.fab := rfl
@[simp] theorem State.onSeq_coll (s : State) (f : Seq → Seq) : (s.onSeq f).coll = s.coll := rfl
@[simp] theorem State.onSeq_rel (s : State) (f : Seq → Seq) : (s.onSeq f).rel = s.rel := rfl
@[simp] theorem State.onSeq_ckpt (s : State) (f : Seq → Seq) : (s.onSeq f).ckpt = s.ckpt := rfl
@[simp] theorem State.onSeq_power (s : State) (f : Seq → Seq) : (s.onSeq f).power = s.power := rfl
@[simp] theorem State.onSeq_trust (s : State) (f : Seq → Seq) : (s.onSeq f).trust = s.trust := rfl
@[simp] theorem State.onSeq_host (s : State) (f : Seq → Seq) : (s.onSeq f).host = s.host := rfl
@[simp] theorem State.onSeq_dict (s : State) (f : Seq → Seq) : (s.onSeq f).dict = s.dict := rfl
@[simp] theorem State.onSeq_board (s : State) (f : Seq → Seq) : (s.onSeq f).board = s.board := rfl

/-! ### State.onCnt -/

@[simp] theorem State.onCnt_pending (s : State) (f : Count → Count) : (s.onCnt f).pending = s.pending := rfl
@[simp] theorem State.onCnt_out (s : State) (f : Count → Count) : (s.onCnt f).out = s.out := rfl
@[simp] theorem State.onCnt_seq (s : State) (f : Count → Count) : (s.onCnt f).seq = s.seq := rfl
@[simp] theorem State.onCnt_cnt (s : State) (f : Count → Count) : (s.onCnt f).cnt = f s.cnt := rfl
@[simp] theorem State.onCnt_ctl (s : State) (f : Count → Count) : (s.onCnt f).ctl = s.ctl := rfl
@[simp] theorem State.onCnt_sc (s : State) (f : Count → Count) : (s.onCnt f).sc = s.sc := rfl
@[simp] theorem State.onCnt_work (s : State) (f : Count → Count) : (s.onCnt f).work = s.work := rfl
@[simp] theorem State.onCnt_uses (s : State) (f : Count → Count) : (s.onCnt f).uses = s.uses := rfl
@[simp] theorem State.onCnt_mem (s : State) (f : Count → Count) : (s.onCnt f).mem = s.mem := rfl
@[simp] theorem State.onCnt_marks (s : State) (f : Count → Count) : (s.onCnt f).marks = s.marks := rfl
@[simp] theorem State.onCnt_cache (s : State) (f : Count → Count) : (s.onCnt f).cache = s.cache := rfl
@[simp] theorem State.onCnt_tiles (s : State) (f : Count → Count) : (s.onCnt f).tiles = s.tiles := rfl
@[simp] theorem State.onCnt_slots (s : State) (f : Count → Count) : (s.onCnt f).slots = s.slots := rfl
@[simp] theorem State.onCnt_elem (s : State) (f : Count → Count) : (s.onCnt f).elem = s.elem := rfl
@[simp] theorem State.onCnt_dma (s : State) (f : Count → Count) : (s.onCnt f).dma = s.dma := rfl
@[simp] theorem State.onCnt_fab (s : State) (f : Count → Count) : (s.onCnt f).fab = s.fab := rfl
@[simp] theorem State.onCnt_coll (s : State) (f : Count → Count) : (s.onCnt f).coll = s.coll := rfl
@[simp] theorem State.onCnt_rel (s : State) (f : Count → Count) : (s.onCnt f).rel = s.rel := rfl
@[simp] theorem State.onCnt_ckpt (s : State) (f : Count → Count) : (s.onCnt f).ckpt = s.ckpt := rfl
@[simp] theorem State.onCnt_power (s : State) (f : Count → Count) : (s.onCnt f).power = s.power := rfl
@[simp] theorem State.onCnt_trust (s : State) (f : Count → Count) : (s.onCnt f).trust = s.trust := rfl
@[simp] theorem State.onCnt_host (s : State) (f : Count → Count) : (s.onCnt f).host = s.host := rfl
@[simp] theorem State.onCnt_dict (s : State) (f : Count → Count) : (s.onCnt f).dict = s.dict := rfl
@[simp] theorem State.onCnt_board (s : State) (f : Count → Count) : (s.onCnt f).board = s.board := rfl

/-! ### State.onCtl -/

@[simp] theorem State.onCtl_pending (s : State) (f : Ctl → Ctl) : (s.onCtl f).pending = s.pending := rfl
@[simp] theorem State.onCtl_out (s : State) (f : Ctl → Ctl) : (s.onCtl f).out = s.out := rfl
@[simp] theorem State.onCtl_seq (s : State) (f : Ctl → Ctl) : (s.onCtl f).seq = s.seq := rfl
@[simp] theorem State.onCtl_cnt (s : State) (f : Ctl → Ctl) : (s.onCtl f).cnt = s.cnt := rfl
@[simp] theorem State.onCtl_ctl (s : State) (f : Ctl → Ctl) : (s.onCtl f).ctl = f s.ctl := rfl
@[simp] theorem State.onCtl_sc (s : State) (f : Ctl → Ctl) : (s.onCtl f).sc = s.sc := rfl
@[simp] theorem State.onCtl_work (s : State) (f : Ctl → Ctl) : (s.onCtl f).work = s.work := rfl
@[simp] theorem State.onCtl_uses (s : State) (f : Ctl → Ctl) : (s.onCtl f).uses = s.uses := rfl
@[simp] theorem State.onCtl_mem (s : State) (f : Ctl → Ctl) : (s.onCtl f).mem = s.mem := rfl
@[simp] theorem State.onCtl_marks (s : State) (f : Ctl → Ctl) : (s.onCtl f).marks = s.marks := rfl
@[simp] theorem State.onCtl_cache (s : State) (f : Ctl → Ctl) : (s.onCtl f).cache = s.cache := rfl
@[simp] theorem State.onCtl_tiles (s : State) (f : Ctl → Ctl) : (s.onCtl f).tiles = s.tiles := rfl
@[simp] theorem State.onCtl_slots (s : State) (f : Ctl → Ctl) : (s.onCtl f).slots = s.slots := rfl
@[simp] theorem State.onCtl_elem (s : State) (f : Ctl → Ctl) : (s.onCtl f).elem = s.elem := rfl
@[simp] theorem State.onCtl_dma (s : State) (f : Ctl → Ctl) : (s.onCtl f).dma = s.dma := rfl
@[simp] theorem State.onCtl_fab (s : State) (f : Ctl → Ctl) : (s.onCtl f).fab = s.fab := rfl
@[simp] theorem State.onCtl_coll (s : State) (f : Ctl → Ctl) : (s.onCtl f).coll = s.coll := rfl
@[simp] theorem State.onCtl_rel (s : State) (f : Ctl → Ctl) : (s.onCtl f).rel = s.rel := rfl
@[simp] theorem State.onCtl_ckpt (s : State) (f : Ctl → Ctl) : (s.onCtl f).ckpt = s.ckpt := rfl
@[simp] theorem State.onCtl_power (s : State) (f : Ctl → Ctl) : (s.onCtl f).power = s.power := rfl
@[simp] theorem State.onCtl_trust (s : State) (f : Ctl → Ctl) : (s.onCtl f).trust = s.trust := rfl
@[simp] theorem State.onCtl_host (s : State) (f : Ctl → Ctl) : (s.onCtl f).host = s.host := rfl
@[simp] theorem State.onCtl_dict (s : State) (f : Ctl → Ctl) : (s.onCtl f).dict = s.dict := rfl
@[simp] theorem State.onCtl_board (s : State) (f : Ctl → Ctl) : (s.onCtl f).board = s.board := rfl

/-! ### State.onSc -/

@[simp] theorem State.onSc_pending (s : State) (f : Scalar → Scalar) : (s.onSc f).pending = s.pending := rfl
@[simp] theorem State.onSc_out (s : State) (f : Scalar → Scalar) : (s.onSc f).out = s.out := rfl
@[simp] theorem State.onSc_seq (s : State) (f : Scalar → Scalar) : (s.onSc f).seq = s.seq := rfl
@[simp] theorem State.onSc_cnt (s : State) (f : Scalar → Scalar) : (s.onSc f).cnt = s.cnt := rfl
@[simp] theorem State.onSc_ctl (s : State) (f : Scalar → Scalar) : (s.onSc f).ctl = s.ctl := rfl
@[simp] theorem State.onSc_sc (s : State) (f : Scalar → Scalar) : (s.onSc f).sc = f s.sc := rfl
@[simp] theorem State.onSc_work (s : State) (f : Scalar → Scalar) : (s.onSc f).work = s.work := rfl
@[simp] theorem State.onSc_uses (s : State) (f : Scalar → Scalar) : (s.onSc f).uses = s.uses := rfl
@[simp] theorem State.onSc_mem (s : State) (f : Scalar → Scalar) : (s.onSc f).mem = s.mem := rfl
@[simp] theorem State.onSc_marks (s : State) (f : Scalar → Scalar) : (s.onSc f).marks = s.marks := rfl
@[simp] theorem State.onSc_cache (s : State) (f : Scalar → Scalar) : (s.onSc f).cache = s.cache := rfl
@[simp] theorem State.onSc_tiles (s : State) (f : Scalar → Scalar) : (s.onSc f).tiles = s.tiles := rfl
@[simp] theorem State.onSc_slots (s : State) (f : Scalar → Scalar) : (s.onSc f).slots = s.slots := rfl
@[simp] theorem State.onSc_elem (s : State) (f : Scalar → Scalar) : (s.onSc f).elem = s.elem := rfl
@[simp] theorem State.onSc_dma (s : State) (f : Scalar → Scalar) : (s.onSc f).dma = s.dma := rfl
@[simp] theorem State.onSc_fab (s : State) (f : Scalar → Scalar) : (s.onSc f).fab = s.fab := rfl
@[simp] theorem State.onSc_coll (s : State) (f : Scalar → Scalar) : (s.onSc f).coll = s.coll := rfl
@[simp] theorem State.onSc_rel (s : State) (f : Scalar → Scalar) : (s.onSc f).rel = s.rel := rfl
@[simp] theorem State.onSc_ckpt (s : State) (f : Scalar → Scalar) : (s.onSc f).ckpt = s.ckpt := rfl
@[simp] theorem State.onSc_power (s : State) (f : Scalar → Scalar) : (s.onSc f).power = s.power := rfl
@[simp] theorem State.onSc_trust (s : State) (f : Scalar → Scalar) : (s.onSc f).trust = s.trust := rfl
@[simp] theorem State.onSc_host (s : State) (f : Scalar → Scalar) : (s.onSc f).host = s.host := rfl
@[simp] theorem State.onSc_dict (s : State) (f : Scalar → Scalar) : (s.onSc f).dict = s.dict := rfl
@[simp] theorem State.onSc_board (s : State) (f : Scalar → Scalar) : (s.onSc f).board = s.board := rfl

/-! ### State.onTiles -/

@[simp] theorem State.onTiles_pending (s : State) (f : Tiles → Tiles) : (s.onTiles f).pending = s.pending := rfl
@[simp] theorem State.onTiles_out (s : State) (f : Tiles → Tiles) : (s.onTiles f).out = s.out := rfl
@[simp] theorem State.onTiles_seq (s : State) (f : Tiles → Tiles) : (s.onTiles f).seq = s.seq := rfl
@[simp] theorem State.onTiles_cnt (s : State) (f : Tiles → Tiles) : (s.onTiles f).cnt = s.cnt := rfl
@[simp] theorem State.onTiles_ctl (s : State) (f : Tiles → Tiles) : (s.onTiles f).ctl = s.ctl := rfl
@[simp] theorem State.onTiles_sc (s : State) (f : Tiles → Tiles) : (s.onTiles f).sc = s.sc := rfl
@[simp] theorem State.onTiles_work (s : State) (f : Tiles → Tiles) : (s.onTiles f).work = s.work := rfl
@[simp] theorem State.onTiles_uses (s : State) (f : Tiles → Tiles) : (s.onTiles f).uses = s.uses := rfl
@[simp] theorem State.onTiles_mem (s : State) (f : Tiles → Tiles) : (s.onTiles f).mem = s.mem := rfl
@[simp] theorem State.onTiles_marks (s : State) (f : Tiles → Tiles) : (s.onTiles f).marks = s.marks := rfl
@[simp] theorem State.onTiles_cache (s : State) (f : Tiles → Tiles) : (s.onTiles f).cache = s.cache := rfl
@[simp] theorem State.onTiles_tiles (s : State) (f : Tiles → Tiles) : (s.onTiles f).tiles = f s.tiles := rfl
@[simp] theorem State.onTiles_slots (s : State) (f : Tiles → Tiles) : (s.onTiles f).slots = s.slots := rfl
@[simp] theorem State.onTiles_elem (s : State) (f : Tiles → Tiles) : (s.onTiles f).elem = s.elem := rfl
@[simp] theorem State.onTiles_dma (s : State) (f : Tiles → Tiles) : (s.onTiles f).dma = s.dma := rfl
@[simp] theorem State.onTiles_fab (s : State) (f : Tiles → Tiles) : (s.onTiles f).fab = s.fab := rfl
@[simp] theorem State.onTiles_coll (s : State) (f : Tiles → Tiles) : (s.onTiles f).coll = s.coll := rfl
@[simp] theorem State.onTiles_rel (s : State) (f : Tiles → Tiles) : (s.onTiles f).rel = s.rel := rfl
@[simp] theorem State.onTiles_ckpt (s : State) (f : Tiles → Tiles) : (s.onTiles f).ckpt = s.ckpt := rfl
@[simp] theorem State.onTiles_power (s : State) (f : Tiles → Tiles) : (s.onTiles f).power = s.power := rfl
@[simp] theorem State.onTiles_trust (s : State) (f : Tiles → Tiles) : (s.onTiles f).trust = s.trust := rfl
@[simp] theorem State.onTiles_host (s : State) (f : Tiles → Tiles) : (s.onTiles f).host = s.host := rfl
@[simp] theorem State.onTiles_dict (s : State) (f : Tiles → Tiles) : (s.onTiles f).dict = s.dict := rfl
@[simp] theorem State.onTiles_board (s : State) (f : Tiles → Tiles) : (s.onTiles f).board = s.board := rfl

/-! ### State.onElem -/

@[simp] theorem State.onElem_pending (s : State) (f : Elem → Elem) : (s.onElem f).pending = s.pending := rfl
@[simp] theorem State.onElem_out (s : State) (f : Elem → Elem) : (s.onElem f).out = s.out := rfl
@[simp] theorem State.onElem_seq (s : State) (f : Elem → Elem) : (s.onElem f).seq = s.seq := rfl
@[simp] theorem State.onElem_cnt (s : State) (f : Elem → Elem) : (s.onElem f).cnt = s.cnt := rfl
@[simp] theorem State.onElem_ctl (s : State) (f : Elem → Elem) : (s.onElem f).ctl = s.ctl := rfl
@[simp] theorem State.onElem_sc (s : State) (f : Elem → Elem) : (s.onElem f).sc = s.sc := rfl
@[simp] theorem State.onElem_work (s : State) (f : Elem → Elem) : (s.onElem f).work = s.work := rfl
@[simp] theorem State.onElem_uses (s : State) (f : Elem → Elem) : (s.onElem f).uses = s.uses := rfl
@[simp] theorem State.onElem_mem (s : State) (f : Elem → Elem) : (s.onElem f).mem = s.mem := rfl
@[simp] theorem State.onElem_marks (s : State) (f : Elem → Elem) : (s.onElem f).marks = s.marks := rfl
@[simp] theorem State.onElem_cache (s : State) (f : Elem → Elem) : (s.onElem f).cache = s.cache := rfl
@[simp] theorem State.onElem_tiles (s : State) (f : Elem → Elem) : (s.onElem f).tiles = s.tiles := rfl
@[simp] theorem State.onElem_slots (s : State) (f : Elem → Elem) : (s.onElem f).slots = s.slots := rfl
@[simp] theorem State.onElem_elem (s : State) (f : Elem → Elem) : (s.onElem f).elem = f s.elem := rfl
@[simp] theorem State.onElem_dma (s : State) (f : Elem → Elem) : (s.onElem f).dma = s.dma := rfl
@[simp] theorem State.onElem_fab (s : State) (f : Elem → Elem) : (s.onElem f).fab = s.fab := rfl
@[simp] theorem State.onElem_coll (s : State) (f : Elem → Elem) : (s.onElem f).coll = s.coll := rfl
@[simp] theorem State.onElem_rel (s : State) (f : Elem → Elem) : (s.onElem f).rel = s.rel := rfl
@[simp] theorem State.onElem_ckpt (s : State) (f : Elem → Elem) : (s.onElem f).ckpt = s.ckpt := rfl
@[simp] theorem State.onElem_power (s : State) (f : Elem → Elem) : (s.onElem f).power = s.power := rfl
@[simp] theorem State.onElem_trust (s : State) (f : Elem → Elem) : (s.onElem f).trust = s.trust := rfl
@[simp] theorem State.onElem_host (s : State) (f : Elem → Elem) : (s.onElem f).host = s.host := rfl
@[simp] theorem State.onElem_dict (s : State) (f : Elem → Elem) : (s.onElem f).dict = s.dict := rfl
@[simp] theorem State.onElem_board (s : State) (f : Elem → Elem) : (s.onElem f).board = s.board := rfl

/-! ### State.onDma -/

@[simp] theorem State.onDma_pending (s : State) (f : Dma → Dma) : (s.onDma f).pending = s.pending := rfl
@[simp] theorem State.onDma_out (s : State) (f : Dma → Dma) : (s.onDma f).out = s.out := rfl
@[simp] theorem State.onDma_seq (s : State) (f : Dma → Dma) : (s.onDma f).seq = s.seq := rfl
@[simp] theorem State.onDma_cnt (s : State) (f : Dma → Dma) : (s.onDma f).cnt = s.cnt := rfl
@[simp] theorem State.onDma_ctl (s : State) (f : Dma → Dma) : (s.onDma f).ctl = s.ctl := rfl
@[simp] theorem State.onDma_sc (s : State) (f : Dma → Dma) : (s.onDma f).sc = s.sc := rfl
@[simp] theorem State.onDma_work (s : State) (f : Dma → Dma) : (s.onDma f).work = s.work := rfl
@[simp] theorem State.onDma_uses (s : State) (f : Dma → Dma) : (s.onDma f).uses = s.uses := rfl
@[simp] theorem State.onDma_mem (s : State) (f : Dma → Dma) : (s.onDma f).mem = s.mem := rfl
@[simp] theorem State.onDma_marks (s : State) (f : Dma → Dma) : (s.onDma f).marks = s.marks := rfl
@[simp] theorem State.onDma_cache (s : State) (f : Dma → Dma) : (s.onDma f).cache = s.cache := rfl
@[simp] theorem State.onDma_tiles (s : State) (f : Dma → Dma) : (s.onDma f).tiles = s.tiles := rfl
@[simp] theorem State.onDma_slots (s : State) (f : Dma → Dma) : (s.onDma f).slots = s.slots := rfl
@[simp] theorem State.onDma_elem (s : State) (f : Dma → Dma) : (s.onDma f).elem = s.elem := rfl
@[simp] theorem State.onDma_dma (s : State) (f : Dma → Dma) : (s.onDma f).dma = f s.dma := rfl
@[simp] theorem State.onDma_fab (s : State) (f : Dma → Dma) : (s.onDma f).fab = s.fab := rfl
@[simp] theorem State.onDma_coll (s : State) (f : Dma → Dma) : (s.onDma f).coll = s.coll := rfl
@[simp] theorem State.onDma_rel (s : State) (f : Dma → Dma) : (s.onDma f).rel = s.rel := rfl
@[simp] theorem State.onDma_ckpt (s : State) (f : Dma → Dma) : (s.onDma f).ckpt = s.ckpt := rfl
@[simp] theorem State.onDma_power (s : State) (f : Dma → Dma) : (s.onDma f).power = s.power := rfl
@[simp] theorem State.onDma_trust (s : State) (f : Dma → Dma) : (s.onDma f).trust = s.trust := rfl
@[simp] theorem State.onDma_host (s : State) (f : Dma → Dma) : (s.onDma f).host = s.host := rfl
@[simp] theorem State.onDma_dict (s : State) (f : Dma → Dma) : (s.onDma f).dict = s.dict := rfl
@[simp] theorem State.onDma_board (s : State) (f : Dma → Dma) : (s.onDma f).board = s.board := rfl

/-! ### State.onFab -/

@[simp] theorem State.onFab_pending (s : State) (f : Fabric → Fabric) : (s.onFab f).pending = s.pending := rfl
@[simp] theorem State.onFab_out (s : State) (f : Fabric → Fabric) : (s.onFab f).out = s.out := rfl
@[simp] theorem State.onFab_seq (s : State) (f : Fabric → Fabric) : (s.onFab f).seq = s.seq := rfl
@[simp] theorem State.onFab_cnt (s : State) (f : Fabric → Fabric) : (s.onFab f).cnt = s.cnt := rfl
@[simp] theorem State.onFab_ctl (s : State) (f : Fabric → Fabric) : (s.onFab f).ctl = s.ctl := rfl
@[simp] theorem State.onFab_sc (s : State) (f : Fabric → Fabric) : (s.onFab f).sc = s.sc := rfl
@[simp] theorem State.onFab_work (s : State) (f : Fabric → Fabric) : (s.onFab f).work = s.work := rfl
@[simp] theorem State.onFab_uses (s : State) (f : Fabric → Fabric) : (s.onFab f).uses = s.uses := rfl
@[simp] theorem State.onFab_mem (s : State) (f : Fabric → Fabric) : (s.onFab f).mem = s.mem := rfl
@[simp] theorem State.onFab_marks (s : State) (f : Fabric → Fabric) : (s.onFab f).marks = s.marks := rfl
@[simp] theorem State.onFab_cache (s : State) (f : Fabric → Fabric) : (s.onFab f).cache = s.cache := rfl
@[simp] theorem State.onFab_tiles (s : State) (f : Fabric → Fabric) : (s.onFab f).tiles = s.tiles := rfl
@[simp] theorem State.onFab_slots (s : State) (f : Fabric → Fabric) : (s.onFab f).slots = s.slots := rfl
@[simp] theorem State.onFab_elem (s : State) (f : Fabric → Fabric) : (s.onFab f).elem = s.elem := rfl
@[simp] theorem State.onFab_dma (s : State) (f : Fabric → Fabric) : (s.onFab f).dma = s.dma := rfl
@[simp] theorem State.onFab_fab (s : State) (f : Fabric → Fabric) : (s.onFab f).fab = f s.fab := rfl
@[simp] theorem State.onFab_coll (s : State) (f : Fabric → Fabric) : (s.onFab f).coll = s.coll := rfl
@[simp] theorem State.onFab_rel (s : State) (f : Fabric → Fabric) : (s.onFab f).rel = s.rel := rfl
@[simp] theorem State.onFab_ckpt (s : State) (f : Fabric → Fabric) : (s.onFab f).ckpt = s.ckpt := rfl
@[simp] theorem State.onFab_power (s : State) (f : Fabric → Fabric) : (s.onFab f).power = s.power := rfl
@[simp] theorem State.onFab_trust (s : State) (f : Fabric → Fabric) : (s.onFab f).trust = s.trust := rfl
@[simp] theorem State.onFab_host (s : State) (f : Fabric → Fabric) : (s.onFab f).host = s.host := rfl
@[simp] theorem State.onFab_dict (s : State) (f : Fabric → Fabric) : (s.onFab f).dict = s.dict := rfl
@[simp] theorem State.onFab_board (s : State) (f : Fabric → Fabric) : (s.onFab f).board = s.board := rfl

/-! ### State.onColl -/

@[simp] theorem State.onColl_pending (s : State) (f : CollE → CollE) : (s.onColl f).pending = s.pending := rfl
@[simp] theorem State.onColl_out (s : State) (f : CollE → CollE) : (s.onColl f).out = s.out := rfl
@[simp] theorem State.onColl_seq (s : State) (f : CollE → CollE) : (s.onColl f).seq = s.seq := rfl
@[simp] theorem State.onColl_cnt (s : State) (f : CollE → CollE) : (s.onColl f).cnt = s.cnt := rfl
@[simp] theorem State.onColl_ctl (s : State) (f : CollE → CollE) : (s.onColl f).ctl = s.ctl := rfl
@[simp] theorem State.onColl_sc (s : State) (f : CollE → CollE) : (s.onColl f).sc = s.sc := rfl
@[simp] theorem State.onColl_work (s : State) (f : CollE → CollE) : (s.onColl f).work = s.work := rfl
@[simp] theorem State.onColl_uses (s : State) (f : CollE → CollE) : (s.onColl f).uses = s.uses := rfl
@[simp] theorem State.onColl_mem (s : State) (f : CollE → CollE) : (s.onColl f).mem = s.mem := rfl
@[simp] theorem State.onColl_marks (s : State) (f : CollE → CollE) : (s.onColl f).marks = s.marks := rfl
@[simp] theorem State.onColl_cache (s : State) (f : CollE → CollE) : (s.onColl f).cache = s.cache := rfl
@[simp] theorem State.onColl_tiles (s : State) (f : CollE → CollE) : (s.onColl f).tiles = s.tiles := rfl
@[simp] theorem State.onColl_slots (s : State) (f : CollE → CollE) : (s.onColl f).slots = s.slots := rfl
@[simp] theorem State.onColl_elem (s : State) (f : CollE → CollE) : (s.onColl f).elem = s.elem := rfl
@[simp] theorem State.onColl_dma (s : State) (f : CollE → CollE) : (s.onColl f).dma = s.dma := rfl
@[simp] theorem State.onColl_fab (s : State) (f : CollE → CollE) : (s.onColl f).fab = s.fab := rfl
@[simp] theorem State.onColl_coll (s : State) (f : CollE → CollE) : (s.onColl f).coll = f s.coll := rfl
@[simp] theorem State.onColl_rel (s : State) (f : CollE → CollE) : (s.onColl f).rel = s.rel := rfl
@[simp] theorem State.onColl_ckpt (s : State) (f : CollE → CollE) : (s.onColl f).ckpt = s.ckpt := rfl
@[simp] theorem State.onColl_power (s : State) (f : CollE → CollE) : (s.onColl f).power = s.power := rfl
@[simp] theorem State.onColl_trust (s : State) (f : CollE → CollE) : (s.onColl f).trust = s.trust := rfl
@[simp] theorem State.onColl_host (s : State) (f : CollE → CollE) : (s.onColl f).host = s.host := rfl
@[simp] theorem State.onColl_dict (s : State) (f : CollE → CollE) : (s.onColl f).dict = s.dict := rfl
@[simp] theorem State.onColl_board (s : State) (f : CollE → CollE) : (s.onColl f).board = s.board := rfl

/-! ### State.onRel -/

@[simp] theorem State.onRel_pending (s : State) (f : Rel → Rel) : (s.onRel f).pending = s.pending := rfl
@[simp] theorem State.onRel_out (s : State) (f : Rel → Rel) : (s.onRel f).out = s.out := rfl
@[simp] theorem State.onRel_seq (s : State) (f : Rel → Rel) : (s.onRel f).seq = s.seq := rfl
@[simp] theorem State.onRel_cnt (s : State) (f : Rel → Rel) : (s.onRel f).cnt = s.cnt := rfl
@[simp] theorem State.onRel_ctl (s : State) (f : Rel → Rel) : (s.onRel f).ctl = s.ctl := rfl
@[simp] theorem State.onRel_sc (s : State) (f : Rel → Rel) : (s.onRel f).sc = s.sc := rfl
@[simp] theorem State.onRel_work (s : State) (f : Rel → Rel) : (s.onRel f).work = s.work := rfl
@[simp] theorem State.onRel_uses (s : State) (f : Rel → Rel) : (s.onRel f).uses = s.uses := rfl
@[simp] theorem State.onRel_mem (s : State) (f : Rel → Rel) : (s.onRel f).mem = s.mem := rfl
@[simp] theorem State.onRel_marks (s : State) (f : Rel → Rel) : (s.onRel f).marks = s.marks := rfl
@[simp] theorem State.onRel_cache (s : State) (f : Rel → Rel) : (s.onRel f).cache = s.cache := rfl
@[simp] theorem State.onRel_tiles (s : State) (f : Rel → Rel) : (s.onRel f).tiles = s.tiles := rfl
@[simp] theorem State.onRel_slots (s : State) (f : Rel → Rel) : (s.onRel f).slots = s.slots := rfl
@[simp] theorem State.onRel_elem (s : State) (f : Rel → Rel) : (s.onRel f).elem = s.elem := rfl
@[simp] theorem State.onRel_dma (s : State) (f : Rel → Rel) : (s.onRel f).dma = s.dma := rfl
@[simp] theorem State.onRel_fab (s : State) (f : Rel → Rel) : (s.onRel f).fab = s.fab := rfl
@[simp] theorem State.onRel_coll (s : State) (f : Rel → Rel) : (s.onRel f).coll = s.coll := rfl
@[simp] theorem State.onRel_rel (s : State) (f : Rel → Rel) : (s.onRel f).rel = f s.rel := rfl
@[simp] theorem State.onRel_ckpt (s : State) (f : Rel → Rel) : (s.onRel f).ckpt = s.ckpt := rfl
@[simp] theorem State.onRel_power (s : State) (f : Rel → Rel) : (s.onRel f).power = s.power := rfl
@[simp] theorem State.onRel_trust (s : State) (f : Rel → Rel) : (s.onRel f).trust = s.trust := rfl
@[simp] theorem State.onRel_host (s : State) (f : Rel → Rel) : (s.onRel f).host = s.host := rfl
@[simp] theorem State.onRel_dict (s : State) (f : Rel → Rel) : (s.onRel f).dict = s.dict := rfl
@[simp] theorem State.onRel_board (s : State) (f : Rel → Rel) : (s.onRel f).board = s.board := rfl

/-! ### State.onCkpt -/

@[simp] theorem State.onCkpt_pending (s : State) (f : Ckpt → Ckpt) : (s.onCkpt f).pending = s.pending := rfl
@[simp] theorem State.onCkpt_out (s : State) (f : Ckpt → Ckpt) : (s.onCkpt f).out = s.out := rfl
@[simp] theorem State.onCkpt_seq (s : State) (f : Ckpt → Ckpt) : (s.onCkpt f).seq = s.seq := rfl
@[simp] theorem State.onCkpt_cnt (s : State) (f : Ckpt → Ckpt) : (s.onCkpt f).cnt = s.cnt := rfl
@[simp] theorem State.onCkpt_ctl (s : State) (f : Ckpt → Ckpt) : (s.onCkpt f).ctl = s.ctl := rfl
@[simp] theorem State.onCkpt_sc (s : State) (f : Ckpt → Ckpt) : (s.onCkpt f).sc = s.sc := rfl
@[simp] theorem State.onCkpt_work (s : State) (f : Ckpt → Ckpt) : (s.onCkpt f).work = s.work := rfl
@[simp] theorem State.onCkpt_uses (s : State) (f : Ckpt → Ckpt) : (s.onCkpt f).uses = s.uses := rfl
@[simp] theorem State.onCkpt_mem (s : State) (f : Ckpt → Ckpt) : (s.onCkpt f).mem = s.mem := rfl
@[simp] theorem State.onCkpt_marks (s : State) (f : Ckpt → Ckpt) : (s.onCkpt f).marks = s.marks := rfl
@[simp] theorem State.onCkpt_cache (s : State) (f : Ckpt → Ckpt) : (s.onCkpt f).cache = s.cache := rfl
@[simp] theorem State.onCkpt_tiles (s : State) (f : Ckpt → Ckpt) : (s.onCkpt f).tiles = s.tiles := rfl
@[simp] theorem State.onCkpt_slots (s : State) (f : Ckpt → Ckpt) : (s.onCkpt f).slots = s.slots := rfl
@[simp] theorem State.onCkpt_elem (s : State) (f : Ckpt → Ckpt) : (s.onCkpt f).elem = s.elem := rfl
@[simp] theorem State.onCkpt_dma (s : State) (f : Ckpt → Ckpt) : (s.onCkpt f).dma = s.dma := rfl
@[simp] theorem State.onCkpt_fab (s : State) (f : Ckpt → Ckpt) : (s.onCkpt f).fab = s.fab := rfl
@[simp] theorem State.onCkpt_coll (s : State) (f : Ckpt → Ckpt) : (s.onCkpt f).coll = s.coll := rfl
@[simp] theorem State.onCkpt_rel (s : State) (f : Ckpt → Ckpt) : (s.onCkpt f).rel = s.rel := rfl
@[simp] theorem State.onCkpt_ckpt (s : State) (f : Ckpt → Ckpt) : (s.onCkpt f).ckpt = f s.ckpt := rfl
@[simp] theorem State.onCkpt_power (s : State) (f : Ckpt → Ckpt) : (s.onCkpt f).power = s.power := rfl
@[simp] theorem State.onCkpt_trust (s : State) (f : Ckpt → Ckpt) : (s.onCkpt f).trust = s.trust := rfl
@[simp] theorem State.onCkpt_host (s : State) (f : Ckpt → Ckpt) : (s.onCkpt f).host = s.host := rfl
@[simp] theorem State.onCkpt_dict (s : State) (f : Ckpt → Ckpt) : (s.onCkpt f).dict = s.dict := rfl
@[simp] theorem State.onCkpt_board (s : State) (f : Ckpt → Ckpt) : (s.onCkpt f).board = s.board := rfl

/-! ### State.onPower -/

@[simp] theorem State.onPower_pending (s : State) (f : Power → Power) : (s.onPower f).pending = s.pending := rfl
@[simp] theorem State.onPower_out (s : State) (f : Power → Power) : (s.onPower f).out = s.out := rfl
@[simp] theorem State.onPower_seq (s : State) (f : Power → Power) : (s.onPower f).seq = s.seq := rfl
@[simp] theorem State.onPower_cnt (s : State) (f : Power → Power) : (s.onPower f).cnt = s.cnt := rfl
@[simp] theorem State.onPower_ctl (s : State) (f : Power → Power) : (s.onPower f).ctl = s.ctl := rfl
@[simp] theorem State.onPower_sc (s : State) (f : Power → Power) : (s.onPower f).sc = s.sc := rfl
@[simp] theorem State.onPower_work (s : State) (f : Power → Power) : (s.onPower f).work = s.work := rfl
@[simp] theorem State.onPower_uses (s : State) (f : Power → Power) : (s.onPower f).uses = s.uses := rfl
@[simp] theorem State.onPower_mem (s : State) (f : Power → Power) : (s.onPower f).mem = s.mem := rfl
@[simp] theorem State.onPower_marks (s : State) (f : Power → Power) : (s.onPower f).marks = s.marks := rfl
@[simp] theorem State.onPower_cache (s : State) (f : Power → Power) : (s.onPower f).cache = s.cache := rfl
@[simp] theorem State.onPower_tiles (s : State) (f : Power → Power) : (s.onPower f).tiles = s.tiles := rfl
@[simp] theorem State.onPower_slots (s : State) (f : Power → Power) : (s.onPower f).slots = s.slots := rfl
@[simp] theorem State.onPower_elem (s : State) (f : Power → Power) : (s.onPower f).elem = s.elem := rfl
@[simp] theorem State.onPower_dma (s : State) (f : Power → Power) : (s.onPower f).dma = s.dma := rfl
@[simp] theorem State.onPower_fab (s : State) (f : Power → Power) : (s.onPower f).fab = s.fab := rfl
@[simp] theorem State.onPower_coll (s : State) (f : Power → Power) : (s.onPower f).coll = s.coll := rfl
@[simp] theorem State.onPower_rel (s : State) (f : Power → Power) : (s.onPower f).rel = s.rel := rfl
@[simp] theorem State.onPower_ckpt (s : State) (f : Power → Power) : (s.onPower f).ckpt = s.ckpt := rfl
@[simp] theorem State.onPower_power (s : State) (f : Power → Power) : (s.onPower f).power = f s.power := rfl
@[simp] theorem State.onPower_trust (s : State) (f : Power → Power) : (s.onPower f).trust = s.trust := rfl
@[simp] theorem State.onPower_host (s : State) (f : Power → Power) : (s.onPower f).host = s.host := rfl
@[simp] theorem State.onPower_dict (s : State) (f : Power → Power) : (s.onPower f).dict = s.dict := rfl
@[simp] theorem State.onPower_board (s : State) (f : Power → Power) : (s.onPower f).board = s.board := rfl

/-! ### State.onTrust -/

@[simp] theorem State.onTrust_pending (s : State) (f : Trust → Trust) : (s.onTrust f).pending = s.pending := rfl
@[simp] theorem State.onTrust_out (s : State) (f : Trust → Trust) : (s.onTrust f).out = s.out := rfl
@[simp] theorem State.onTrust_seq (s : State) (f : Trust → Trust) : (s.onTrust f).seq = s.seq := rfl
@[simp] theorem State.onTrust_cnt (s : State) (f : Trust → Trust) : (s.onTrust f).cnt = s.cnt := rfl
@[simp] theorem State.onTrust_ctl (s : State) (f : Trust → Trust) : (s.onTrust f).ctl = s.ctl := rfl
@[simp] theorem State.onTrust_sc (s : State) (f : Trust → Trust) : (s.onTrust f).sc = s.sc := rfl
@[simp] theorem State.onTrust_work (s : State) (f : Trust → Trust) : (s.onTrust f).work = s.work := rfl
@[simp] theorem State.onTrust_uses (s : State) (f : Trust → Trust) : (s.onTrust f).uses = s.uses := rfl
@[simp] theorem State.onTrust_mem (s : State) (f : Trust → Trust) : (s.onTrust f).mem = s.mem := rfl
@[simp] theorem State.onTrust_marks (s : State) (f : Trust → Trust) : (s.onTrust f).marks = s.marks := rfl
@[simp] theorem State.onTrust_cache (s : State) (f : Trust → Trust) : (s.onTrust f).cache = s.cache := rfl
@[simp] theorem State.onTrust_tiles (s : State) (f : Trust → Trust) : (s.onTrust f).tiles = s.tiles := rfl
@[simp] theorem State.onTrust_slots (s : State) (f : Trust → Trust) : (s.onTrust f).slots = s.slots := rfl
@[simp] theorem State.onTrust_elem (s : State) (f : Trust → Trust) : (s.onTrust f).elem = s.elem := rfl
@[simp] theorem State.onTrust_dma (s : State) (f : Trust → Trust) : (s.onTrust f).dma = s.dma := rfl
@[simp] theorem State.onTrust_fab (s : State) (f : Trust → Trust) : (s.onTrust f).fab = s.fab := rfl
@[simp] theorem State.onTrust_coll (s : State) (f : Trust → Trust) : (s.onTrust f).coll = s.coll := rfl
@[simp] theorem State.onTrust_rel (s : State) (f : Trust → Trust) : (s.onTrust f).rel = s.rel := rfl
@[simp] theorem State.onTrust_ckpt (s : State) (f : Trust → Trust) : (s.onTrust f).ckpt = s.ckpt := rfl
@[simp] theorem State.onTrust_power (s : State) (f : Trust → Trust) : (s.onTrust f).power = s.power := rfl
@[simp] theorem State.onTrust_trust (s : State) (f : Trust → Trust) : (s.onTrust f).trust = f s.trust := rfl
@[simp] theorem State.onTrust_host (s : State) (f : Trust → Trust) : (s.onTrust f).host = s.host := rfl
@[simp] theorem State.onTrust_dict (s : State) (f : Trust → Trust) : (s.onTrust f).dict = s.dict := rfl
@[simp] theorem State.onTrust_board (s : State) (f : Trust → Trust) : (s.onTrust f).board = s.board := rfl

/-! ### State.onHost -/

@[simp] theorem State.onHost_pending (s : State) (f : HostPort → HostPort) : (s.onHost f).pending = s.pending := rfl
@[simp] theorem State.onHost_out (s : State) (f : HostPort → HostPort) : (s.onHost f).out = s.out := rfl
@[simp] theorem State.onHost_seq (s : State) (f : HostPort → HostPort) : (s.onHost f).seq = s.seq := rfl
@[simp] theorem State.onHost_cnt (s : State) (f : HostPort → HostPort) : (s.onHost f).cnt = s.cnt := rfl
@[simp] theorem State.onHost_ctl (s : State) (f : HostPort → HostPort) : (s.onHost f).ctl = s.ctl := rfl
@[simp] theorem State.onHost_sc (s : State) (f : HostPort → HostPort) : (s.onHost f).sc = s.sc := rfl
@[simp] theorem State.onHost_work (s : State) (f : HostPort → HostPort) : (s.onHost f).work = s.work := rfl
@[simp] theorem State.onHost_uses (s : State) (f : HostPort → HostPort) : (s.onHost f).uses = s.uses := rfl
@[simp] theorem State.onHost_mem (s : State) (f : HostPort → HostPort) : (s.onHost f).mem = s.mem := rfl
@[simp] theorem State.onHost_marks (s : State) (f : HostPort → HostPort) : (s.onHost f).marks = s.marks := rfl
@[simp] theorem State.onHost_cache (s : State) (f : HostPort → HostPort) : (s.onHost f).cache = s.cache := rfl
@[simp] theorem State.onHost_tiles (s : State) (f : HostPort → HostPort) : (s.onHost f).tiles = s.tiles := rfl
@[simp] theorem State.onHost_slots (s : State) (f : HostPort → HostPort) : (s.onHost f).slots = s.slots := rfl
@[simp] theorem State.onHost_elem (s : State) (f : HostPort → HostPort) : (s.onHost f).elem = s.elem := rfl
@[simp] theorem State.onHost_dma (s : State) (f : HostPort → HostPort) : (s.onHost f).dma = s.dma := rfl
@[simp] theorem State.onHost_fab (s : State) (f : HostPort → HostPort) : (s.onHost f).fab = s.fab := rfl
@[simp] theorem State.onHost_coll (s : State) (f : HostPort → HostPort) : (s.onHost f).coll = s.coll := rfl
@[simp] theorem State.onHost_rel (s : State) (f : HostPort → HostPort) : (s.onHost f).rel = s.rel := rfl
@[simp] theorem State.onHost_ckpt (s : State) (f : HostPort → HostPort) : (s.onHost f).ckpt = s.ckpt := rfl
@[simp] theorem State.onHost_power (s : State) (f : HostPort → HostPort) : (s.onHost f).power = s.power := rfl
@[simp] theorem State.onHost_trust (s : State) (f : HostPort → HostPort) : (s.onHost f).trust = s.trust := rfl
@[simp] theorem State.onHost_host (s : State) (f : HostPort → HostPort) : (s.onHost f).host = f s.host := rfl
@[simp] theorem State.onHost_dict (s : State) (f : HostPort → HostPort) : (s.onHost f).dict = s.dict := rfl
@[simp] theorem State.onHost_board (s : State) (f : HostPort → HostPort) : (s.onHost f).board = s.board := rfl

/-! ### State.onDict -/

@[simp] theorem State.onDict_pending (s : State) (f : Dict → Dict) : (s.onDict f).pending = s.pending := rfl
@[simp] theorem State.onDict_out (s : State) (f : Dict → Dict) : (s.onDict f).out = s.out := rfl
@[simp] theorem State.onDict_seq (s : State) (f : Dict → Dict) : (s.onDict f).seq = s.seq := rfl
@[simp] theorem State.onDict_cnt (s : State) (f : Dict → Dict) : (s.onDict f).cnt = s.cnt := rfl
@[simp] theorem State.onDict_ctl (s : State) (f : Dict → Dict) : (s.onDict f).ctl = s.ctl := rfl
@[simp] theorem State.onDict_sc (s : State) (f : Dict → Dict) : (s.onDict f).sc = s.sc := rfl
@[simp] theorem State.onDict_work (s : State) (f : Dict → Dict) : (s.onDict f).work = s.work := rfl
@[simp] theorem State.onDict_uses (s : State) (f : Dict → Dict) : (s.onDict f).uses = s.uses := rfl
@[simp] theorem State.onDict_mem (s : State) (f : Dict → Dict) : (s.onDict f).mem = s.mem := rfl
@[simp] theorem State.onDict_marks (s : State) (f : Dict → Dict) : (s.onDict f).marks = s.marks := rfl
@[simp] theorem State.onDict_cache (s : State) (f : Dict → Dict) : (s.onDict f).cache = s.cache := rfl
@[simp] theorem State.onDict_tiles (s : State) (f : Dict → Dict) : (s.onDict f).tiles = s.tiles := rfl
@[simp] theorem State.onDict_slots (s : State) (f : Dict → Dict) : (s.onDict f).slots = s.slots := rfl
@[simp] theorem State.onDict_elem (s : State) (f : Dict → Dict) : (s.onDict f).elem = s.elem := rfl
@[simp] theorem State.onDict_dma (s : State) (f : Dict → Dict) : (s.onDict f).dma = s.dma := rfl
@[simp] theorem State.onDict_fab (s : State) (f : Dict → Dict) : (s.onDict f).fab = s.fab := rfl
@[simp] theorem State.onDict_coll (s : State) (f : Dict → Dict) : (s.onDict f).coll = s.coll := rfl
@[simp] theorem State.onDict_rel (s : State) (f : Dict → Dict) : (s.onDict f).rel = s.rel := rfl
@[simp] theorem State.onDict_ckpt (s : State) (f : Dict → Dict) : (s.onDict f).ckpt = s.ckpt := rfl
@[simp] theorem State.onDict_power (s : State) (f : Dict → Dict) : (s.onDict f).power = s.power := rfl
@[simp] theorem State.onDict_trust (s : State) (f : Dict → Dict) : (s.onDict f).trust = s.trust := rfl
@[simp] theorem State.onDict_host (s : State) (f : Dict → Dict) : (s.onDict f).host = s.host := rfl
@[simp] theorem State.onDict_dict (s : State) (f : Dict → Dict) : (s.onDict f).dict = f s.dict := rfl
@[simp] theorem State.onDict_board (s : State) (f : Dict → Dict) : (s.onDict f).board = s.board := rfl

/-! ### State.onBoard -/

@[simp] theorem State.onBoard_pending (s : State) (f : Board → Board) : (s.onBoard f).pending = s.pending := rfl
@[simp] theorem State.onBoard_out (s : State) (f : Board → Board) : (s.onBoard f).out = s.out := rfl
@[simp] theorem State.onBoard_seq (s : State) (f : Board → Board) : (s.onBoard f).seq = s.seq := rfl
@[simp] theorem State.onBoard_cnt (s : State) (f : Board → Board) : (s.onBoard f).cnt = s.cnt := rfl
@[simp] theorem State.onBoard_ctl (s : State) (f : Board → Board) : (s.onBoard f).ctl = s.ctl := rfl
@[simp] theorem State.onBoard_sc (s : State) (f : Board → Board) : (s.onBoard f).sc = s.sc := rfl
@[simp] theorem State.onBoard_work (s : State) (f : Board → Board) : (s.onBoard f).work = s.work := rfl
@[simp] theorem State.onBoard_uses (s : State) (f : Board → Board) : (s.onBoard f).uses = s.uses := rfl
@[simp] theorem State.onBoard_mem (s : State) (f : Board → Board) : (s.onBoard f).mem = s.mem := rfl
@[simp] theorem State.onBoard_marks (s : State) (f : Board → Board) : (s.onBoard f).marks = s.marks := rfl
@[simp] theorem State.onBoard_cache (s : State) (f : Board → Board) : (s.onBoard f).cache = s.cache := rfl
@[simp] theorem State.onBoard_tiles (s : State) (f : Board → Board) : (s.onBoard f).tiles = s.tiles := rfl
@[simp] theorem State.onBoard_slots (s : State) (f : Board → Board) : (s.onBoard f).slots = s.slots := rfl
@[simp] theorem State.onBoard_elem (s : State) (f : Board → Board) : (s.onBoard f).elem = s.elem := rfl
@[simp] theorem State.onBoard_dma (s : State) (f : Board → Board) : (s.onBoard f).dma = s.dma := rfl
@[simp] theorem State.onBoard_fab (s : State) (f : Board → Board) : (s.onBoard f).fab = s.fab := rfl
@[simp] theorem State.onBoard_coll (s : State) (f : Board → Board) : (s.onBoard f).coll = s.coll := rfl
@[simp] theorem State.onBoard_rel (s : State) (f : Board → Board) : (s.onBoard f).rel = s.rel := rfl
@[simp] theorem State.onBoard_ckpt (s : State) (f : Board → Board) : (s.onBoard f).ckpt = s.ckpt := rfl
@[simp] theorem State.onBoard_power (s : State) (f : Board → Board) : (s.onBoard f).power = s.power := rfl
@[simp] theorem State.onBoard_trust (s : State) (f : Board → Board) : (s.onBoard f).trust = s.trust := rfl
@[simp] theorem State.onBoard_host (s : State) (f : Board → Board) : (s.onBoard f).host = s.host := rfl
@[simp] theorem State.onBoard_dict (s : State) (f : Board → Board) : (s.onBoard f).dict = s.dict := rfl
@[simp] theorem State.onBoard_board (s : State) (f : Board → Board) : (s.onBoard f).board = f s.board := rfl

/-! ### Outputs -/

@[simp] theorem State.emit_pending (s : State) (o : Output) : (s.emit o).pending = s.pending := rfl
@[simp] theorem State.emit_out (s : State) (o : Output) : (s.emit o).out = o :: s.out := rfl
@[simp] theorem State.emit_seq (s : State) (o : Output) : (s.emit o).seq = s.seq := rfl
@[simp] theorem State.emit_cnt (s : State) (o : Output) : (s.emit o).cnt = s.cnt := rfl
@[simp] theorem State.emit_ctl (s : State) (o : Output) : (s.emit o).ctl = s.ctl := rfl
@[simp] theorem State.emit_sc (s : State) (o : Output) : (s.emit o).sc = s.sc := rfl
@[simp] theorem State.emit_work (s : State) (o : Output) : (s.emit o).work = s.work := rfl
@[simp] theorem State.emit_uses (s : State) (o : Output) : (s.emit o).uses = s.uses := rfl
@[simp] theorem State.emit_mem (s : State) (o : Output) : (s.emit o).mem = s.mem := rfl
@[simp] theorem State.emit_marks (s : State) (o : Output) : (s.emit o).marks = s.marks := rfl
@[simp] theorem State.emit_cache (s : State) (o : Output) : (s.emit o).cache = s.cache := rfl
@[simp] theorem State.emit_tiles (s : State) (o : Output) : (s.emit o).tiles = s.tiles := rfl
@[simp] theorem State.emit_slots (s : State) (o : Output) : (s.emit o).slots = s.slots := rfl
@[simp] theorem State.emit_elem (s : State) (o : Output) : (s.emit o).elem = s.elem := rfl
@[simp] theorem State.emit_dma (s : State) (o : Output) : (s.emit o).dma = s.dma := rfl
@[simp] theorem State.emit_fab (s : State) (o : Output) : (s.emit o).fab = s.fab := rfl
@[simp] theorem State.emit_coll (s : State) (o : Output) : (s.emit o).coll = s.coll := rfl
@[simp] theorem State.emit_rel (s : State) (o : Output) : (s.emit o).rel = s.rel := rfl
@[simp] theorem State.emit_ckpt (s : State) (o : Output) : (s.emit o).ckpt = s.ckpt := rfl
@[simp] theorem State.emit_power (s : State) (o : Output) : (s.emit o).power = s.power := rfl
@[simp] theorem State.emit_trust (s : State) (o : Output) : (s.emit o).trust = s.trust := rfl
@[simp] theorem State.emit_host (s : State) (o : Output) : (s.emit o).host = s.host := rfl
@[simp] theorem State.emit_dict (s : State) (o : Output) : (s.emit o).dict = s.dict := rfl
@[simp] theorem State.emit_board (s : State) (o : Output) : (s.emit o).board = s.board := rfl

/-! ### Objects -/

@[simp] theorem objSet_pending (s : State) (i j v : Nat) : (objSet s i j v).pending = s.pending := rfl
@[simp] theorem objSet_out (s : State) (i j v : Nat) : (objSet s i j v).out = s.out := rfl
@[simp] theorem objSet_seq (s : State) (i j v : Nat) : (objSet s i j v).seq = s.seq := rfl
@[simp] theorem objSet_cnt (s : State) (i j v : Nat) : (objSet s i j v).cnt = s.cnt := rfl
@[simp] theorem objSet_ctl (s : State) (i j v : Nat) : (objSet s i j v).ctl = s.ctl := rfl
@[simp] theorem objSet_sc (s : State) (i j v : Nat) : (objSet s i j v).sc = s.sc := rfl
@[simp] theorem objSet_work (s : State) (i j v : Nat) : (objSet s i j v).work = s.work := rfl
@[simp] theorem objSet_uses (s : State) (i j v : Nat) : (objSet s i j v).uses = s.uses := rfl
@[simp] theorem objSet_mem (s : State) (i j v : Nat) : (objSet s i j v).mem = s.mem := rfl
@[simp] theorem objSet_marks (s : State) (i j v : Nat) : (objSet s i j v).marks = s.marks := rfl
@[simp] theorem objSet_cache (s : State) (i j v : Nat) : (objSet s i j v).cache = s.cache := rfl
@[simp] theorem objSet_tiles (s : State) (i j v : Nat) : (objSet s i j v).tiles = s.tiles := rfl
@[simp] theorem objSet_slots (s : State) (i j v : Nat) : (objSet s i j v).slots = s.slots := rfl
@[simp] theorem objSet_elem (s : State) (i j v : Nat) : (objSet s i j v).elem = s.elem := rfl
@[simp] theorem objSet_dma (s : State) (i j v : Nat) : (objSet s i j v).dma = s.dma := rfl
@[simp] theorem objSet_fab (s : State) (i j v : Nat) : (objSet s i j v).fab = s.fab := rfl
@[simp] theorem objSet_coll (s : State) (i j v : Nat) : (objSet s i j v).coll = s.coll := rfl
@[simp] theorem objSet_rel (s : State) (i j v : Nat) : (objSet s i j v).rel = s.rel := rfl
@[simp] theorem objSet_ckpt (s : State) (i j v : Nat) : (objSet s i j v).ckpt = s.ckpt := rfl
@[simp] theorem objSet_power (s : State) (i j v : Nat) : (objSet s i j v).power = s.power := rfl
@[simp] theorem objSet_trust (s : State) (i j v : Nat) : (objSet s i j v).trust = s.trust := rfl
@[simp] theorem objSet_host (s : State) (i j v : Nat) : (objSet s i j v).host = s.host := rfl
@[simp] theorem objSet_board (s : State) (i j v : Nat) : (objSet s i j v).board = s.board := rfl

/-! ### Work in flight -/

@[simp] theorem schedule_pending (s : State) (d p o : Nat) (r : List Nat) (a : Micro) : (schedule s d p o r a).pending = s.pending := rfl
@[simp] theorem schedule_out (s : State) (d p o : Nat) (r : List Nat) (a : Micro) : (schedule s d p o r a).out = s.out := rfl
@[simp] theorem schedule_seq (s : State) (d p o : Nat) (r : List Nat) (a : Micro) : (schedule s d p o r a).seq = s.seq := rfl
@[simp] theorem schedule_cnt (s : State) (d p o : Nat) (r : List Nat) (a : Micro) : (schedule s d p o r a).cnt = s.cnt := rfl
@[simp] theorem schedule_ctl (s : State) (d p o : Nat) (r : List Nat) (a : Micro) : (schedule s d p o r a).ctl = s.ctl := rfl
@[simp] theorem schedule_sc (s : State) (d p o : Nat) (r : List Nat) (a : Micro) : (schedule s d p o r a).sc = s.sc := rfl
@[simp] theorem schedule_work (s : State) (d p o : Nat) (r : List Nat) (a : Micro) : (schedule s d p o r a).work = insertWork ⟨d, p, o, r, a⟩ s.work := rfl
@[simp] theorem schedule_uses (s : State) (d p o : Nat) (r : List Nat) (a : Micro) : (schedule s d p o r a).uses = s.uses := rfl
@[simp] theorem schedule_mem (s : State) (d p o : Nat) (r : List Nat) (a : Micro) : (schedule s d p o r a).mem = s.mem := rfl
@[simp] theorem schedule_marks (s : State) (d p o : Nat) (r : List Nat) (a : Micro) : (schedule s d p o r a).marks = s.marks := rfl
@[simp] theorem schedule_cache (s : State) (d p o : Nat) (r : List Nat) (a : Micro) : (schedule s d p o r a).cache = s.cache := rfl
@[simp] theorem schedule_tiles (s : State) (d p o : Nat) (r : List Nat) (a : Micro) : (schedule s d p o r a).tiles = s.tiles := rfl
@[simp] theorem schedule_slots (s : State) (d p o : Nat) (r : List Nat) (a : Micro) : (schedule s d p o r a).slots = s.slots := rfl
@[simp] theorem schedule_elem (s : State) (d p o : Nat) (r : List Nat) (a : Micro) : (schedule s d p o r a).elem = s.elem := rfl
@[simp] theorem schedule_dma (s : State) (d p o : Nat) (r : List Nat) (a : Micro) : (schedule s d p o r a).dma = s.dma := rfl
@[simp] theorem schedule_fab (s : State) (d p o : Nat) (r : List Nat) (a : Micro) : (schedule s d p o r a).fab = s.fab := rfl
@[simp] theorem schedule_coll (s : State) (d p o : Nat) (r : List Nat) (a : Micro) : (schedule s d p o r a).coll = s.coll := rfl
@[simp] theorem schedule_rel (s : State) (d p o : Nat) (r : List Nat) (a : Micro) : (schedule s d p o r a).rel = s.rel := rfl
@[simp] theorem schedule_ckpt (s : State) (d p o : Nat) (r : List Nat) (a : Micro) : (schedule s d p o r a).ckpt = s.ckpt := rfl
@[simp] theorem schedule_power (s : State) (d p o : Nat) (r : List Nat) (a : Micro) : (schedule s d p o r a).power = s.power := rfl
@[simp] theorem schedule_trust (s : State) (d p o : Nat) (r : List Nat) (a : Micro) : (schedule s d p o r a).trust = s.trust := rfl
@[simp] theorem schedule_host (s : State) (d p o : Nat) (r : List Nat) (a : Micro) : (schedule s d p o r a).host = s.host := rfl
@[simp] theorem schedule_dict (s : State) (d p o : Nat) (r : List Nat) (a : Micro) : (schedule s d p o r a).dict = s.dict := rfl
@[simp] theorem schedule_board (s : State) (d p o : Nat) (r : List Nat) (a : Micro) : (schedule s d p o r a).board = s.board := rfl

/-! ### Issue numbers -/

@[simp] theorem nextOp_pending (s : State) : (nextOp s).pending = s.pending := rfl
@[simp] theorem nextOp_out (s : State) : (nextOp s).out = s.out := rfl
@[simp] theorem nextOp_seq (s : State) : (nextOp s).seq = s.seq := rfl
@[simp] theorem nextOp_cnt (s : State) : (nextOp s).cnt = { s.cnt with op := s.cnt.op + 1 } := rfl
@[simp] theorem nextOp_ctl (s : State) : (nextOp s).ctl = s.ctl := rfl
@[simp] theorem nextOp_sc (s : State) : (nextOp s).sc = s.sc := rfl
@[simp] theorem nextOp_work (s : State) : (nextOp s).work = s.work := rfl
@[simp] theorem nextOp_uses (s : State) : (nextOp s).uses = s.uses := rfl
@[simp] theorem nextOp_mem (s : State) : (nextOp s).mem = s.mem := rfl
@[simp] theorem nextOp_marks (s : State) : (nextOp s).marks = s.marks := rfl
@[simp] theorem nextOp_cache (s : State) : (nextOp s).cache = s.cache := rfl
@[simp] theorem nextOp_tiles (s : State) : (nextOp s).tiles = s.tiles := rfl
@[simp] theorem nextOp_slots (s : State) : (nextOp s).slots = s.slots := rfl
@[simp] theorem nextOp_elem (s : State) : (nextOp s).elem = s.elem := rfl
@[simp] theorem nextOp_dma (s : State) : (nextOp s).dma = s.dma := rfl
@[simp] theorem nextOp_fab (s : State) : (nextOp s).fab = s.fab := rfl
@[simp] theorem nextOp_coll (s : State) : (nextOp s).coll = s.coll := rfl
@[simp] theorem nextOp_rel (s : State) : (nextOp s).rel = s.rel := rfl
@[simp] theorem nextOp_ckpt (s : State) : (nextOp s).ckpt = s.ckpt := rfl
@[simp] theorem nextOp_power (s : State) : (nextOp s).power = s.power := rfl
@[simp] theorem nextOp_trust (s : State) : (nextOp s).trust = s.trust := rfl
@[simp] theorem nextOp_host (s : State) : (nextOp s).host = s.host := rfl
@[simp] theorem nextOp_dict (s : State) : (nextOp s).dict = s.dict := rfl
@[simp] theorem nextOp_board (s : State) : (nextOp s).board = s.board := rfl

/-! ### Marks -/

@[simp] theorem setMark_pending (s : State) (w : Nat) (m : Mark) : (setMark s w m).pending = s.pending := rfl
@[simp] theorem setMark_out (s : State) (w : Nat) (m : Mark) : (setMark s w m).out = s.out := rfl
@[simp] theorem setMark_seq (s : State) (w : Nat) (m : Mark) : (setMark s w m).seq = s.seq := rfl
@[simp] theorem setMark_cnt (s : State) (w : Nat) (m : Mark) : (setMark s w m).cnt = s.cnt := rfl
@[simp] theorem setMark_ctl (s : State) (w : Nat) (m : Mark) : (setMark s w m).ctl = s.ctl := rfl
@[simp] theorem setMark_sc (s : State) (w : Nat) (m : Mark) : (setMark s w m).sc = s.sc := rfl
@[simp] theorem setMark_work (s : State) (w : Nat) (m : Mark) : (setMark s w m).work = s.work := rfl
@[simp] theorem setMark_uses (s : State) (w : Nat) (m : Mark) : (setMark s w m).uses = s.uses := rfl
@[simp] theorem setMark_mem (s : State) (w : Nat) (m : Mark) : (setMark s w m).mem = s.mem := rfl
@[simp] theorem setMark_marks (s : State) (w : Nat) (m : Mark) : (setMark s w m).marks = storeSet .good s.marks w m := rfl
@[simp] theorem setMark_tiles (s : State) (w : Nat) (m : Mark) : (setMark s w m).tiles = s.tiles := rfl
@[simp] theorem setMark_slots (s : State) (w : Nat) (m : Mark) : (setMark s w m).slots = s.slots := rfl
@[simp] theorem setMark_elem (s : State) (w : Nat) (m : Mark) : (setMark s w m).elem = s.elem := rfl
@[simp] theorem setMark_dma (s : State) (w : Nat) (m : Mark) : (setMark s w m).dma = s.dma := rfl
@[simp] theorem setMark_fab (s : State) (w : Nat) (m : Mark) : (setMark s w m).fab = s.fab := rfl
@[simp] theorem setMark_coll (s : State) (w : Nat) (m : Mark) : (setMark s w m).coll = s.coll := rfl
@[simp] theorem setMark_rel (s : State) (w : Nat) (m : Mark) : (setMark s w m).rel = s.rel := rfl
@[simp] theorem setMark_ckpt (s : State) (w : Nat) (m : Mark) : (setMark s w m).ckpt = s.ckpt := rfl
@[simp] theorem setMark_power (s : State) (w : Nat) (m : Mark) : (setMark s w m).power = s.power := rfl
@[simp] theorem setMark_trust (s : State) (w : Nat) (m : Mark) : (setMark s w m).trust = s.trust := rfl
@[simp] theorem setMark_host (s : State) (w : Nat) (m : Mark) : (setMark s w m).host = s.host := rfl
@[simp] theorem setMark_dict (s : State) (w : Nat) (m : Mark) : (setMark s w m).dict = s.dict := rfl
@[simp] theorem setMark_board (s : State) (w : Nat) (m : Mark) : (setMark s w m).board = s.board := rfl

/-! ### Raw bytes -/

@[simp] theorem pokeBytes_pending (s : State) (bs : List (Nat × Byte)) : (pokeBytes s bs).pending = s.pending := rfl
@[simp] theorem pokeBytes_out (s : State) (bs : List (Nat × Byte)) : (pokeBytes s bs).out = s.out := rfl
@[simp] theorem pokeBytes_seq (s : State) (bs : List (Nat × Byte)) : (pokeBytes s bs).seq = s.seq := rfl
@[simp] theorem pokeBytes_cnt (s : State) (bs : List (Nat × Byte)) : (pokeBytes s bs).cnt = s.cnt := rfl
@[simp] theorem pokeBytes_ctl (s : State) (bs : List (Nat × Byte)) : (pokeBytes s bs).ctl = s.ctl := rfl
@[simp] theorem pokeBytes_sc (s : State) (bs : List (Nat × Byte)) : (pokeBytes s bs).sc = s.sc := rfl
@[simp] theorem pokeBytes_work (s : State) (bs : List (Nat × Byte)) : (pokeBytes s bs).work = s.work := rfl
@[simp] theorem pokeBytes_uses (s : State) (bs : List (Nat × Byte)) : (pokeBytes s bs).uses = s.uses := rfl
@[simp] theorem pokeBytes_mem (s : State) (bs : List (Nat × Byte)) : (pokeBytes s bs).mem = bs.foldl (fun m b => storeSet 0 m b.1 b.2) s.mem := rfl
@[simp] theorem pokeBytes_marks (s : State) (bs : List (Nat × Byte)) : (pokeBytes s bs).marks = s.marks := rfl
@[simp] theorem pokeBytes_cache (s : State) (bs : List (Nat × Byte)) : (pokeBytes s bs).cache = s.cache := rfl
@[simp] theorem pokeBytes_tiles (s : State) (bs : List (Nat × Byte)) : (pokeBytes s bs).tiles = s.tiles := rfl
@[simp] theorem pokeBytes_slots (s : State) (bs : List (Nat × Byte)) : (pokeBytes s bs).slots = s.slots := rfl
@[simp] theorem pokeBytes_elem (s : State) (bs : List (Nat × Byte)) : (pokeBytes s bs).elem = s.elem := rfl
@[simp] theorem pokeBytes_dma (s : State) (bs : List (Nat × Byte)) : (pokeBytes s bs).dma = s.dma := rfl
@[simp] theorem pokeBytes_fab (s : State) (bs : List (Nat × Byte)) : (pokeBytes s bs).fab = s.fab := rfl
@[simp] theorem pokeBytes_coll (s : State) (bs : List (Nat × Byte)) : (pokeBytes s bs).coll = s.coll := rfl
@[simp] theorem pokeBytes_rel (s : State) (bs : List (Nat × Byte)) : (pokeBytes s bs).rel = s.rel := rfl
@[simp] theorem pokeBytes_ckpt (s : State) (bs : List (Nat × Byte)) : (pokeBytes s bs).ckpt = s.ckpt := rfl
@[simp] theorem pokeBytes_power (s : State) (bs : List (Nat × Byte)) : (pokeBytes s bs).power = s.power := rfl
@[simp] theorem pokeBytes_trust (s : State) (bs : List (Nat × Byte)) : (pokeBytes s bs).trust = s.trust := rfl
@[simp] theorem pokeBytes_host (s : State) (bs : List (Nat × Byte)) : (pokeBytes s bs).host = s.host := rfl
@[simp] theorem pokeBytes_dict (s : State) (bs : List (Nat × Byte)) : (pokeBytes s bs).dict = s.dict := rfl
@[simp] theorem pokeBytes_board (s : State) (bs : List (Nat × Byte)) : (pokeBytes s bs).board = s.board := rfl

/-! ### Interrupt latches -/

@[simp] theorem raiseInt_pending (s : State) (k : Nat) : (raiseInt s k).pending = s.pending := rfl
@[simp] theorem raiseInt_out (s : State) (k : Nat) : (raiseInt s k).out = s.out := rfl
@[simp] theorem raiseInt_seq (s : State) (k : Nat) : (raiseInt s k).seq = s.seq := rfl
@[simp] theorem raiseInt_ctl (s : State) (k : Nat) : (raiseInt s k).ctl = s.ctl := rfl
@[simp] theorem raiseInt_sc (s : State) (k : Nat) : (raiseInt s k).sc = s.sc := rfl
@[simp] theorem raiseInt_work (s : State) (k : Nat) : (raiseInt s k).work = s.work := rfl
@[simp] theorem raiseInt_uses (s : State) (k : Nat) : (raiseInt s k).uses = s.uses := rfl
@[simp] theorem raiseInt_mem (s : State) (k : Nat) : (raiseInt s k).mem = s.mem := rfl
@[simp] theorem raiseInt_marks (s : State) (k : Nat) : (raiseInt s k).marks = s.marks := rfl
@[simp] theorem raiseInt_cache (s : State) (k : Nat) : (raiseInt s k).cache = s.cache := rfl
@[simp] theorem raiseInt_tiles (s : State) (k : Nat) : (raiseInt s k).tiles = s.tiles := rfl
@[simp] theorem raiseInt_slots (s : State) (k : Nat) : (raiseInt s k).slots = s.slots := rfl
@[simp] theorem raiseInt_elem (s : State) (k : Nat) : (raiseInt s k).elem = s.elem := rfl
@[simp] theorem raiseInt_dma (s : State) (k : Nat) : (raiseInt s k).dma = s.dma := rfl
@[simp] theorem raiseInt_fab (s : State) (k : Nat) : (raiseInt s k).fab = s.fab := rfl
@[simp] theorem raiseInt_coll (s : State) (k : Nat) : (raiseInt s k).coll = s.coll := rfl
@[simp] theorem raiseInt_rel (s : State) (k : Nat) : (raiseInt s k).rel = s.rel := rfl
@[simp] theorem raiseInt_ckpt (s : State) (k : Nat) : (raiseInt s k).ckpt = s.ckpt := rfl
@[simp] theorem raiseInt_power (s : State) (k : Nat) : (raiseInt s k).power = s.power := rfl
@[simp] theorem raiseInt_trust (s : State) (k : Nat) : (raiseInt s k).trust = s.trust := rfl
@[simp] theorem raiseInt_host (s : State) (k : Nat) : (raiseInt s k).host = s.host := rfl
@[simp] theorem raiseInt_dict (s : State) (k : Nat) : (raiseInt s k).dict = s.dict := rfl
@[simp] theorem raiseInt_board (s : State) (k : Nat) : (raiseInt s k).board = s.board := rfl

/-! ### Free values -/

@[simp] theorem freshFree_pending (s : State) : ((freshFree s).2).pending = s.pending := rfl
@[simp] theorem freshFree_out (s : State) : ((freshFree s).2).out = s.out := rfl
@[simp] theorem freshFree_seq (s : State) : ((freshFree s).2).seq = s.seq := rfl
@[simp] theorem freshFree_cnt (s : State) : ((freshFree s).2).cnt = { s.cnt with free := s.cnt.free + 1 } := rfl
@[simp] theorem freshFree_ctl (s : State) : ((freshFree s).2).ctl = s.ctl := rfl
@[simp] theorem freshFree_sc (s : State) : ((freshFree s).2).sc = s.sc := rfl
@[simp] theorem freshFree_work (s : State) : ((freshFree s).2).work = s.work := rfl
@[simp] theorem freshFree_uses (s : State) : ((freshFree s).2).uses = s.uses := rfl
@[simp] theorem freshFree_mem (s : State) : ((freshFree s).2).mem = s.mem := rfl
@[simp] theorem freshFree_marks (s : State) : ((freshFree s).2).marks = s.marks := rfl
@[simp] theorem freshFree_cache (s : State) : ((freshFree s).2).cache = s.cache := rfl
@[simp] theorem freshFree_tiles (s : State) : ((freshFree s).2).tiles = s.tiles := rfl
@[simp] theorem freshFree_slots (s : State) : ((freshFree s).2).slots = s.slots := rfl
@[simp] theorem freshFree_elem (s : State) : ((freshFree s).2).elem = s.elem := rfl
@[simp] theorem freshFree_dma (s : State) : ((freshFree s).2).dma = s.dma := rfl
@[simp] theorem freshFree_fab (s : State) : ((freshFree s).2).fab = s.fab := rfl
@[simp] theorem freshFree_coll (s : State) : ((freshFree s).2).coll = s.coll := rfl
@[simp] theorem freshFree_rel (s : State) : ((freshFree s).2).rel = s.rel := rfl
@[simp] theorem freshFree_ckpt (s : State) : ((freshFree s).2).ckpt = s.ckpt := rfl
@[simp] theorem freshFree_power (s : State) : ((freshFree s).2).power = s.power := rfl
@[simp] theorem freshFree_trust (s : State) : ((freshFree s).2).trust = s.trust := rfl
@[simp] theorem freshFree_host (s : State) : ((freshFree s).2).host = s.host := rfl
@[simp] theorem freshFree_dict (s : State) : ((freshFree s).2).dict = s.dict := rfl
@[simp] theorem freshFree_board (s : State) : ((freshFree s).2).board = s.board := rfl

/-! ### Ports -/

@[simp] theorem portSet_pending (s : State) (k : Nat) (p : Port) : (portSet s k p).pending = s.pending := rfl
@[simp] theorem portSet_out (s : State) (k : Nat) (p : Port) : (portSet s k p).out = s.out := rfl
@[simp] theorem portSet_seq (s : State) (k : Nat) (p : Port) : (portSet s k p).seq = s.seq := rfl
@[simp] theorem portSet_cnt (s : State) (k : Nat) (p : Port) : (portSet s k p).cnt = s.cnt := rfl
@[simp] theorem portSet_ctl (s : State) (k : Nat) (p : Port) : (portSet s k p).ctl = s.ctl := rfl
@[simp] theorem portSet_sc (s : State) (k : Nat) (p : Port) : (portSet s k p).sc = s.sc := rfl
@[simp] theorem portSet_work (s : State) (k : Nat) (p : Port) : (portSet s k p).work = s.work := rfl
@[simp] theorem portSet_uses (s : State) (k : Nat) (p : Port) : (portSet s k p).uses = s.uses := rfl
@[simp] theorem portSet_mem (s : State) (k : Nat) (p : Port) : (portSet s k p).mem = s.mem := rfl
@[simp] theorem portSet_marks (s : State) (k : Nat) (p : Port) : (portSet s k p).marks = s.marks := rfl
@[simp] theorem portSet_cache (s : State) (k : Nat) (p : Port) : (portSet s k p).cache = s.cache := rfl
@[simp] theorem portSet_tiles (s : State) (k : Nat) (p : Port) : (portSet s k p).tiles = s.tiles := rfl
@[simp] theorem portSet_slots (s : State) (k : Nat) (p : Port) : (portSet s k p).slots = s.slots := rfl
@[simp] theorem portSet_elem (s : State) (k : Nat) (p : Port) : (portSet s k p).elem = s.elem := rfl
@[simp] theorem portSet_dma (s : State) (k : Nat) (p : Port) : (portSet s k p).dma = s.dma := rfl
@[simp] theorem portSet_coll (s : State) (k : Nat) (p : Port) : (portSet s k p).coll = s.coll := rfl
@[simp] theorem portSet_rel (s : State) (k : Nat) (p : Port) : (portSet s k p).rel = s.rel := rfl
@[simp] theorem portSet_ckpt (s : State) (k : Nat) (p : Port) : (portSet s k p).ckpt = s.ckpt := rfl
@[simp] theorem portSet_power (s : State) (k : Nat) (p : Port) : (portSet s k p).power = s.power := rfl
@[simp] theorem portSet_trust (s : State) (k : Nat) (p : Port) : (portSet s k p).trust = s.trust := rfl
@[simp] theorem portSet_host (s : State) (k : Nat) (p : Port) : (portSet s k p).host = s.host := rfl
@[simp] theorem portSet_dict (s : State) (k : Nat) (p : Port) : (portSet s k p).dict = s.dict := rfl
@[simp] theorem portSet_board (s : State) (k : Nat) (p : Port) : (portSet s k p).board = s.board := rfl

end Sys2Proof.Machine
end

