-- ==== Sys2Proof/Laws/Store.lean ====
section
/-! SUPPORT. Sparse tables: what a read gives after each change, and that every change keeps the canonical form. -/

namespace Sys2Proof.Machine

variable {α : Type}

@[simp] theorem storeGet_nil (d : α) (k : Nat) : storeGet d [] k = d := rfl

theorem storeGet_erase (d : α) (s : Store α) (k j : Nat) :
    storeGet d (storeErase s k) j = if j = k then d else storeGet d s j := by
  induction s with
  | nil => simp [storeErase]
  | cons e r ih =>
    obtain ⟨k', v⟩ := e
    by_cases h : k' = k <;> by_cases h2 : k' = j <;> simp_all [storeErase, storeGet]

theorem storeGet_insert (d : α) (s : Store α) (k : Nat) (v : α) (j : Nat) (h : ∀ e ∈ s, e.1 ≠ k) :
    storeGet d (storeInsert s k v) j = if j = k then v else storeGet d s j := by
  induction s with
  | nil => simp [storeInsert, storeGet, eq_comm]
  | cons e r ih =>
    obtain ⟨k', w⟩ := e
    have hk : k' ≠ k := h (k', w) (by simp)
    have hr : ∀ e ∈ r, e.1 ≠ k := fun e he => h e (by simp [he])
    by_cases hlt : k < k'
    · simp only [storeInsert, hlt, if_true, storeGet]
      by_cases hj : j = k
      · simp [hj]
      · simp [hj, Ne.symm hj]
    · simp only [storeInsert, hlt, if_false, storeGet, ih hr]
      by_cases hj : k' = j
      · simp [hj, show j ≠ k from hj ▸ hk]
      · simp [hj]

theorem storeErase_ne (s : Store α) (k : Nat) : ∀ e ∈ storeErase s k, e.1 ≠ k := by
  induction s with
  | nil => simp [storeErase]
  | cons e r ih =>
    obtain ⟨k', v⟩ := e
    by_cases h : k' = k
    · simpa [storeErase, h] using ih
    · simp only [storeErase, h, if_false, List.mem_cons]
      rintro e (rfl | he)
      · exact h
      · exact ih e he

/-- A read after a write: the value written at its key, every other key as before. -/
theorem storeGet_set [DecidableEq α] (d : α) (s : Store α) (k : Nat) (v : α) (j : Nat) :
    storeGet d (storeSet d s k v) j = if j = k then v else storeGet d s j := by
  unfold storeSet
  by_cases h : v = d
  · simp [h, storeGet_erase]
  · simp only [h, if_false, storeGet_insert d _ k v j (storeErase_ne s k), storeGet_erase]
    by_cases hj : j = k <;> simp [hj]

@[simp] theorem storeGet_set_same [DecidableEq α] (d : α) (s : Store α) (k : Nat) (v : α) :
    storeGet d (storeSet d s k v) k = v := by simp [storeGet_set]

/-- Another key reads as before, whatever default it is read with. -/
theorem storeGet_set_other [DecidableEq α] (d d' : α) (s : Store α) {k j : Nat} (v : α) (h : j ≠ k) :
    storeGet d (storeSet d' s k v) j = storeGet d s j := by
  unfold storeSet
  split
  · simp [storeGet_erase, h]
  · simp [storeGet_insert d _ k v j (storeErase_ne s k), storeGet_erase, h]

/-! ### The canonical form -/

theorem storeSorted_mono {lo lo' : Nat} (s : Store α) (h : lo' ≤ lo) (hs : storeSorted lo s = true) :
    storeSorted lo' s = true := by
  cases s with
  | nil => rfl
  | cons e r =>
    obtain ⟨k, v⟩ := e
    simp only [storeSorted, Bool.and_eq_true, decide_eq_true_eq] at hs ⊢
    exact ⟨Nat.le_trans h hs.1, hs.2⟩

theorem storeSorted_erase (s : Store α) (k : Nat) : ∀ lo, storeSorted lo s = true → storeSorted lo (storeErase s k) = true := by
  induction s with
  | nil => intro lo _; rfl
  | cons e r ih =>
    obtain ⟨k', v⟩ := e
    intro lo hs
    simp only [storeSorted, Bool.and_eq_true, decide_eq_true_eq] at hs
    by_cases h : k' = k
    · simpa [storeErase, h] using storeSorted_mono _ (Nat.le_succ_of_le hs.1) (ih (k' + 1) hs.2)
    · simp only [storeErase, h, if_false, storeSorted, Bool.and_eq_true, decide_eq_true_eq]
      exact ⟨hs.1, ih (k' + 1) hs.2⟩

theorem storeSorted_insert (s : Store α) (k : Nat) (v : α) :
    ∀ lo, lo ≤ k → (∀ e ∈ s, e.1 ≠ k) → storeSorted lo s = true → storeSorted lo (storeInsert s k v) = true := by
  induction s with
  | nil => intro lo hlo _ _; simp [storeInsert, storeSorted, hlo]
  | cons e r ih =>
    obtain ⟨k', w⟩ := e
    intro lo hlo hne hs
    simp only [storeSorted, Bool.and_eq_true, decide_eq_true_eq] at hs
    have hk : k' ≠ k := hne (k', w) (by simp)
    by_cases hlt : k < k'
    · simp only [storeInsert, hlt, if_true, storeSorted, Bool.and_eq_true, decide_eq_true_eq]
      exact ⟨hlo, hlt, hs.2⟩
    · simp only [storeInsert, hlt, if_false, storeSorted, Bool.and_eq_true, decide_eq_true_eq]
      exact ⟨hs.1, ih (k' + 1) (by omega) (fun e he => hne e (by simp [he])) hs.2⟩

theorem storeErase_mem (s : Store α) (k : Nat) {e : Nat × α} (h : e ∈ storeErase s k) : e ∈ s := by
  induction s with
  | nil => simp [storeErase] at h
  | cons x r ih =>
    obtain ⟨k', v⟩ := x
    by_cases hk : k' = k
    · simp only [storeErase, hk, if_true] at h
      exact List.mem_cons_of_mem _ (ih h)
    · simp only [storeErase, hk, if_false, List.mem_cons] at h
      rcases h with rfl | h
      · simp
      · exact List.mem_cons_of_mem _ (ih h)

theorem storeInsert_mem (s : Store α) (k : Nat) (v : α) {e : Nat × α} (h : e ∈ storeInsert s k v) : e = (k, v) ∨ e ∈ s := by
  induction s with
  | nil => simpa [storeInsert] using h
  | cons x r ih =>
    obtain ⟨k', w⟩ := x
    by_cases hk : k < k'
    · simpa [storeInsert, hk] using h
    · simp only [storeInsert, hk, if_false, List.mem_cons] at h
      rcases h with rfl | h
      · simp
      · rcases ih h with rfl | h
        · simp
        · exact .inr (List.mem_cons_of_mem _ h)

theorem storeWf_iff [DecidableEq α] (d : α) (s : Store α) :
    storeWf d s = true ↔ storeSorted 0 s = true ∧ ∀ e ∈ s, e.2 ≠ d := by
  simp [storeWf, List.all_eq_true]

@[simp] theorem storeWf_nil [DecidableEq α] (d : α) : storeWf d [] = true := rfl

/-- A write keeps the canonical form. -/
theorem storeWf_set [DecidableEq α] (d : α) (s : Store α) (k : Nat) (v : α) (h : storeWf d s = true) :
    storeWf d (storeSet d s k v) = true := by
  rw [storeWf_iff] at h ⊢
  unfold storeSet
  by_cases hv : v = d
  · simp only [hv, if_true]
    exact ⟨storeSorted_erase s k 0 h.1, fun e he => h.2 e (storeErase_mem s k he)⟩
  · simp only [hv, if_false]
    refine ⟨storeSorted_insert _ k v 0 (Nat.zero_le k) (storeErase_ne s k) (storeSorted_erase s k 0 h.1), ?_⟩
    intro e he
    rcases storeInsert_mem _ k v he with rfl | he
    · exact hv
    · exact h.2 e (storeErase_mem s k he)

theorem storeSorted_filter (p : Nat → Bool) (s : Store α) :
    ∀ lo, storeSorted lo s = true → storeSorted lo (storeFilter p s) = true := by
  induction s with
  | nil => intro lo _; rfl
  | cons e r ih =>
    obtain ⟨k, v⟩ := e
    intro lo hs
    simp only [storeSorted, Bool.and_eq_true, decide_eq_true_eq] at hs
    by_cases h : p k = true
    · simp only [storeFilter, List.filter_cons, h, if_true, storeSorted, Bool.and_eq_true, decide_eq_true_eq]
      exact ⟨hs.1, ih (k + 1) hs.2⟩
    · simp only [storeFilter, List.filter_cons, h, Bool.false_eq_true, if_false]
      exact storeSorted_mono _ (Nat.le_succ_of_le hs.1) (ih (k + 1) hs.2)

/-- Dropping entries keeps the canonical form. -/
theorem storeWf_filter [DecidableEq α] (d : α) (p : Nat → Bool) (s : Store α) (h : storeWf d s = true) :
    storeWf d (storeFilter p s) = true := by
  rw [storeWf_iff] at h ⊢
  exact ⟨storeSorted_filter p s 0 h.1, fun e he => h.2 e (List.mem_filter.mp he).1⟩

/-- Writes one after another keep the canonical form. -/
theorem storeWf_foldl [DecidableEq α] {β : Type} (d : α) (f : β → Nat) (g : β → α) (l : List β) (s : Store α)
    (h : storeWf d s = true) : storeWf d (l.foldl (fun m b => storeSet d m (f b) (g b)) s) = true := by
  induction l generalizing s with
  | nil => exact h
  | cons b r ih => exact ih _ (storeWf_set d s _ _ h)

/-- Reading after writes one after another: the last write of a key stands. -/
theorem storeGet_foldl [DecidableEq α] {β : Type} (d : α) (f : β → Nat) (g : β → α) (l : List β) (s : Store α) (k : Nat) :
    storeGet d (l.foldl (fun m b => storeSet d m (f b) (g b)) s) k
      = match l.reverse.find? (fun b => decide (f b = k)) with
        | some b => g b
        | none => storeGet d s k := by
  induction l generalizing s with
  | nil => rfl
  | cons b r ih =>
    rw [List.foldl_cons, ih, List.reverse_cons, List.find?_append]
    cases h : r.reverse.find? (fun b => decide (f b = k)) with
    | some x => simp
    | none =>
      by_cases hk : f b = k
      · simp [hk]
      · simp [hk, storeGet_set_other d d s (g b) (Ne.symm hk)]

end Sys2Proof.Machine
end

