-- ==== Sys2Proof/Laws/Ops.lean ====
section
/-! SUPPORT. What each shared operation of Machine/Ops.lean can do: the value it writes, and that it leaves the queue and the data
of a program alone. -/

namespace Sys2Proof.Machine

/-! ### Leaving the queue and the data alone -/

/-- The queue and everything a program can hold data in are the same. -/
def Quiet (s t : State) : Prop := t.pending = s.pending ∧ s.SameData t

theorem Quiet.refl (s : State) : Quiet s s := ⟨rfl, rfl, rfl, rfl, rfl, rfl, rfl, rfl⟩

theorem Quiet.trans {s t u : State} (h : Quiet s t) (k : Quiet t u) : Quiet s u := by
  obtain ⟨a, b, c, d, e, f, g, i⟩ := h
  obtain ⟨a', b', c', d', e', f', g', i'⟩ := k
  exact ⟨a'.trans a, b'.trans b, c'.trans c, d'.trans d, e'.trans e, f'.trans f, g'.trans g, i'.trans i⟩

/-- Operations one after another are quiet if each is. -/
theorem Quiet.foldl {β : Type} {f : State → β → State} (h : ∀ s x, Quiet s (f s x)) (l : List β) (s : State) :
    Quiet s (l.foldl f s) := by
  induction l generalizing s with
  | nil => exact Quiet.refl s
  | cons x r ih => exact (h s x).trans (ih _)

/-- A choice between quiet outcomes is quiet. -/
theorem Quiet.ite {s a b : State} {c : Prop} [Decidable c] (h : Quiet s a) (k : Quiet s b) : Quiet s (if c then a else b) := by
  split <;> assumption

/-- A quiet operation keeps the invariant. -/
theorem Quiet.inv {s t : State} (h : Quiet s t) (hi : s.Inv) : t.Inv := by
  obtain ⟨-, hm, hk, hs, -, -, -, hc⟩ := h
  simpa only [State.Inv, hm, hk, hs, hc] using hi

theorem onSeq_quiet (s : State) (f : Seq → Seq) : Quiet s (s.onSeq f) := ⟨rfl, rfl, rfl, rfl, rfl, rfl, rfl, rfl⟩
theorem onCnt_quiet (s : State) (f : Count → Count) : Quiet s (s.onCnt f) := ⟨rfl, rfl, rfl, rfl, rfl, rfl, rfl, rfl⟩
theorem onCtl_quiet (s : State) (f : Ctl → Ctl) : Quiet s (s.onCtl f) := ⟨rfl, rfl, rfl, rfl, rfl, rfl, rfl, rfl⟩
theorem onDma_quiet (s : State) (f : Dma → Dma) : Quiet s (s.onDma f) := ⟨rfl, rfl, rfl, rfl, rfl, rfl, rfl, rfl⟩
theorem onFab_quiet (s : State) (f : Fabric → Fabric) : Quiet s (s.onFab f) := ⟨rfl, rfl, rfl, rfl, rfl, rfl, rfl, rfl⟩
theorem onColl_quiet (s : State) (f : CollE → CollE) : Quiet s (s.onColl f) := ⟨rfl, rfl, rfl, rfl, rfl, rfl, rfl, rfl⟩
theorem onRel_quiet (s : State) (f : Rel → Rel) : Quiet s (s.onRel f) := ⟨rfl, rfl, rfl, rfl, rfl, rfl, rfl, rfl⟩
theorem onCkpt_quiet (s : State) (f : Ckpt → Ckpt) : Quiet s (s.onCkpt f) := ⟨rfl, rfl, rfl, rfl, rfl, rfl, rfl, rfl⟩
theorem onPower_quiet (s : State) (f : Power → Power) : Quiet s (s.onPower f) := ⟨rfl, rfl, rfl, rfl, rfl, rfl, rfl, rfl⟩
theorem onTrust_quiet (s : State) (f : Trust → Trust) : Quiet s (s.onTrust f) := ⟨rfl, rfl, rfl, rfl, rfl, rfl, rfl, rfl⟩
theorem onHost_quiet (s : State) (f : HostPort → HostPort) : Quiet s (s.onHost f) := ⟨rfl, rfl, rfl, rfl, rfl, rfl, rfl, rfl⟩
theorem onDict_quiet (s : State) (f : Dict → Dict) : Quiet s (s.onDict f) := ⟨rfl, rfl, rfl, rfl, rfl, rfl, rfl, rfl⟩
theorem onBoard_quiet (s : State) (f : Board → Board) : Quiet s (s.onBoard f) := ⟨rfl, rfl, rfl, rfl, rfl, rfl, rfl, rfl⟩
theorem emit_quiet (s : State) (o : Output) : Quiet s (s.emit o) := ⟨rfl, rfl, rfl, rfl, rfl, rfl, rfl, rfl⟩

/-! ### Objects (17 R446) -/

theorem objKey_inj {i j i' j' : Nat} (h : j < 256) (h' : j' < 256) : objKey i j = objKey i' j' ↔ i = i' ∧ j = j' := by
  unfold objKey; omega

theorem objSet_quiet (s : State) (i j v : Nat) : Quiet s (objSet s i j v) := ⟨rfl, rfl, rfl, rfl, rfl, rfl, rfl, rfl⟩
theorem objAdd_quiet (s : State) (i j n : Nat) : Quiet s (objAdd s i j n) := objSet_quiet s i j _

@[simp] theorem objGet_objSet_same (s : State) (i j v : Nat) : objGet (objSet s i j v) i j = v := by
  simp [objGet, objSet]

/-- An object is as before when another key is written. -/
theorem objGet_objSet_other (s : State) {i j i' j' : Nat} (v : Nat) (h : objKey i' j' ≠ objKey i j) :
    objGet (objSet s i j v) i' j' = objGet s i' j' := by
  exact storeGet_set_other _ _ _ v h

@[simp] theorem objGet_objAdd_same (s : State) (i j n : Nat) : objGet (objAdd s i j n) i j = (objGet s i j + n) % 2 ^ 64 := by
  simp [objAdd]

theorem objGet_objAdd_other (s : State) {i j i' j' : Nat} (n : Nat) (h : objKey i' j' ≠ objKey i j) :
    objGet (objAdd s i j n) i' j' = objGet s i' j' := objGet_objSet_other s _ h

/-! ### Registers (04 Table 4-1) -/

/-- A write of an X register: X0 stays zero, every other register reads as before. -/
theorem getX_setX (s : State) (r : Nat) (v : W64) (q : Nat) :
    getX (setX s r v) q = if q = r then (if r = 0 then 0 else v) else getX s q := by
  by_cases hr : r = 0 <;> by_cases hq : q = 0 <;> by_cases h : q = r <;> simp_all [getX, setX, storeGet_set]

/-- A write of an F register. -/
theorem getF_setF (s : State) (r : Nat) (v : W64) (q : Nat) : getF (setF s r v) q = if q = r then v else getF s q := by
  simp [getF, setF, storeGet_set]

@[simp] theorem getF_setX (s : State) (r : Nat) (v : W64) (q : Nat) : getF (setX s r v) q = getF s q := by
  unfold setX; split <;> rfl

@[simp] theorem getX_setF (s : State) (r : Nat) (v : W64) (q : Nat) : getX (setF s r v) q = getX s q := rfl

theorem setX_inv (s : State) (r : Nat) (v : W64) (h : s.Inv) : (setX s r v).Inv := by
  unfold setX
  split
  · exact h
  · obtain ⟨a, b, c, d, e, f⟩ := h
    exact ⟨a, b, storeWf_set 0 _ _ _ c, d, (storeGet_set_other 0 0 _ v (Ne.symm ‹_›)).trans e, f⟩

theorem setF_inv (s : State) (r : Nat) (v : W64) (h : s.Inv) : (setF s r v).Inv := by
  obtain ⟨a, b, c, d, e⟩ := h
  exact ⟨a, b, c, storeWf_set 0 _ _ _ d, e⟩

/-! ### Work in flight (02 R54 to R63) -/

theorem schedule_quiet (s : State) (d p o : Nat) (r : List Nat) (a : Micro) : Quiet s (schedule s d p o r a) :=
  ⟨rfl, rfl, rfl, rfl, rfl, rfl, rfl, rfl⟩
theorem landIn_quiet (s : State) (l o : Nat) (r : List Nat) (a : Micro) : Quiet s (landIn s l o r a) := schedule_quiet ..
theorem nextOp_quiet (s : State) : Quiet s (nextOp s) := onCnt_quiet ..
theorem freshFree_quiet (s : State) : Quiet s (freshFree s).2 := onCnt_quiet ..
theorem dropWork_quiet (s : State) (o k c : Nat) : Quiet s (dropWork s o k c) := ⟨rfl, rfl, rfl, rfl, rfl, rfl, rfl, rfl⟩

/-- What is in flight after a piece of work is scheduled: it, and what was in flight. -/
theorem mem_insertWork (w x : Work) (l : List Work) : x ∈ insertWork w l ↔ x = w ∨ x ∈ l := by
  induction l with
  | nil => simp [insertWork]
  | cons h r ih =>
    unfold insertWork
    split
    · simp
    · simp only [List.mem_cons, ih, or_left_comm]

theorem claimOne_quiet (s : State) (k o c d f : Nat) : Quiet s (claimOne s k o c d f) := by
  have h : ∀ (t : State) (w : List Work) (u : Store Use), Quiet t { t with work := w, uses := u } :=
    fun _ _ _ => ⟨rfl, rfl, rfl, rfl, rfl, rfl, rfl, rfl⟩
  unfold claimOne
  dsimp only
  split <;> split <;> first | exact (dropWork_quiet ..).trans (h ..) | exact h s _ _

theorem claimFrom_quiet (s : State) (u : RUnit) (l : List Nat) (o c d f : Nat) : Quiet s (claimFrom s u l o c d f) := by
  unfold claimFrom
  dsimp only
  refine Quiet.trans ?_ (Quiet.foldl (fun s k => claimOne_quiet s k o c d f) _ _)
  exact Quiet.ite (objAdd_quiet ..) (Quiet.refl s)

theorem claim_quiet (s : State) (u : RUnit) (l : List Nat) (o c d : Nat) : Quiet s (claim s u l o c d) := claimFrom_quiet ..

/-- An operation that has issued and left one landing holds the data as they were. -/
theorem resultDue_quiet (s : State) (l : Nat) (r : List Nat) (a : Micro) : Quiet s (resultDue s l r a) :=
  ⟨rfl, rfl, rfl, rfl, rfl, rfl, rfl, rfl⟩

/-! ### Interrupts, messages, records -/

theorem raiseInt_quiet (s : State) (k : Nat) : Quiet s (raiseInt s k) := onCnt_quiet ..

/-- An interrupt latch that is set stays set, and that of the interrupt raised is set (03 R70). -/
theorem raiseInt_latch (s : State) (k i : Nat) (h : k - 16 < 16) :
    (raiseInt s k).cnt.ipend.getLsbD i = (s.cnt.ipend.getLsbD i || decide (i = k - 16)) := by
  have : (BitVec.ofNat 16 (2 ^ (k - 16))).getLsbD i = decide (i = k - 16) := by
    simp only [BitVec.getLsbD_ofNat, Nat.testBit_two_pow]
    by_cases hi : k - 16 = i
    · simp [hi, hi ▸ h]
    · simp [hi, Ne.symm hi]
  simp only [raiseInt, State.onCnt, BitVec.getLsbD_or, this]

theorem signal_quiet (s : State) (v : Nat) : Quiet s (signal s v) := by
  unfold signal
  refine Quiet.ite (Quiet.refl s) (Quiet.ite (Quiet.refl s) ?_)
  exact Quiet.ite ⟨rfl, rfl, rfl, rfl, rfl, rfl, rfl, rfl⟩ ⟨rfl, rfl, rfl, rfl, rfl, rfl, rfl, rfl⟩

/-- The name an operation gives to its records is put back when its work is done. -/
theorem withOp_opNow (code : Nat) (f : State → State) (s : State) : (withOp code f s).cnt.opNow = s.cnt.opNow := rfl

theorem withOp_quiet {code : Nat} {f : State → State} {s : State} (h : ∀ t, Quiet t (f t)) : Quiet s (withOp code f s) :=
  Quiet.trans (Quiet.trans (onCnt_quiet s _) (h _)) (onCnt_quiet _ _)

theorem enterToll_quiet (s : State) (t : Toll) : Quiet s (enterToll s t) := by
  unfold enterToll
  refine Quiet.ite (onRel_quiet ..) (Quiet.trans ?_ (signal_quiet _ 0))
  exact (onRel_quiet s _).trans (raiseInt_quiet ..)

theorem fileToll_quiet (s : State) (t : Toll) : Quiet s (fileToll s t) := by
  have h (x : State) (f : Rel → Rel) (hx : Quiet s x) : Quiet s (x.onRel f) := hx.trans (onRel_quiet ..)
  unfold fileToll
  have hx : Quiet s (freshFree s).2 := onCnt_quiet ..
  exact Quiet.ite (h _ _ (h _ _ hx)) ((h _ _ hx).trans (enterToll_quiet _ _))

theorem putView_quiet (s : State) (m : Bool) (i j v : Nat) : Quiet s (putView s m i j v) := by
  unfold putView
  exact Quiet.ite (objSet_quiet ..) (Quiet.ite ⟨rfl, rfl, rfl, rfl, rfl, rfl, rfl, rfl⟩ ⟨rfl, rfl, rfl, rfl, rfl, rfl, rfl, rfl⟩)

theorem settleViews_quiet (s : State) (i j : Nat) : Quiet s (settleViews s i j) := by
  unfold settleViews
  dsimp only
  have h : ∀ v, Quiet s (if i = 0x3000 then s else objSet s i j v) := fun v => Quiet.ite (Quiet.refl s) (objSet_quiet ..)
  have h := h (restrictive i (mgmtView s i j) (dataView s i j))
  generalize (if i = 0x3000 then s else objSet s i j (restrictive i (mgmtView s i j) (dataView s i j))) = x at h ⊢
  split
  · exact h.trans ⟨rfl, rfl, rfl, rfl, rfl, rfl, rfl, rfl⟩
  · split
    · exact h
    · refine h.trans (Quiet.trans (Quiet.trans (Quiet.trans ?_ (objAdd_quiet ..)) (fileToll_quiet ..)) (signal_quiet ..))
      exact ⟨rfl, rfl, rfl, rfl, rfl, rfl, rfl, rfl⟩

theorem writeMgmtView_quiet (s : State) (i j v : Nat) : Quiet s (writeMgmtView s i j v) :=
  Quiet.trans (Quiet.ite ((putView_quiet ..).trans (putView_quiet ..)) (putView_quiet ..)) (settleViews_quiet ..)

theorem writeDataView_quiet (s : State) (i j v : Nat) : Quiet s (writeDataView s i j v) :=
  (putView_quiet s false i j v).trans (settleViews_quiet ..)

/-! ### Ports, tocsins, the stream -/

theorem portSet_quiet (s : State) (k : Nat) (p : Port) : Quiet s (portSet s k p) := onFab_quiet ..
theorem enqueueFlit_quiet (s : State) (k : Nat) (q : Queued) : Quiet s (enqueueFlit s k q) := portSet_quiet ..

/-- A port reads as it was written, every other port as before. -/
theorem portGet_portSet (s : State) (k j : Nat) (p : Port) : portGet (portSet s k p) j = if j = k then p else portGet s j := by
  simp [portGet, portSet, storeGet_set]

theorem forwardTocsin_quiet (s : State) (a b c : Nat) : Quiet s (forwardTocsin s a b c) :=
  Quiet.foldl (fun s k => enqueueFlit_quiet s k _) _ _

theorem sendTocsin_quiet (s : State) (a b c : Nat) : Quiet s (sendTocsin s a b c) :=
  Quiet.trans (Quiet.trans (emit_quiet ..) (forwardTocsin_quiet ..)) (onRel_quiet ..)

theorem openFrame_quiet (s : State) (k : Nat) (b : Bool) (c : List LinkControl) : Quiet s (openFrame s k b c) :=
  ⟨rfl, rfl, rfl, rfl, rfl, rfl, rfl, rfl⟩

theorem announceShutdown_quiet (s : State) : Quiet s (announceShutdown s) := Quiet.foldl (fun s k => openFrame_quiet s k false _) _ _

theorem assignSpares_quiet (s : State) : Quiet s (assignSpares s) := onRel_quiet ..

@[simp] theorem assignSpares_suspects (s : State) : (assignSpares s).rel.suspects = s.rel.suspects := rfl

theorem addSuspect_quiet (s : State) (a b : Nat) : Quiet s (addSuspect s a b) := by
  unfold addSuspect
  exact Quiet.ite (Quiet.refl s) (Quiet.trans (Quiet.trans (onRel_quiet ..) (objAdd_quiet ..)) (assignSpares_quiet _))

/-- Whoever is made a suspect is one (13 R356). -/
theorem addSuspect_mem (s : State) (a b : Nat) : (BitVec.ofNat 8 a, BitVec.ofNat 16 b) ∈ (addSuspect s a b).rel.suspects := by
  unfold addSuspect
  dsimp only
  split
  · rename_i h; simpa using h
  · simp [objAdd]

theorem stopStream_quiet (s : State) : Quiet s (stopStream s) := by
  unfold stopStream
  refine Quiet.ite (Quiet.refl s) (Quiet.trans ?_ (signal_quiet _ 3))
  exact ⟨rfl, rfl, rfl, rfl, rfl, rfl, rfl, rfl⟩

/-- After a stop the stream is stopped (03 R91). -/
theorem stopStream_running (s : State) : (stopStream s).seq.running = false := by
  unfold stopStream
  split
  · rename_i h; simpa using h
  · unfold signal; dsimp only; repeat' split
    all_goals rfl

end Sys2Proof.Machine
end

