-- ==== Sys2Proof/Laws/Memory.lean ====
section
/-! SUPPORT. Memory: what raw writes give, that every operation on it keeps its canonical form, and what a reader's decoding of a
code word can do (10 R241, 13 R341 to R349, R479). -/

namespace Sys2Proof.Machine

/-! ### Keeping the invariant -/

/-- The queue stays, and the invariant is kept. -/
def Keeps (s t : State) : Prop := t.pending = s.pending ∧ (s.Inv → t.Inv)

theorem Keeps.refl (s : State) : Keeps s s := ⟨rfl, id⟩
theorem Keeps.trans {s t u : State} (h : Keeps s t) (k : Keeps t u) : Keeps s u := ⟨k.1.trans h.1, fun i => k.2 (h.2 i)⟩
theorem Quiet.keeps {s t : State} (h : Quiet s t) : Keeps s t := ⟨h.1, h.inv⟩

theorem Keeps.foldl {β : Type} {f : State → β → State} (h : ∀ s x, Keeps s (f s x)) (l : List β) (s : State) :
    Keeps s (l.foldl f s) := by
  induction l generalizing s with
  | nil => exact Keeps.refl s
  | cons x r ih => exact (h s x).trans (ih _)

theorem Keeps.ite {s a b : State} {c : Prop} [Decidable c] (h : Keeps s a) (k : Keeps s b) : Keeps s (if c then a else b) := by
  split <;> assumption

/-- The same of a choice between pairs of a state and an answer. -/
theorem Keeps.iteFst {β : Type} {s : State} {a b : State × β} {c : Prop} [Decidable c] (h : Keeps s a.1) (k : Keeps s b.1) :
    Keeps s (if c then a else b).1 := by
  split <;> assumption

theorem setX_keeps (s : State) (r : Nat) (v : W64) : Keeps s (setX s r v) := by
  refine ⟨?_, setX_inv s r v⟩
  unfold setX; split <;> rfl

theorem setF_keeps (s : State) (r : Nat) (v : W64) : Keeps s (setF s r v) := ⟨rfl, setF_inv s r v⟩

/-! ### The code -/

/-- A sum of bits at distinct places below 2^n. -/
theorem bitSum_lt (f : Nat → Nat) (n : Nat) : ((List.range n).map fun k => f k % 2 * 2 ^ k).sum < 2 ^ n := by
  induction n with
  | zero => simp
  | succ n ih =>
    simp only [List.range_succ, List.map_append, List.sum_append, List.map_cons, List.map_nil, List.sum_cons, List.sum_nil]
    rcases Nat.mod_two_eq_zero_or_one (f n) with h | h <;> rw [h, Nat.pow_succ] <;> omega

/-- Each bit of such a sum is its own place's. -/
theorem bitSum_testBit (f : Nat → Nat) (n i : Nat) (hi : i < n) :
    (((List.range n).map fun k => f k % 2 * 2 ^ k).sum).testBit i = decide (f i % 2 = 1) := by
  induction n with
  | zero => omega
  | succ n ih =>
    simp only [List.range_succ, List.map_append, List.sum_append, List.map_cons, List.map_nil, List.sum_cons, List.sum_nil]
    rw [Nat.add_zero, Nat.add_comm, Nat.mul_comm, Nat.testBit_two_pow_mul_add _ (bitSum_lt f n)]
    split
    · exact ih ‹_›
    · have : i = n := by omega
      subst this
      simp [Nat.testBit, Nat.and_one_is_mod, Nat.and_comm 1]
      rcases Nat.mod_two_eq_zero_or_one (f i) with h | h <;> simp [h]

/-- Bit i of a syndrome is the parity of the word's bits under row i of H. -/
theorem syndrome_bit (w : BitVec 144) (i : Nat) (hi : i < 16) :
    (syndrome w).getLsbD i = decide (((List.range 144).countP fun j => hBit i j && w.getLsbD j) % 2 = 1) := by
  unfold syndrome
  rw [BitVec.getLsbD_ofNat, bitSum_testBit _ 16 i hi]
  simp [hi]

/-- A row of H counts the data bits under it and its own check bit. -/
theorem rowCount_append (c : BitVec 16) (d : W128) (i : Nat) (hi : i < 16) :
    ((List.range 144).countP fun j => hBit i j && (c ++ d).getLsbD j)
      = ((List.range 128).countP fun j => hBit i j && d.getLsbD j) + (c.getLsbD i).toNat := by
  rw [show (144 : Nat) = 128 + 16 from rfl, List.range_add, List.countP_append, List.countP_map]
  congr 1
  · refine List.countP_congr fun j hj => ?_
    have : j < 128 := List.mem_range.mp hj
    rw [BitVec.getLsbD_append, if_pos this]
  · have e : ((fun j => hBit i j && (c ++ d).getLsbD j) ∘ fun x => 128 + x) = fun k => decide (k = i) && c.getLsbD i := by
      funext k
      have g : ¬128 + k < 128 := by omega
      simp only [Function.comp, hBit, BitVec.getLsbD_append, if_neg g, Nat.add_sub_cancel_left]
      by_cases h : k = i
      · subst h; simp
      · simp [h]
    rw [e]
    cases c.getLsbD i
    · simp
    · simp only [Bool.and_true, Bool.toNat_true]
      rw [show (fun k => decide (k = i)) = (fun k => k == i) from by funext k; simp [BEq.beq], ← List.count]
      have : List.count i (List.range 16) = 1 := by
        rcases i with _|_|_|_|_|_|_|_|_|_|_|_|_|_|_|_|i <;> first | rfl | omega
      exact this

/-- The syndrome of check bits c beside data d is H·d + c. -/
theorem syndrome_append (c : BitVec 16) (d : W128) : syndrome (c ++ d) = checkBits d ^^^ c := by
  refine BitVec.eq_of_getLsbD_eq fun i hi => ?_
  have e : d.setWidth 144 = (0 : BitVec 16) ++ d := by
    refine BitVec.eq_of_getLsbD_eq fun j hj => ?_
    rw [BitVec.getLsbD_append, BitVec.getLsbD_setWidth]
    by_cases h : j < 128
    · simp [h, hj]
    · simp [h, BitVec.getLsbD_of_ge d j (by omega)]
  rw [BitVec.getLsbD_xor, checkBits, e, syndrome_bit _ i hi, syndrome_bit _ i hi, rowCount_append _ _ i hi, rowCount_append _ _ i hi]
  generalize ((List.range 128).countP fun j => hBit i j && d.getLsbD j) = n
  cases c.getLsbD i <;> rcases Nat.mod_two_eq_zero_or_one n with h | h <;> simp [h, Nat.add_mod]

/-- A stored word has the syndrome that its mark says: none of a good word, that of the error otherwise (13 R341). -/
theorem syndrome_storedWord (d : W128) (k : BitVec 5) (y : BitVec 16) :
    syndrome (storedWord d .good) = 0 ∧ syndrome (storedWord d (.corrected k y)) = y ∧ syndrome (storedWord d (.uncorrectable y)) = y := by
  simp only [storedWord, syndrome_append]
  refine ⟨BitVec.xor_self, ?_, ?_⟩ <;> rw [← BitVec.xor_assoc, BitVec.xor_self, BitVec.zero_xor]

/-- The poison word of every code has the syndrome 5A5Ah, whatever H is (13 Table 13-1). -/
theorem syndrome_poison (d : W128) : syndrome (storedWord d .poison) = 0x5A5A := by
  simp only [storedWord, syndrome_append]
  have : checkBits 0 = 0 := by
    refine BitVec.eq_of_getLsbD_eq fun i hi => ?_
    rw [checkBits, syndrome_bit _ i hi]
    simp
  rw [this]; rfl

/-! ### Raw bytes and marks -/

/-- Raw bytes: the last byte written at an address stands, every other address reads as before. -/
theorem memGet_pokeBytes (s : State) (bs : List (Nat × Byte)) (a : Nat) :
    memGet (pokeBytes s bs) a = match bs.reverse.find? (fun b => decide (b.1 = a)) with
      | some b => b.2
      | none => memGet s a := by
  refine (storeGet_foldl 0 (fun b : Nat × Byte => b.1) (fun b => b.2) bs s.mem a).trans ?_
  cases bs.reverse.find? (fun b => decide (b.1 = a)) <;> rfl

theorem markGet_setMark (s : State) (w v : Nat) (m : Mark) : markGet (setMark s w m) v = if v = w then m else markGet s v := by
  simp [markGet, setMark, storeGet_set]

@[simp] theorem memGet_setMark (s : State) (w : Nat) (m : Mark) (a : Nat) : memGet (setMark s w m) a = memGet s a := rfl
@[simp] theorem markGet_pokeBytes (s : State) (bs : List (Nat × Byte)) (w : Nat) : markGet (pokeBytes s bs) w = markGet s w := rfl

theorem setMark_keeps (s : State) (w : Nat) (m : Mark) : Keeps s (setMark s w m) :=
  ⟨rfl, fun ⟨a, b, c⟩ => ⟨a, storeWf_set _ _ _ _ b, c⟩⟩

theorem pokeBytes_keeps (s : State) (bs : List (Nat × Byte)) : Keeps s (pokeBytes s bs) :=
  ⟨rfl, fun ⟨a, b⟩ => ⟨storeWf_foldl 0 (fun x : Nat × Byte => x.1) (fun x => x.2) bs s.mem a, b⟩⟩

theorem zeroWord_keeps (s : State) (w : Nat) : Keeps s (zeroWord s w) := (pokeBytes_keeps ..).trans (setMark_keeps ..)
theorem poisonWord_keeps (s : State) (w : Nat) : Keeps s (poisonWord s w) := (pokeBytes_keeps ..).trans (setMark_keeps ..)

/-- A poisoned word is marked so, and its bytes are zero. -/
theorem poisonWord_mark (s : State) (w v : Nat) : markGet (poisonWord s w) v = if v = w then .poison else markGet s v := by
  simp [poisonWord, markGet_setMark]

theorem clearPoisonList_keeps (s : State) : Keeps s (clearPoisonList s) :=
  Keeps.trans (Keeps.foldl (fun s a => zeroWord_keeps s (a / 16)) _ _) (onRel_quiet ..).keeps

theorem clearScratch_keeps (s : State) : Keeps s (clearScratch s) :=
  ⟨rfl, fun ⟨a, b, c⟩ => ⟨storeWf_filter (0 : Byte) (fun a => !(inScratch a)) s.mem a,
    storeWf_filter Mark.good (fun w => !(inScratch (16 * w))) s.marks b, c⟩⟩

theorem loseAllDomains_pending (s : State) : (loseAllDomains s).pending = s.pending := by
  unfold loseAllDomains
  simp only [objSet_pending]
  split
  · exact (objAdd_quiet ..).1
  · rfl

theorem loseAllDomains_mem (s : State) : (loseAllDomains s).mem = [] := rfl
theorem loseAllDomains_marks (s : State) : (loseAllDomains s).marks = [] := rfl
theorem loseAllDomains_cache (s : State) : (loseAllDomains s).cache = [] := rfl
theorem loseAllDomains_sc (s : State) : (loseAllDomains s).sc = ⟨[], []⟩ := rfl

/-- Losing every domain but AON empties memory and the register files. -/
theorem loseAllDomains_keeps (s : State) : Keeps s (loseAllDomains s) := by
  refine ⟨loseAllDomains_pending s, fun _ => ?_⟩
  simp only [State.Inv, loseAllDomains_mem, loseAllDomains_marks, loseAllDomains_sc, loseAllDomains_cache]
  exact ⟨rfl, rfl, rfl, rfl, rfl, rfl, fun _ => Nat.zero_le _⟩

theorem loseAllDomains_domains (s : State) : (loseAllDomains s).power.domains = 1 := rfl

theorem clearJob_keeps (s : State) : Keeps s (clearJob s) := by
  refine Keeps.trans (clearScratch_keeps s) ⟨rfl, fun h => h⟩

theorem finishJob_keeps (s : State) : Keeps s (finishJob s) := by
  unfold finishJob
  exact Keeps.ite (((onRel_quiet ..).keeps.trans (clearJob_keeps _)).trans (clearPoisonList_keeps _)) (Keeps.refl s)

theorem consumePoison_keeps (s : State) (op d : Nat) : Keeps s (consumePoison s op d) := by
  unfold consumePoison
  refine Keeps.ite (objAdd_quiet ..).keeps (Keeps.ite ?_ ?_)
  · refine Keeps.trans ?_ (finishJob_keeps _)
    exact Quiet.keeps (((((objAdd_quiet ..).trans (onRel_quiet ..)).trans (stopStream_quiet _)).trans (fileToll_quiet ..)).trans
      (sendTocsin_quiet ..))
  · exact Keeps.trans (Quiet.keeps ((objAdd_quiet ..).trans (fileToll_quiet ..))) (clearPoisonList_keeps _)

theorem resetContainment_keeps (s : State) : Keeps s (resetContainment s) := by
  unfold resetContainment
  refine Keeps.trans (Quiet.keeps ?_) (loseAllDomains_keeps _)
  have h := ((fileToll_quiet s { tollOf 5 3 0 with flags := 8 }).trans (sendTocsin_quiet _ 5 0 5)).trans (announceShutdown_quiet _)
  exact Quiet.ite (h.trans (emit_quiet ..)) h

theorem guardReset_keeps {s a : State} (b : State) (h : Keeps s a) : Keeps s (guardReset b a) := by
  unfold guardReset
  exact Keeps.ite (h.trans (loseAllDomains_keeps _)) h

/-- Where the power domains stand, a step is not cut short. -/
theorem guardReset_same (b a : State) (h : a.power.domains = b.power.domains) : guardReset b a = a := by
  simp [guardReset, h]

/-! ### The memory-side caches (10 R251) -/

/-- What an access can change on its way through a cache: the lines held, the counts of the dictionary, the next free value. -/
def CacheOnly (s t : State) : Prop :=
  ∃ c d k, t = { s with cache := c, dict := d, cnt := { s.cnt with free := k } }

theorem CacheOnly.refl (s : State) : CacheOnly s s := ⟨s.cache, s.dict, s.cnt.free, rfl⟩

theorem CacheOnly.trans {s t u : State} (h : CacheOnly s t) (k : CacheOnly t u) : CacheOnly s u := by
  obtain ⟨c, d, n, rfl⟩ := h
  obtain ⟨c', d', n', rfl⟩ := k
  exact ⟨c', d', n', rfl⟩

theorem traffic_only (s : State) (l : Nat) (w : Bool) (n : Nat) : CacheOnly s (traffic s l w n) := ⟨_, _, _, rfl⟩

theorem missTraffic_only (s : State) (l : Nat) (w : Bool) (h n : Nat) : CacheOnly s (missTraffic s l w h n) := by
  unfold missTraffic
  split
  · exact traffic_only ..
  · split
    · exact CacheOnly.refl s
    · exact traffic_only ..

@[simp] theorem traffic_cache (s : State) (l : Nat) (w : Bool) (n : Nat) : (traffic s l w n).cache = s.cache := rfl

@[simp] theorem missTraffic_cache (s : State) (l : Nat) (w : Bool) (h n : Nat) : (missTraffic s l w h n).cache = s.cache := by
  unfold missTraffic
  split
  · rfl
  · split <;> rfl

theorem evictLine_cache (s : State) (e : Nat × CacheLine) : (evictLine s e).cache = storeErase s.cache e.1 := by
  unfold evictLine
  cases e.2.dirty <;> rfl

theorem evictLine_only (s : State) (e : Nat × CacheLine) : CacheOnly s (evictLine s e) := by
  unfold evictLine
  cases e.2.dirty <;> exact ⟨_, _, _, rfl⟩

theorem cacheRoom_only (s : State) (l : Nat) : CacheOnly s (cacheRoom s l) := by
  unfold cacheRoom
  split
  · exact CacheOnly.refl s
  · dsimp only
    split
    · exact CacheOnly.refl s
    · exact CacheOnly.trans (t := (freshFree s).2) ⟨_, _, _, rfl⟩ (evictLine_only ..)

theorem putLine_only (s : State) (l : Nat) (c : CacheLine) : CacheOnly s (putLine s l c) := ⟨_, s.dict, s.cnt.free, rfl⟩

/-- An access to a line changes the cache, its counts and the next free value, and nothing else. -/
theorem touchLine_only (w : Bool) (h : Nat) (z : Nat → Nat) (s : State) (l : Nat) : CacheOnly s (touchLine w h z s l) := by
  unfold touchLine
  dsimp only
  split
  · exact CacheOnly.refl s
  · split
    · exact ⟨_, _, _, rfl⟩
    · have k : CacheOnly s (missTraffic (objAdd s 0x7220 6 1) l w h (z l)) :=
        CacheOnly.trans (t := objAdd s 0x7220 6 1) ⟨_, _, _, rfl⟩ (missTraffic_only ..)
      split
      · exact k
      · exact (k.trans (cacheRoom_only ..)).trans (putLine_only ..)

theorem CacheOnly.touch (w : Bool) (h : Nat) (z : Nat → Nat) (ls : List Nat) (s : State) : CacheOnly s (ls.foldl (touchLine w h z) s) := by
  induction ls generalizing s with
  | nil => exact CacheOnly.refl s
  | cons l r ih => exact (touchLine_only w h z s l).trans (ih _)

theorem useCache_only (s : State) (a n : Nat) (w : Bool) (h : Nat) : CacheOnly s (useCache s a n w h) := by
  unfold useCache
  split
  · exact CacheOnly.touch ..
  · exact CacheOnly.refl s

theorem writeThrough_only (s : State) (l : List Nat) (h : Nat) : CacheOnly s (writeThrough s l h) := CacheOnly.touch ..

/-- A span outside clay and marl does not pass through a cache. -/
theorem useCache_out (s : State) (a n : Nat) (w : Bool) (h : Nat) (ha : 2 ^ 42 ≤ a) : useCache s a n w h = s := by
  have : cachedLine (a / 128) = false := decide_eq_false (by omega)
  simp only [useCache, this, Bool.false_eq_true, if_false]

/-- Bytes outside clay and marl do not pass through a cache. -/
theorem writeThrough_out (s : State) (l : List Nat) (h : Nat) (hl : ∀ a ∈ l, 2 ^ 42 ≤ a) : writeThrough s l h = s := by
  have key : ∀ (z : Nat → Nat) (ls : List Nat) (s : State), (∀ x ∈ ls, ¬ x < 2 ^ 35) → ls.foldl (touchLine true h z) s = s := by
    intro z ls
    induction ls with
    | nil => intro s _; rfl
    | cons x r ih =>
      intro s hx
      have hc : cachedLine x = false := decide_eq_false (hx x (by simp))
      have hh : touchLine true h z s x = s := by simp only [touchLine, hc, Bool.not_false, if_true]
      rw [List.foldl_cons, hh]
      exact ih s fun y hy => hx y (by simp [hy])
  refine key _ _ s fun x hx => ?_
  rw [List.mem_eraseDups, List.mem_map] at hx
  obtain ⟨a, ha, rfl⟩ := hx
  have := hl a ha
  omega

theorem lineMates_cons (e : Nat × CacheLine) (r : Store CacheLine) (l : Nat) :
    (lineMates (e :: r) l).length = (lineMates r l).length + (if lineSet e.1 = lineSet l then 1 else 0) := by
  unfold lineMates
  by_cases h : lineSet e.1 = lineSet l <;> simp [h]

/-- The entries of a set after one of its lines goes. -/
theorem cacheSet_erase (c : Store CacheLine) (k l : Nat) : (lineMates (storeErase c k) l).length ≤ (lineMates c l).length := by
  induction c with
  | nil => exact Nat.le_refl _
  | cons e r ih =>
    obtain ⟨k', v⟩ := e
    by_cases h : k' = k
    · simp only [storeErase, h, if_true, lineMates_cons]
      omega
    · simp only [storeErase, h, if_false, lineMates_cons]
      omega

/-- A line that the cache holds leaves its set one shorter. -/
theorem cacheSet_erase_held (c : Store CacheLine) (k l : Nat) (h : ∃ e ∈ c, e.1 = k) (hl : lineSet k = lineSet l) :
    (lineMates (storeErase c k) l).length + 1 ≤ (lineMates c l).length := by
  induction c with
  | nil => obtain ⟨_, he, _⟩ := h; simp at he
  | cons e r ih =>
    obtain ⟨k', v⟩ := e
    by_cases hk : k' = k
    · have := cacheSet_erase r k l
      simp only [storeErase, hk, if_true, lineMates_cons, hl]
      omega
    · have h' : ∃ e ∈ r, e.1 = k := by
        obtain ⟨x, hx, hx2⟩ := h
        rcases List.mem_cons.mp hx with rfl | hx
        · exact absurd hx2 hk
        · exact ⟨x, hx, hx2⟩
      have := ih h'
      simp only [storeErase, hk, if_false, lineMates_cons]
      omega

theorem cacheSet_insert (c : Store CacheLine) (k l : Nat) (v : CacheLine) :
    (lineMates (storeInsert c k v) l).length = (lineMates c l).length + (if lineSet k = lineSet l then 1 else 0) := by
  induction c with
  | nil => simp [storeInsert, lineMates_cons]
  | cons e r ih =>
    obtain ⟨k', w⟩ := e
    by_cases hk : k < k'
    · simp only [storeInsert, hk, if_true, lineMates_cons]
    · simp only [storeInsert, hk, if_false, lineMates_cons, ih]
      omega

/-- A line set in a cache leaves every set within its ways, if its own set has room once the line's old entry is gone. -/
theorem CacheWays.set {c : Store CacheLine} (k : Nat) (v : CacheLine) (h : CacheWays c)
    (hk : (lineMates (storeErase c k) k).length ≤ 15) :
    CacheWays (storeSet noLine c k v) := by
  intro l
  unfold storeSet
  split
  · exact Nat.le_trans (cacheSet_erase c k l) (h l)
  · rw [cacheSet_insert]
    split
    · rename_i hl
      have : lineMates (storeErase c k) k = lineMates (storeErase c k) l := by simp [lineMates, hl]
      rw [this] at hk
      omega
    · exact Nat.le_trans (cacheSet_erase c k l) (h l)

theorem storeGet_mem {α : Type} (d : α) (c : Store α) (k : Nat) (h : storeGet d c k ≠ d) : ∃ e ∈ c, e.1 = k := by
  induction c with
  | nil => exact absurd rfl h
  | cons e r ih =>
    obtain ⟨k', v⟩ := e
    by_cases hk : k' = k
    · exact ⟨(k', v), by simp, hk⟩
    · simp only [storeGet, hk, if_false] at h
      obtain ⟨x, hx, hx2⟩ := ih h
      exact ⟨x, by simp [hx], hx2⟩

theorem lineVictims_mem {c : Store CacheLine} {l : Nat} {x : Nat × CacheLine} (h : x ∈ lineVictims c l) :
    x ∈ c ∧ lineSet x.1 = lineSet l := by
  unfold lineVictims at h
  dsimp only at h
  split at h
  · simpa [lineMates] using h
  · simp only [lineMates, List.mem_filter, decide_eq_true_eq] at h
    exact h.1

theorem lineVictims_pos {c : Store CacheLine} {l : Nat} (h : 0 < (lineMates c l).length) : 0 < (lineVictims c l).length := by
  unfold lineVictims
  dsimp only
  split
  · exact h
  · rename_i he
    exact List.length_pos_iff.mpr (by simpa using he)

/-- Room is made: the caches keep their form, and the set of the line has a way free. -/
theorem cacheRoom_ways (s : State) (l : Nat) (hw : storeWf noLine s.cache = true) (h : CacheWays s.cache) :
    storeWf noLine (cacheRoom s l).cache = true ∧ CacheWays (cacheRoom s l).cache
      ∧ (lineMates (cacheRoom s l).cache l).length ≤ 15 := by
  unfold cacheRoom
  split
  · rename_i hm
    refine ⟨hw, h, ?_⟩
    have : (lineMates s.cache l).length ≤ s.cache.length := List.length_filter_le _ _
    omega
  · rename_i hm
    dsimp only
    split
    · rename_i hn
      rw [List.getElem?_eq_none_iff] at hn
      have hp := lineVictims_pos (by omega : 0 < (lineMates s.cache l).length)
      exact absurd (Nat.mod_lt (freshFree s).1.toNat hp) (by omega)
    · rename_i e he
      obtain ⟨hmem, hset⟩ := lineVictims_mem (List.mem_of_getElem? he)
      rw [evictLine_cache, freshFree_cache]
      have hwf : storeWf noLine (storeErase s.cache e.1) = true := by
        simpa [storeSet] using storeWf_set noLine s.cache e.1 noLine hw
      refine ⟨hwf, fun m => Nat.le_trans (cacheSet_erase ..) (h m), ?_⟩
      have := cacheSet_erase_held s.cache e.1 l ⟨e, hmem, rfl⟩ hset
      have := h l
      omega

/-- What an access to a line leaves: a hit stays held and takes the write; a miss is held unless its hint is no-allocate. -/
theorem touchLine_line (w : Bool) (h : Nat) (z : Nat → Nat) (s : State) (l : Nat) (hc : cachedLine l = true) :
    lineGet (touchLine w h z s l) l = if (lineGet s l).held then ⟨true, (lineGet s l).dirty || w, false⟩
      else if h = 1 then lineGet s l else ⟨true, w, decide (h = 2)⟩ := by
  unfold touchLine
  simp only [hc, Bool.not_true, Bool.false_eq_true, if_false]
  split
  · simp [lineGet, putLine]
  · split
    · simp only [lineGet, missTraffic_cache]; rfl
    · simp [lineGet, putLine]

/-- A line put where its set has room keeps the form of the caches and their ways. -/
theorem putLine_ways {s : State} (l : Nat) (c : CacheLine) (hw : storeWf noLine s.cache = true) (h : CacheWays s.cache)
    (hl : (lineMates (storeErase s.cache l) l).length ≤ 15) :
    storeWf noLine (putLine s l c).cache = true ∧ CacheWays (putLine s l c).cache :=
  ⟨storeWf_set noLine s.cache l c hw, h.set l c hl⟩

theorem touchLine_ways (w : Bool) (h : Nat) (z : Nat → Nat) (s : State) (l : Nat) (hw : storeWf noLine s.cache = true) (hs : CacheWays s.cache) :
    storeWf noLine (touchLine w h z s l).cache = true ∧ CacheWays (touchLine w h z s l).cache := by
  unfold touchLine
  dsimp only
  split
  · exact ⟨hw, hs⟩
  · split
    · rename_i hh
      refine putLine_ways (s := objAdd s 0x7220 5 1) l _ hw hs ?_
      have hm : ∃ x ∈ s.cache, x.1 = l := by
        refine storeGet_mem noLine s.cache l fun hc => ?_
        rw [lineGet, hc] at hh
        exact absurd hh (by decide)
      have := cacheSet_erase_held s.cache l l hm rfl
      have := hs l
      show (lineMates (storeErase s.cache l) l).length ≤ 15
      omega
    · split
      · rw [missTraffic_cache]; exact ⟨hw, hs⟩
      · have hr := cacheRoom_ways (missTraffic (objAdd s 0x7220 6 1) l w h (z l))
          l (by rw [missTraffic_cache]; exact hw) (by rw [missTraffic_cache]; exact hs)
        exact putLine_ways l _ hr.1 hr.2.1 (Nat.le_trans (cacheSet_erase ..) hr.2.2)

/-- An access to a line keeps the invariant. -/
theorem touchLine_keeps (w : Bool) (h : Nat) (z : Nat → Nat) (s : State) (l : Nat) : Keeps s (touchLine w h z s l) := by
  obtain ⟨c, d, k, e⟩ := touchLine_only w h z s l
  refine ⟨by rw [e], fun hi => ?_⟩
  obtain ⟨i1, i2, i3, i4, i5, i6, i7⟩ := hi
  have hs := touchLine_ways w h z s l i6 i7
  rw [e] at hs ⊢
  exact ⟨i1, i2, i3, i4, i5, hs⟩

theorem useCache_keeps (s : State) (a n : Nat) (w : Bool) (h : Nat) : Keeps s (useCache s a n w h) := by
  unfold useCache
  split
  · exact Keeps.foldl (fun s l => touchLine_keeps w h _ s l) _ _
  · exact Keeps.refl s

theorem writeThrough_keeps (s : State) (l : List Nat) (h : Nat) : Keeps s (writeThrough s l h) :=
  Keeps.foldl (fun s l => touchLine_keeps true h _ s l) _ _

/-! ### Code words (13 R342 to R344) -/

theorem addSuspectRow_quiet (s : State) (c u r : Nat) : Quiet s (addSuspectRow s c u r) := by
  unfold addSuspectRow
  exact Quiet.trans (Quiet.ite (Quiet.refl s) (onRel_quiet ..)) (addSuspect_quiet ..)

theorem poisonCreated_keeps (s : State) (w : Nat) (synd : BitVec 16) (k : Nat) : Keeps s (poisonCreated s w synd k) := by
  unfold poisonCreated
  refine Keeps.ite ((objAdd_quiet ..).keeps.trans (resetContainment_keeps _)) ?_
  refine Keeps.trans ?_ (addSuspectRow_quiet ..).keeps
  refine Keeps.trans ?_ (fileToll_quiet ..).keeps
  have h := (objAdd_quiet s 0x7410 2 1).keeps.trans (poisonWord_keeps _ w)
  exact Keeps.ite (h.trans (onRel_quiet ..).keeps) (h.trans (objAdd_quiet ..).keeps)

theorem summaryToll_quiet (s : State) (r : UnitRep) : Quiet s (summaryToll s r) := fileToll_quiet ..

theorem reportCorrection_quiet (s : State) (c u : Nat) (a k : W64) (r f : Nat) (m : BitVec 5) (y : BitVec 16) :
    Quiet s (reportCorrection s c u a k r f m y) := by
  unfold reportCorrection
  dsimp only
  have h := objAdd_quiet s 0x7410 1 1
  split
  · exact (h.trans (onRel_quiet ..)).trans (fileToll_quiet ..)
  · rename_i rep _
    have h1 : ∀ c : Bool, Quiet s (if c = true then summaryToll (objAdd s 0x7410 1 1) rep else objAdd s 0x7410 1 1) :=
      fun c => Quiet.ite (h.trans (summaryToll_quiet ..)) h
    refine Quiet.ite (Quiet.trans ?_ (addSuspectRow_quiet ..)) ?_ <;>
      exact Quiet.ite (((h1 _).trans (onRel_quiet ..)).trans (fileToll_quiet ..)) ((h1 _).trans (onRel_quiet ..))

/-- A reader's decoding of a word keeps the invariant. -/
theorem decodeWord_keeps (s : State) (w k : Nat) : Keeps s (decodeWord s w k).1 := by
  unfold decodeWord
  split
  · exact Keeps.refl s
  · split
    · exact Keeps.refl s
    · exact Quiet.keeps ((onRel_quiet ..).trans (reportCorrection_quiet ..))
  · exact poisonCreated_keeps ..
  · exact Keeps.refl s

/-- A good word is delivered and changes nothing. -/
theorem decodeWord_good (s : State) (w k : Nat) (h : markGet s w = .good) : decodeWord s w k = (s, false) := by
  simp [decodeWord, h]

/-- A poisoned word is delivered as poison and changes nothing. -/
theorem decodeWord_poison (s : State) (w k : Nat) (h : markGet s w = .poison) : decodeWord s w k = (s, true) := by
  simp [decodeWord, h]

theorem decodeWords_keeps (ws : List Nat) (k : Nat) (s : State) : Keeps s (decodeWords s ws k).1 := by
  induction ws generalizing s with
  | nil => exact Keeps.refl s
  | cons w r ih => exact (decodeWord_keeps s w k).trans (ih _)

/-- A span whose words are all good: nothing changes, and no poison. -/
theorem decodeWords_good (ws : List Nat) (k : Nat) (s : State) (h : ∀ w ∈ ws, markGet s w = .good) :
    decodeWords s ws k = (s, none) := by
  induction ws with
  | nil => rfl
  | cons w r ih =>
    have hw := decodeWord_good s w k (h w (by simp))
    have hr := ih fun v hv => h v (by simp [hv])
    simp [decodeWords, hw, hr]

theorem readBytes_keeps (s : State) (a n : Nat) : Keeps s (readBytes s a n).1 :=
  (useCache_keeps s a n false 0).trans (decodeWords_keeps ..)

/-- A span of good words reads as its raw bytes, and changes nothing but the cache it passes through. -/
theorem readBytes_good (s : State) (a n : Nat) (h : ∀ w ∈ wordsOf a n, markGet s w = .good) :
    readBytes s a n = (useCache s a n false 0, peekBytes s a n, false) := by
  obtain ⟨c, d, k, e⟩ := useCache_only s a n false 0
  have h' : ∀ w ∈ wordsOf a n, markGet (useCache s a n false 0) w = .good := by rw [e]; exact h
  have hp : peekBytes (useCache s a n false 0) a n = peekBytes s a n := by rw [e]; rfl
  simp [readBytes, decodeWords_good _ _ _ h', hp]

/-! ### Writing (13 R479) -/

theorem writeWord_keeps (s : State) (w : Nat) (u : List (Nat × Byte)) : Keeps s (writeWord s w u) := by
  unfold writeWord
  dsimp only
  split
  · exact ((pokeBytes_keeps ..).trans (setMark_keeps ..)).trans (onRel_quiet ..).keeps
  · split
    · exact (decodeWord_keeps s w 0).trans (objAdd_quiet ..).keeps
    · exact ((decodeWord_keeps s w 0).trans ((pokeBytes_keeps ..).trans (setMark_keeps ..))).trans (onRel_quiet ..).keeps

/-- A write to a good word stores its bytes and leaves the word good. -/
theorem writeWord_good (s : State) (w : Nat) (u : List (Nat × Byte)) (h : markGet s w = .good) :
    (writeWord s w u).mem = (pokeBytes s u).mem ∧ (writeWord s w u).marks = storeSet .good s.marks w .good := by
  unfold writeWord
  dsimp only
  split
  · exact ⟨rfl, rfl⟩
  · rw [decodeWord_good s w 0 h]
    exact ⟨rfl, rfl⟩

theorem storeBytes_keeps (s : State) (bs : List (Nat × Byte)) : Keeps s (storeBytes s bs) :=
  Keeps.foldl (fun s w => writeWord_keeps s w _) _ _

theorem writeBytes_keeps (s : State) (bs : List (Nat × Byte)) : Keeps s (writeBytes s bs) :=
  (writeThrough_keeps ..).trans (storeBytes_keeps ..)

/-- Bytes written outside clay and marl pass no cache. -/
theorem writeBytes_out (s : State) (bs : List (Nat × Byte)) (h : ∀ b ∈ bs, 2 ^ 42 ≤ b.1) : writeBytes s bs = storeBytes s bs := by
  unfold writeBytes
  rw [writeThrough_out s _ 0]
  intro a ha
  obtain ⟨b, hb, rfl⟩ := List.mem_map.mp ha
  exact h b hb

theorem spoilWord_keeps (s : State) (w : Nat) (b : Bool) : Keeps s (spoilWord s w b) := by
  unfold spoilWord
  dsimp only
  refine Keeps.ite (((poisonWord_keeps s w).trans (onRel_quiet ..).keeps).trans (onRel_quiet ..).keeps) (Keeps.ite ?_ ?_)
  · exact (decodeWord_keeps s w 0).trans (objAdd_quiet ..).keeps
  · exact ((decodeWord_keeps s w 0).trans (poisonWord_keeps _ w)).trans (onRel_quiet ..).keeps

theorem writeMarked_keeps (k : Nat) (s : State) (bs : List (Nat × Byte × Bool)) : Keeps s (writeMarked k s bs) :=
  ((writeThrough_keeps ..).trans (storeBytes_keeps ..)).trans (Keeps.foldl (fun s w => spoilWord_keeps s w _) _ _)

/-! ### Translation (03 R92 to R97) -/

theorem crossDie_keeps (s : State) (d a : Nat) : Keeps s (crossDie s d a) := by
  unfold crossDie
  dsimp only
  refine Keeps.ite (Keeps.refl s) (Keeps.ite (Keeps.ite (objAdd_quiet ..).keeps (Keeps.refl s)) (Keeps.ite ?_ (Keeps.refl s)))
  exact (objAdd_quiet ..).keeps.trans (Keeps.ite (resetContainment_keeps _) (fileToll_quiet ..).keeps)

theorem countCross_keeps (s : State) (d a : Nat) : Keeps s (countCross s d a) :=
  Keeps.ite (Keeps.refl s) (objAdd_quiet ..).keeps

theorem walkEntry_keeps (s : State) (u : Nat) (f : Bool) (lv : BitVec 2) (w : Bool) (l : Nat) (va : W64) (a : Nat) :
    Keeps s (walkEntry s u f lv w l va a).1 := by
  unfold walkEntry
  dsimp only
  have hc := (crossDie_keeps s (dieOfXlate u) a).trans (countCross_keeps _ (dieOfXlate u) a)
  refine Keeps.iteFst (Keeps.refl s) (Keeps.iteFst (Keeps.refl s) (Keeps.iteFst hc ?_))
  have h := hc.trans (readBytes_keeps _ a 8)
  exact Keeps.iteFst h (Keeps.ite (h.trans (onCtl_quiet ..).keeps) h)

/-- The walk of a translation keeps the invariant. -/
theorem walk_keeps (s : State) (u : Nat) (f : Bool) (r : Nat) (l : BitVec 2) (w : Bool) (va : W64) :
    Keeps s (walk s u f r l w va).1 := by
  unfold walk
  have h0 := walkEntry_keeps s u f l w 0 va (r + 8 * field va 51 39)
  split <;> rename_i heq
  · rw [heq] at h0; exact h0
  · rename_i s0 e0
    rw [heq] at h0
    split
    · exact h0
    · split
      · exact h0
      · have h1 := h0.trans (walkEntry_keeps s0 u f l w 1 va (field e0 47 12 * 4096 + 8 * field va 38 30))
        split <;> rename_i heq1
        · rw [heq1] at h1; exact h1
        · rename_i s1 e1
          rw [heq1] at h1
          split
          · exact h1
          · split
            · exact h1
            · split
              · exact h1
              · have h2 := h1.trans (walkEntry_keeps s1 u f l w 2 va (field e1 47 12 * 4096 + 8 * field va 29 21))
                split <;> rename_i heq2
                · rw [heq2] at h2; exact h2
                · rw [heq2] at h2
                  split
                  · exact h2
                  · split <;> exact h2

/-- Translating an address keeps the invariant. -/
theorem translate_keeps (s : State) (u : Nat) (l : BitVec 2) (va : W64) (w : Bool) : Keeps s (translate s u l va w).1 := by
  unfold translate
  split
  · split <;> exact Keeps.refl s
  · split
    · exact Keeps.refl s
    · split
      · split
        · exact (onCnt_quiet ..).keeps.trans (walk_keeps ..)
        · exact walk_keeps ..
      · exact walk_keeps ..

/-- At M level an address below 2^48 is its own translation, and nothing changes (03 R92). -/
theorem translate_machine (s : State) (u : Nat) (va : W64) (w : Bool) (h : va.toNat < 2 ^ 48) :
    translate s u 3 va w = (s, .ok va.toNat) := by
  unfold translate
  rw [if_pos rfl, if_pos h]

end Sys2Proof.Machine
end

