-- ==== Sys2Proof/Laws/Issue.lean ====
section
/-! SUPPORT. What the issue of one operation can do: take its fault, do nothing, or run. -/

namespace Sys2Proof.Machine

/-- An operation that reaches no slice violates no peal. -/
@[simp] theorem pealViolated_nil (s : State) : pealViolated s [] = s := by
  unfold pealViolated pealBroken
  split <;> simp

/-- With no peal running none is violated. -/
theorem pealViolated_quiet (s : State) (l : List Nat) (h : s.rel.running = none) : pealViolated s l = s := by
  unfold pealViolated pealBroken
  rw [h]

/-- With nothing in flight, or with no peal running, no operation in flight violates one. -/
theorem pealMeets_quiet (s : State) (h : s.rel.running = none ∨ s.work = []) : pealMeets s = s := by
  unfold pealMeets
  split
  · rfl
  · rename_i hr
    rcases h with h | h
    · rw [h] at hr; cases hr
    · simp [pealBroken, h, hr]

/-- A clk that is not withheld is the next one that exists for the stream (15 R400). -/
@[simp] theorem passWithheld_given (n : Nat) (s : State) (h : withheld s = false) : passWithheld n s = s := by
  cases n <;> simp [passWithheld, h]

/-- An operation whose issue-time condition holds: a running stream takes the fault. -/
theorem issueOne_faults (op : OpSem) (s : State) {c : Nat × Nat} (hw : withheld s = false) (h : op.cond s = some c)
    (hr : s.seq.running = true) : issueOne op s = takeFault s (opEvent s op c) := by simp [issueOne, hw, h, hr]

/-- An operation whose issue-time condition holds: a stopped stream does nothing. -/
theorem issueOne_stopped (op : OpSem) (s : State) {c : Nat × Nat} (hw : withheld s = false) (h : op.cond s = some c)
    (hr : s.seq.running = false) : issueOne op s = s := by simp [issueOne, hw, h, hr]

/-- An operation without a condition that is no return and takes no domain down runs, and takes an issue number. -/
theorem issueOne_runs (op : OpSem) (s : State) (hw : withheld s = false) (h : op.cond s = none) (hr : op.ret = false)
    (hd : (op.late (nextOp (op.run (pealViolated s (op.reach s))))).power.domains = s.power.domains) :
    issueOne op s = op.late (nextOp (op.run (pealViolated s (op.reach s)))) := by
  simp only [issueOne, passWithheld_given _ _ hw, hw, Bool.false_eq_true, if_false, h, hr]
  exact guardReset_same _ _ hd

end Sys2Proof.Machine
end

