-- ==== Sys2Proof/Tests/Slice0.lean ====
section
/-! SUPPORT. The author's own tests: ill-formed commands that the check of well-formedness refuses; values printed in the spec; and, for
every statement with hypotheses, states and operands that meet them. -/

namespace Sys2Proof.Tests

open Sys2Proof.Machine

/-! ### Ill-formed commands -/

def imm14 (n : Nat) : Imm := ⟨.w14, BitVec.ofNat 42 n⟩
def ve (i : Option Imm) : VeOps := ⟨1, 2, 3, 0, 0, false, 0, 0, i⟩
def flitOf (n : Nat) : Flit := ⟨List.replicate n 0, List.replicate n .good, true⟩
def frame0 (n : Nat) : Framing := ⟨0xF628, 1, 0, false, 0, 0, List.replicate n 0, false, 0, 0, 0, []⟩
def info (lanes : Nat) : TrainInfo := ⟨1, 1, 3, 0, 0, 0, false, 10, lanes⟩

/-- An immediate of 14 bits with bit 14 set is refused; the largest that fits is taken. -/
theorem test_wf_immediate : (Instr.addi 1 0 0 (imm14 0x4000)).wf = false ∧ (Instr.addi 1 0 0 (imm14 0x3FFF)).wf = true := by decide
theorem test_wf_lane_immediate :
    (Instr.veFadd (ve (some (imm14 0x4000)))).wf = false ∧ (Instr.veFadd (ve (some (imm14 7)))).wf = true
      ∧ (Instr.veFadd (ve none)).wf = true := by decide
theorem test_wf_flit : (Instr.frameReceived 0 (frame0 6) [flitOf 15]).wf = false
    ∧ (Instr.frameReceived 0 (frame0 6) [flitOf 16]).wf = true := by decide
theorem test_wf_framing : (Instr.frameReceived 0 (frame0 5) []).wf = false ∧ (Instr.frameReceived 0 (frame0 6) []).wf = true := by decide
theorem test_wf_frame_length : (Instr.frameReceived 0 (frame0 6) (List.replicate 17 (flitOf 16))).wf = false := by decide
theorem test_wf_ethernet_length : (Instr.ethernetFrameReceived 0 true 0 0 []).wf = false
    ∧ (Instr.ethernetFrameReceived 0 true 0 0 [flitOf 16]).wf = true := by decide
theorem test_wf_debug_slice : (Instr.jtagDebugAccess false (.lreg 160 0 0) 0).wf = false
    ∧ (Instr.jtagDebugAccess false (.bank 160 0 0) 0).wf = false ∧ (Instr.jtagDebugAccess false (.frag 160 0 0) 0).wf = false
    ∧ (Instr.jtagDebugAccess false (.lreg 159 0 0) 0).wf = true := by decide
theorem test_wf_debug_record : (Instr.jtagDebugAccess false (.toll 4096) 0).wf = false
    ∧ (Instr.jtagDebugAccess false (.trace 4096) 0).wf = false ∧ (Instr.jtagDebugAccess false (.toll 4095) 0).wf = true := by decide
theorem test_wf_dma_slice : (Instr.dmaAccept 160).wf = false ∧ (Instr.copy 160).wf = false ∧ (Instr.dmaRequestComplete 160 0).wf = false
    ∧ (Instr.dmaAccept 159).wf = true := by decide
theorem test_wf_training_lanes : (Instr.trainingStepDone 0 (info 17)).wf = false ∧ (Instr.trainingStepDone 0 (info 16)).wf = true := by
  decide
theorem test_wf_power_estimate : (Instr.powerEstimate [] (List.replicate 7 0) (List.replicate 16 0)).wf = false
    ∧ (Instr.powerEstimate [] (List.replicate 8 0) (List.replicate 15 0)).wf = false
    ∧ (Instr.powerEstimate [] (List.replicate 8 0) (List.replicate 16 0)).wf = true := by decide
theorem test_wf_thermal : (Instr.thermalSensorRead (List.replicate 47 0) (List.replicate 8 0)).wf = false
    ∧ (Instr.thermalSensorRead (List.replicate 48 0) (List.replicate 7 0)).wf = false
    ∧ (Instr.thermalSensorRead (List.replicate 48 0) (List.replicate 8 0)).wf = true := by decide
theorem test_wf_nonce : (Instr.challenge 0 [0]).wf = false ∧ (Instr.getMeasurements 0 [0]).wf = false
    ∧ (Instr.challenge 0 (List.replicate 32 0)).wf = true := by decide
theorem test_wf_segment : (Instr.segment .bmc 0 0 [1]).wf = false ∧ (Instr.segment .bmc 0 1 [1]).wf = true := by decide
theorem test_wf_host_memory : (Instr.hostMemoryRead 2 0 0).wf = false ∧ (Instr.hostMemoryWrite 2 0 []).wf = false
    ∧ (Instr.hostMemoryRead 2 0 1).wf = true ∧ (Instr.hostMemoryWrite 2 0 [1]).wf = true := by decide
theorem test_wf_link : (Instr.pcieLinkTrained 0 16).wf = false ∧ (Instr.pcieLinkTrained 7 16).wf = false
    ∧ (Instr.pcieLinkTrained 5 3).wf = false ∧ (Instr.pcieLinkTrained 5 16).wf = true := by decide

/-- No row of the table has bits: no word spells a command, and no word is placed. -/
theorem test_no_word_spells_a_command :
    decodeTableWord 0 0 = none ∧ decodeTableWord 32 0xFFFFFFFF = none ∧ State.reset.withFetchWord 16 1 = State.reset := by
  refine ⟨rfl, rfl, rfl⟩

/-! ### Values that the spec prints -/

/-- 13, worked example: logical slice 45 lies on physical slice 47, and the spare of its quarter is physical slice 62. -/
theorem test_slice_map : physSlice State.reset 45 = 47 ∧ spareSlice State.reset 2 = some 62 := by decide
/-- 05, worked example: 256 by 512 BF16 on a grid of 2 by 4 has blocks of 128 by 128 at a pitch of 256 bytes. -/
theorem test_tile_geometry :
    let word : W64 := BitVec.ofNat 64 (2 ^ 63 + 256 * 2 ^ 51 + 512 * 2 ^ 39 + 1 * 2 ^ 35 + 1 * 2 ^ 24)
    cfgGr word = 2 ∧ cfgGc word 8 = 4 ∧ cfgBr word = 128 ∧ cfgBc word 8 = 128 ∧ pitch 128 (codeWidth 1) = 256 := by decide
/-- 07, worked example: E4M3 with MG 1 takes exponent 6 for a maximum of 3.10 and 3 for 20.0. -/
theorem test_scale_policy : policy (f32 0x40466666) 3 1 0 = some 6 ∧ policy (f32 0x41A00000) 3 1 0 = some 3 := by decide
/-- 04 R103: a division by zero gives all ones, and its remainder the dividend. -/
theorem test_division_by_zero : divSigned 7 0 = 0xFFFFFFFFFFFFFFFF ∧ remSigned 7 0 = 7 ∧ divUnsigned 7 0 = 0xFFFFFFFFFFFFFFFF := by
  decide
/-- 04 R102: an addition wraps, and its result waits for the register that D names. -/
theorem test_add_wraps :
    (match exec (.addi 3 0 1 (imm14 0x3FFF)) State.reset with
      | .next t => t.work.map (·.act)
      | _ => []) = [.setX 3 0xFFFFFFFFFFFFFFFF] := by decide
/-- 15, worked example: over a cap of 1,200 W the mute rises by one, and at 1,200 W it stays. -/
theorem test_cap_controller :
    let s := State.reset.onPower fun p => { p with capMute := 1 }
    let s := objSet (objSet s 0x3010 1 1200) 0x3010 2 1200
    (capStep s 1395000).power.capMute = 2 ∧ (capStep s 1200000).power.capMute = 1 ∧ (capStep s 1163000).power.capMute = 0 := by decide

/-! ### States that meet the hypotheses of the statements -/

/-- The state after reset with the stream running. -/
def going : State := State.reset.onSeq fun q => { q with running := true }
/-- A device in D0 with every domain on, its steward up and the host's link trained. -/
def up : State :=
  { State.reset with
    power := { resetPower with state := 0, domains := BitVec.allOnes 32 }
    trust := { resetTrust with boot := 3, aliasOk := true, aliases := [{ cdi := [1], gen := 0, left := 1048576 }] }
    board := { resetBoard with p48v := true, aon := true, stwRdy := true }
    host := { resetHost with link := true, rate := 5, width := 16, perstHigh := true } }
def upGoing : State := up.onSeq fun q => { q with running := true }
/-- The clk is given in every state whose mute is 0, as it is in each state that a witness below builds for an operation. -/
theorem witness_clkGiven (s : State) (h : s.power.mute = 0) : Spec.clkGiven s := by simp [Spec.clkGiven, withheld, h]
theorem witness_clkGivenStates : ∀ s ∈ [State.reset, going, up, upGoing], withheld s = false := by decide
/-- With a byte of memory at address 5. -/
def oneByte : State := { State.reset with mem := [(5, 1)] }
def someInfo : TrainInfo := info 16
def key (n : BitVec 16) : Imm := ⟨.w14, n.setWidth 42⟩
def someModule : ModuleId := ⟨true, true, 1, [], [], 0, 0, 0, 0, true, true, true, 0, []⟩

theorem witness_ImmediateSyllables : (0 : Nat) ≤ 3 ∧ (3 : Nat) ≤ 3 ∧ (2 : Nat) < 3 := by decide
theorem witness_ImmediateTargets :
    let after := fun c => match exec c going with
      | .next t => t
      | _ => going
    going.seq.branch = none ∧ ((after (.br 0 0 0 0xFC00040)).seq.branch.map (·.target)) = some 0x40
      ∧ ((after (.brf 0 0 0 0xFC00040)).seq.branch.map (·.target)) = some 0x40
      ∧ (after (.loop 0 3 0xFC00040)).seq.depth = going.seq.depth + 1 ∧ going.cnt.stopAtMark = false
      ∧ (after (.mark 0xFFF1234)).cnt.angle = 0x1234 := by decide +kernel
theorem witness_EmptyQueuePassesOneClk : oneByte.Idle ∧ oneByte.fab.scanned ≤ oneByte.cnt.clk :=
  ⟨⟨⟨rfl, rfl, rfl, rfl, rfl, rfl, rfl, rfl, rfl, rfl, rfl, rfl, rfl⟩, rfl⟩, by decide⟩
theorem witness_StepKeepsInvariant : oneByte.Inv ∧ ∃ t, step oneByte = .next t :=
  ⟨⟨rfl, rfl, rfl, rfl, rfl, rfl, fun _ => Nat.zero_le _⟩, _, rfl⟩
theorem witness_PendingResultLands :
    let s := { State.reset with work := [{ due := 3, phase := 0, op := 0, res := [], act := .setX 4 9 }] }
    s.Still ∧ 1 ≤ 3 ∧ s.work = [{ due := s.cnt.clk + 3, phase := 0, op := 0, res := [], act := .setX 4 9 }] :=
  ⟨⟨rfl, rfl, rfl, rfl, rfl, rfl, rfl, rfl, rfl, rfl, rfl, rfl, rfl⟩, by decide, rfl⟩
theorem witness_DivisionCompletes : resBusy State.reset (resKey .divider 0) State.reset.cnt.clk = false := by decide
theorem witness_DividerTakeover :
    let k := resKey .divider 0
    let s := { State.reset with uses := [(k, ⟨7, 0, 20⟩)], cnt := { resetCount with clk := 5, op := 9 } }
    resBusy s k s.cnt.clk = true ∧ (storeGet ⟨0, 0, 0⟩ s.uses k).op = 7 ∧ 7 ≠ s.cnt.op := by decide
theorem witness_FpDivisionCompletes : resBusy State.reset (resKey .fpDivider 0) State.reset.cnt.clk = false := by decide
/-- Each clause of the conversions at the ends of its range. -/
theorem witness_FcvtSelectsConversion :
    let k := fun fn : BitVec 9 => ((fn >>> 1).setWidth 3 : BitVec 3)
    k 6 = 3 ∧ k 10 = 5 ∧ (k 0).toNat < 3 ∧ (k 5).toNat < 3 ∧ k 8 = 4 ∧ 6 ≤ (k 12).toNat ∧ 6 ≤ (k 15).toNat ∧ going.seq.running = true := by
  decide
theorem witness_ScalarMovesComplete :
    ∀ n ∈ [0x303, 0x510, 0x511, 0x513, 0x901, 0x904], condCtl false (immZ (key (BitVec.ofNat 16 n))) State.reset = none
      ∧ immZ (key (BitVec.ofNat 16 n)) = n ∧ (slotGet State.reset (selSlot State.reset)).marks = []
      ∧ (cueGet State.reset (selCue State.reset)).marks = [] := by decide +kernel
/-- Every register of the clauses, the ranges at both ends. -/
theorem witness_ControlWritesTakeEffect :
    ∀ n ∈ [0x104, 0x204, 0x20E, 0x610, 0x611, 0x300, 0x303, 0x500, 0x507, 0x600, 0x603, 0x400, 0x510, 0x620, 0x622, 0x700, 0x900, 0xD00],
      condCtl true n State.reset = none ∧ immZ (key (BitVec.ofNat 16 n)) = n := by decide
theorem witness_ControlWritesComplete :
    (∀ n ∈ [0x107, 0x109, 0x10E, 0x20F, 0x401, 0x508, 0x511, 0x513, 0x623, 0x711, 0x901, 0xD10], condCtl true n State.reset = none ∧ n ≠ 0xD02)
      ∧ ∀ k, (slotGet State.reset k).marks = [] := ⟨by decide, fun _ => rfl⟩
theorem witness_ControlAccessFaults :
    let low := going.onSeq fun q => { q with pl := 0 }
    going.seq.running = true ∧ low.seq.running = true ∧ immZ (key 0xFF) < 0x100 ∧ immZ (key 0x205) = 0x205 ∧ immZ (key 0x105) = 0x105
      ∧ low.seq.pl ≠ 3 ∧ low.seq.pl = 0 ∧ immZ (key 0x206) = 0x206 := by decide

/-- Operands of a short-vector operation on even registers. -/
def sv (qf : Bool) (es : BitVec 3) (fn : BitVec 4) : SvOps := ⟨4, 6, qf, es, 8, 10, fn⟩
theorem witness_VectorIntegerResults : (∀ q es, es < 4 → condV2 (sv q es 0) = none) ∧ (∀ q es, es < 4 → condV3 (sv q es 3) = none) := by decide
theorem witness_VectorNarrowing : 0 < 8 ∧ narrow 8 false false (-1) = 255 := by decide
theorem witness_VectorFpResults : (∀ es : BitVec 3, 1 ≤ es → es < 4 → condVf2 (sv true es 1) = none ∧ condVf3 (sv true es 0) = none) := by
  decide
theorem witness_VectorWideningResults : condVwmul (sv true 0 7) = none ∧ condVdot (sv true 1 4) = none ∧ condVdup (sv false 3 0) = none := by
  decide
theorem witness_VectorOperandFaults :
    going.seq.running = true ∧ (⟨5, 6, true, 0, 8, 10, 0⟩ : SvOps).vd.toNat % 2 = 1 ∧ 4 ≤ (sv false 4 0).es.toNat
      ∧ (sv false 2 12).es = 2 ∧ (((sv false 2 12).fn >>> 2).setWidth 2 : BitVec 2) = 3 := by decide
theorem witness_ScalarAccessIssues : 4 ≤ 2 ^ (((4 : BitVec 4) >>> 1).setWidth 2 : BitVec 2).toNat := by decide
theorem witness_FpAccessSizeFault : going.seq.running = true ∧ (3 : BitVec 4).getLsbD 2 = false := by decide
theorem witness_VectorAccessIssues : condVmem ⟨4, 7, true, 3, 0x3FFF⟩ = none ∧ condVmem ⟨5, 7, false, 0, 1⟩ = none := by decide
theorem witness_StoredBytesLand : oneByte.marks = [] := rfl
theorem witness_LaneResults : Spec.fromRegisters State.reset (ve none)
    ∧ ∀ p ∈ Spec.laneTable (ve none), condVe p.fn (ve none) = none := ⟨⟨rfl, rfl⟩, by decide⟩
theorem witness_LaneBroadcastsAndReductions :
    Spec.fromRegisters State.reset (ve none) ∧ condVe .bcst (ve none) = none ∧ condVe .iota (ve none) = none
      ∧ condVe .rsum (ve none) = none ∧ condVe .risum (ve none) = none
      ∧ (∀ sl ∈ members (groupMask State.reset 0), resBusy State.reset (resKey .reduction sl) State.reset.cnt.clk = false) :=
  ⟨⟨rfl, rfl⟩, by decide, by decide, by decide, by decide, by decide +kernel⟩
/-- The rattle operations take a key word of two syllables. -/
theorem witness_Rattle : let o := { ve (some ⟨.w28, 5⟩) with src := 2 }
    Spec.fromRegisters State.reset o ∧ condVe .rdrop o = none ∧ condVe .rmask o = none := ⟨⟨rfl, rfl⟩, by decide, by decide⟩
theorem witness_LaneConversions : let o := { ve (some ⟨.w14, 0x2600⟩) with src := 2 }
    Spec.fromRegisters State.reset o ∧ condVe .cvtn o = none ∧ condVe .cvtw o = none := ⟨⟨rfl, rfl⟩, by decide, by decide⟩
theorem witness_FunctionEvaluation : let o := { ve (some ⟨.w14, 63⟩) with src := 2 }
    Spec.fromRegisters State.reset o ∧ members (groupMask State.reset o.gn.toNat) ≠ [] ∧ condVe .feval o = none ∧ condVe .fdrv o = none :=
  ⟨⟨rfl, rfl⟩, by decide +kernel, by decide, by decide⟩
theorem witness_LaneMemoryIssues :
    let o := { ve (some ⟨.w28, 0x100⟩) with src := 2 }
    let g := { ve (some ⟨.w14, 0x100⟩) with src := 2 }
    (∀ k ∈ [0, 1, 2], condVeMem k o = none) ∧ (∀ k ∈ [3, 4], condVeMem k g = none) ∧ State.reset.elem.lMark = []
      ∧ members (groupMask State.reset o.gn.toNat) ≠ [] := ⟨by decide, by decide, rfl, by decide +kernel⟩
theorem witness_EntryLoads :
    let o := fun k => { ve (some ⟨.w14, k⟩) with src := 2 }
    let low := going.onSeq fun q => { q with pl := 0 }
    Spec.fromRegisters State.reset (o 15) ∧ condVe .ftld (o 15) = none ∧ State.reset.seq.pl = 3 ∧ 16 ≤ veEntry (o 16)
      ∧ Spec.fromRegisters low (o 15) ∧ low.seq.pl ≠ 3 ∧ veEntry (o 15) < 16 ∧ low.seq.running = true :=
  ⟨⟨rfl, rfl⟩, by decide, rfl, by decide, ⟨rfl, rfl⟩, by decide, by decide, rfl⟩
theorem witness_CoprocessorRoutine :
    let o := ve none
    let s := State.reset.onElem fun e => { e with cprec := [(3, BitVec.ofNat 64 (2 ^ 63))] }
    o.src.getLsbD 0 = false ∧ o.src.getLsbD 1 = false ∧ (storeGet 0 going.elem.cprec 3).getLsbD 63 = false ∧ going.seq.running = true
      ∧ (storeGet 0 s.elem.cprec 3).getLsbD 63 = true ∧ (storeGet 0 s.elem.cprec 3).getLsbD 62 = false ∧ s.elem.lMark = []
      ∧ members (groupMask s 0) ≠ [] ∧ ∀ sl ∈ members (groupMask s 0), resBusy s (resKey .coproc sl) s.cnt.clk = false :=
  ⟨rfl, rfl, by decide, rfl, by decide, by decide, rfl, by decide +kernel, by decide +kernel⟩

/-- A tile word: 128 by 128 BF16, grid layout, one block in each of 8 slices' rows (05 Table 5-1). -/
def tileWord : W64 := BitVec.ofNat 64 (2 ^ 63 + 128 * 2 ^ 51 + 128 * 2 ^ 39 + 1 * 2 ^ 35)
/-- The same on a grid of 8 rows. -/
def tallWord : W64 := tileWord + BitVec.ofNat 64 (7 * 2 ^ 24)
/-- Group 1 names slices 0 to 7, X5 holds the word, tiles 1 and 2 are configured over that group. -/
def tiled : State :=
  { going with
    seq := { going.seq with gmask := storeSet 0 going.seq.gmask 1 255 }
    sc := { x := [(5, tileWord)], f := [] }
    tiles := { resetTiles with cfg := [(1, ⟨tileWord, 1, 255⟩), (2, ⟨tallWord, 1, 255⟩)] } }
theorem witness_TileConfigures : condTcfg ⟨1, 1, 5, false, false, 1, 0⟩ tiled = none := by decide +kernel
theorem witness_TileMovementIssues : tiled.work = [] ∧ (slotGet tiled 0).marks = [] ∧ groupMask tiled 1 ≠ 0 ∧ groupMask tiled 7 = 0
    ∧ ∀ k ∈ [0, 1, 2], condMove k ⟨1, 1, 0, false, false, 1, 0⟩ tiled = none ∧ condMove k ⟨1, 7, 0, false, true, 1, 0⟩ tiled = none :=
  ⟨rfl, rfl, by decide +kernel, by decide +kernel, by decide +kernel⟩
theorem witness_TileMovementFaults : going.seq.running = true ∧ groupMask going 0 ≠ 0 ∧ cfgEn (tileCfg going 3).word = false
    ∧ tiled.seq.running = true ∧ groupMask tiled 0 ≠ 0 ∧ cfgEn (tileCfg tiled 1).word = true ∧ groupMask tiled 0 ≠ (tileCfg tiled 1).mask := by decide +kernel
theorem witness_TileProductIssues :
    let o : TeProd := ⟨2, 2, 1, 1, 0, false, 0, false⟩
    let c := tiled.onSeq fun q => { q with compact := true }
    groupMask tiled o.gn.toNat ≠ 0 ∧ groupMask tiled ({ o with gn := 7 } : TeProd).gn.toNat = 0 ∧ o.orr.getLsbD 1 = false
      ∧ condProd false o tiled = none ∧ tiled.seq.compact = false ∧ condProd true o tiled = none ∧ c.seq.compact = true
      ∧ c.seq.running = true := by decide +kernel
theorem witness_MatrixVectorIssues :
    let bad := going.onSeq fun q => { q with fw := 0 }
    State.reset.seq.fw.toNat ∈ [1, 2, 3, 4, 5, 6, 7, 10, 11, 12, 13, 14] ∧ members (groupMask State.reset 0) ≠ [] ∧ State.reset.elem.lMark = []
      ∧ bad.seq.fw.toNat ∉ [1, 2, 3, 4, 5, 6, 7, 10, 11, 12, 13, 14] ∧ bad.seq.running = true :=
  ⟨by decide, by decide +kernel, rfl, by decide, rfl⟩

/-! #### The stream -/

/-- A stream with line 0 fetched: twelve syllables of 14 bits, the first in the highest bits (02 R28). -/
def withLine (syl : List Nat) : State :=
  going.onSeq fun q => { q with lines := [⟨0, BitVec.ofNat 168 ((syl.zipIdx.map fun x => x.1 * 2 ^ (154 - 14 * x.2)).sum), false⟩] }
/-- A bundle of one header syllable with BLEN 0 and no slot (02 Table 2-1) issues no operation. -/
theorem witness_EmptyBundleIssues :
    Spec.mayIssue (withLine [0]) ∧ nextBundle (refill (withLine [0])) = .inr [] ∧ afterBundle (refill (withLine [0])) 0 < 2 ^ 22 :=
  ⟨⟨rfl, rfl, by decide, rfl, rfl, rfl, rfl, rfl, rfl, rfl, rfl, rfl, rfl, rfl, by decide, rfl, rfl, rfl, rfl, rfl, rfl⟩, by decide +kernel, by decide +kernel⟩
/-- The clauses on a loop, a branch and a mode change. -/
theorem witness_EmptyBundleClauses :
    let loop := fun n : W32 => (withLine [0]).onSeq fun q => { q with depth := 1, lc := storeSet 0 [] 0 n }
    let br := fun k => (withLine [0]).onSeq fun q => { q with branch := some ⟨0, 64, true, k, false⟩ }
    let ch := fun k => (withLine [0]).onSeq fun q => { q with change := some ⟨3, 0, k⟩ }
    storeGet 0 (loop 2).seq.le 0 = (loop 2).seq.pc ∧ 1 < (storeGet 0 (loop 2).seq.lc 0).toNat ∧ (storeGet 0 (loop 1).seq.lc 0).toNat ≤ 1
      ∧ (br 1).seq.branch = some ⟨0, 64, true, 1, false⟩ ∧ (br 2).seq.branch = some ⟨0, 64, true, 2, false⟩
      ∧ (ch 2).seq.change = some ⟨3, 0, 2⟩ ∧ (ch 1).seq.change = some ⟨3, 0, 1⟩
      ∧ ∀ s ∈ [loop 2, loop 1, br 1, br 2, ch 2, ch 1], nextBundle (refill s) = .inr [] := by decide +kernel
/-- The bundle of ADDI X1 := X0 + 5, written out from Tables 2-1 to 2-4. -/
theorem witness_AddiBundleIssues :
    let s := withLine [0x2003, 0x0100, 1 * 512 + 0 * 16 + 1, 5]
    Spec.mayIssue s ∧ s.seq.compact = false ∧ s.seq.past = false ∧ s.seq.branch = none ∧ s.seq.depth = 0 ∧ s.seq.change = none
      ∧ s.seq.pc.toNat % 16 < 12 ∧ stepAddr false 0 4 < 2 ^ 22 ∧ (∀ k < 4, sylBad (refill s) false 0 k = false)
      ∧ syllable (refill s) false 0 0 = 0x2003 ∧ syllable (refill s) false 0 1 = 0x0100
      ∧ syllable (refill s) false 0 2 = (1 : BitVec 5).toNat * 512 + (0 : BitVec 5).toNat * 16 + (1 : BitVec 4).toNat
      ∧ syllable (refill s) false 0 3 = (5 : BitVec 14).toNat :=
  ⟨⟨rfl, rfl, by decide, rfl, rfl, rfl, rfl, rfl, rfl, rfl, rfl, rfl, rfl, rfl, by decide, rfl, rfl, rfl, rfl, rfl, rfl⟩, by decide +kernel⟩
/-- That bundle decodes to the operation it stands for: what BUNDLE_ISSUE issues is the ADDI. -/
theorem test_addi_bundle : (nextBundle (refill (withLine [0x2003, 0x0100, 513, 5]))).isRight = true := by decide +kernel
theorem witness_BranchesIssue : State.reset.seq.branch = none ∧ nearLoopEnd State.reset = false ∧ State.reset.seq.change = none
    ∧ (11 : IAddr).toNat % 16 < 12 ∧ (13 : IAddr).toNat % 16 < 14 := by decide +kernel
theorem witness_BranchFaults :
    let b := going.onSeq fun q => { q with branch := some ⟨0, 0, false, 1, false⟩ }
    going.seq.running = true ∧ b.seq.running = true ∧ b.seq.branch.isSome = true ∧ going.seq.branch = none ∧ nearLoopEnd going = false
      ∧ 12 ≤ (12 : BitVec 28).toNat % 16 := by decide +kernel
theorem witness_LoopOpens : State.reset.seq.branch = none ∧ State.reset.seq.depth < 4 ∧ (11 : IAddr).toNat % 16 < 12
    ∧ State.reset.seq.pc.toNat < (11 : IAddr).toNat := by decide
theorem witness_ModeOperationsComplete :
    let dark := going
    State.reset.seq.change = none ∧ (1 : BitVec 2) ≠ 2 ∧ (1 : BitVec 2).toNat < State.reset.seq.pl.toNat ∧ (2 : BitVec 2) ≠ 3
      ∧ State.reset.seq.pl = 3 ∧ dark.seq.running = true ∧ domOn dark 29 = false := by decide
theorem witness_SystemPrivilege :
    let low := going.onSeq fun q => { q with pl := 0 }
    low.seq.running = true ∧ low.seq.pl ≠ 3 ∧ low.seq.pl = 0 ∧ (0 : BitVec 2) ≠ 2 ∧ low.seq.change = none
      ∧ low.seq.pl.toNat ≤ (0 : BitVec 2).toNat := by decide

/-! #### Entry and return -/

/-- U level in D0, with a vector table at scratch address 0 of slice 0 whose entries for codes 1 and 16 name the line 2. -/
def vectored : State :=
  { upGoing with
    seq := { upGoing.seq with pl := 0, deferred := [⟨1, 5, 0, 0, 0, 0, 0, 0, 0, none⟩] }
    cnt := { resetCount with clk := 4 }
    ctl := { resetCtl with sx := { resetLevel with vtb := BitVec.ofNat 64 scratchBase, ie := 1 } }
    mem := [(scratchBase + 8, 32), (scratchBase + 15, 128), (scratchBase + 128, 32), (scratchBase + 135, 128)] }
theorem witness_EntrySavesTheStream :
    let d : Deferred := ⟨1, 5, 0, 0, 0, 0, 0, 0, 0, none⟩
    let s := vectored
    s.seq.running = true ∧ s.power.mute = 0 ∧ s.fab.beatScans = [] ∧ s.fab.angleScans = [] ∧ s.fab.cueWait = [] ∧ s.ctl.tinvs = []
      ∧ s.work = [] ∧ s.marks = [] ∧ s.dma.held = [] ∧ s.fab.inbox = [] ∧ s.rel.undo = [] ∧ s.cnt.writes = [] ∧ s.rel.ending = false
      ∧ s.cnt.escalating = false ∧ s.seq.branch = none ∧ s.seq.depth ≤ 4 ∧ s.seq.change = none
      ∧ s.seq.deferred = [d] ∧ d.clk < s.cnt.clk ∧ d.replay = none ∧ d.code ≠ 7 ∧ d.code ≠ 0xC
      ∧ (levelRegs s 1).saved.getLsbD 3 = false ∧ (1 : BitVec 2) = routeFault d.code.toNat d.level s.seq.pl
      ∧ Spec.vectorAt s 1 1 32 :=
  ⟨rfl, rfl, rfl, rfl, rfl, rfl, rfl, rfl, rfl, rfl, rfl, rfl, rfl, rfl, rfl, by decide, rfl, rfl, by decide, rfl, by decide, by decide, by decide,
    by decide +kernel,
    ⟨by decide +kernel, .inl (by decide +kernel), by decide +kernel, by decide +kernel, by decide +kernel⟩⟩
theorem witness_InterruptEntry :
    let s := (vectored.onSeq fun q => { q with deferred := [] }).onCnt fun c => { c with ipend := 1 }
    s.seq.deferred = [] ∧ s.cnt.ipend.getLsbD 0 = true ∧ (1 : BitVec 2) = (if s.ctl.iroute.getLsbD 0 then 3 else 1)
      ∧ (levelRegs s 1).ie.getLsbD 0 = true ∧ s.seq.pl.toNat < (1 : BitVec 2).toNat ∧ Spec.vectorAt s 1 16 32 :=
  ⟨rfl, by decide, by decide, by decide, by decide,
    ⟨by decide +kernel, .inl (by decide +kernel), by decide +kernel, by decide +kernel, by decide +kernel⟩⟩
theorem witness_XretReturns :
    let s := State.reset.onCtl fun c => { c with mx := { resetLevel with saved := BitVec.ofNat 64 (2 ^ 33 + 3 * 2 ^ 30) } }
    let w := (levelRegs s 3).saved
    s.seq.pl = 3 ∧ (w.setWidth 2 : BitVec 2) ≠ 2 ∧ (w.setWidth 2 : BitVec 2).toNat ≤ s.seq.pl.toNat ∧ w.getLsbD 19 = false
      ∧ s.tiles.recs = [] ∧ s.cnt.escalating = false ∧ field w 32 30 = 3 ∧ field w 34 33 = 1
      ∧ field (levelRegs State.reset 3).saved 32 30 = 0 := by decide
theorem witness_ReturnUndoesEntry :
    let s := State.reset.onSeq fun q => { q with branch := some ⟨3, 64, true, 2, true⟩, change := some ⟨4, 0, 1⟩ }
    s.seq.depth ≤ 4 ∧ (∀ b, s.seq.branch = some b → (b.slot = 1 ∨ b.slot = 2) ∧ (b.brf = true ↔ ∃ c, s.seq.change = some c ∧ c.kind = 4))
      ∧ (∀ c, s.seq.change = some c → c.kind ∈ [1, 2, 3, 4] ∧ c.left ≤ 2) := by
  refine ⟨by decide, ?_, ?_⟩
  · intro b hb
    cases hb
    exact ⟨.inr rfl, fun _ => ⟨_, rfl, rfl⟩, fun _ => rfl⟩
  · intro c hc
    cases hc
    decide
theorem witness_WatchdogExpiries :
    let s := { going with
      ctl := { resetCtl with wdt := 5 }
      cnt := { resetCount with watchdog := 5 }
      seq := { going.seq with wait := [.clw 3], waitBeats := 5 } }
    s.seq.running = true ∧ field s.ctl.wdt 31 0 ≠ 0 ∧ field s.ctl.wdt 31 0 ≤ s.cnt.watchdog ∧ s.seq.wait = .clw 3 :: []
      ∧ field s.ctl.wdt 31 0 ≤ s.seq.waitBeats ∧ field going.ctl.wdt 31 0 = 0 := by decide
theorem witness_SideSlotsComplete :
    let s := State.reset.onFab fun f => { f with beat := { resetBeat with count := 1 } }
    s.dma.queue.length < 16 ∧ s.fab.cueWait = [] ∧ s.coll.queue.length < 16 ∧ (getX s 0).toNat % 2 ^ 48 ≤ s.fab.beat.count.toNat
      ∧ State.reset.fab.beat.count.toNat < (getX (setX State.reset 3 1) 3).toNat % 2 ^ 48 := by decide
theorem witness_FullQueuesHoldIssue :
    let s := (State.reset.onDma fun d => { d with queue := List.replicate 16 ⟨0, 1, 0, 3, 0, 0, 0, none, none⟩ }).onColl fun e =>
      { e with queue := List.replicate 16 (0, 0, 3, 0, 0) }
    16 ≤ s.dma.queue.length ∧ 16 ≤ s.coll.queue.length := by decide
theorem witness_MarkMovesTheAngle :
    let s := going.onCnt fun c => { c with stopAtMark := true }
    ((1 : BitVec 28).setWidth 16 : BitVec 16) ≠ 0 ∧ ((0 : BitVec 28).setWidth 16 : BitVec 16) = 0 ∧ State.reset.cnt.stopAtMark = false
      ∧ s.cnt.stopAtMark = true ∧ s.seq.running = true := by decide

/-! #### The beat, control registers, DMA -/

theorem witness_BeatBoundaries :
    let s := up.onFab fun f => { f with beat := { resetBeat with gen := true } }
    s.fab.beat.gen = true ∧ s.fab.beat.waiting = false ∧ domOn s 1 = true ∧ s.ctl.wdt = 0 := by decide
theorem witness_BeatSources :
    let withBeat := fun b => up.onFab fun f => { f with beat := b }
    let sw := withBeat { resetBeat with switchAt := some (0, 2000) }
    let backup := objSet (withBeat { resetBeat with gen := true, st := 3 }) 0x2320 2 7
    let heard := objSet (portSet up 2 { blankPort with st := .active, peerHop := 4 }) 0x2301 3 1
    let counts := heard.onFab fun f => { f with beat := { resetBeat with gen := true, count := 5 } }
    domOn up 1 = true ∧ up.fab.beat.enabled = false ∧ objGet up 0x2300 1 = objGet (objSet up 0x2320 2 (objGet up 0x2300 1)) 0x2320 2
      ∧ sw.fab.beat.switchAt = some (0, 2000) ∧ (0 : BitVec 48).toNat ≤ sw.fab.beat.count.toNat
      ∧ backup.fab.beat.gen = true ∧ backup.fab.beat.st ≠ 1 ∧ backup.fab.beat.st = 3
      ∧ objGet (objSet backup 0x2320 3 (objGet backup 0x2300 1)) 0x2320 3 ≠ objGet backup 0x2320 2
      ∧ bestUpstream heard = some 2 ∧ bestUpstream counts = some 2 ∧ counts.fab.beat.gen = true ∧ counts.fab.beat.count.toNat ≤ 5
      ∧ 4 < counts.fab.beat.count.toNat ∧ domOn heard 1 = true ∧ heard.fab.beat.st ≠ 1 ∧ heard.fab.beat.st ≠ 2 := by
  decide +kernel
theorem witness_StreamStarts : let s := up.onPower fun p => { p with wake := some (0, 3, 64) }
    s.power.wake = some (0, 3, 64) ∧ s.power.state = 0 := by decide
theorem witness_ControlActions :
    let v : W64 := BitVec.ofNat 64 (3 * 2 ^ 62 + 4 * 2 ^ 49 + 4096 * 2 ^ 36 + 2047 * 2 ^ 25)
    State.reset.seq.pl = 3 ∧ State.reset.slots = [] ∧ v.getLsbD 63 = true ∧ v.getLsbD 62 = true ∧ 4 ≤ field v 61 49 ∧ field v 61 49 ≤ 4096 ∧ 4 ≤ field v 48 36
      ∧ field v 48 36 ≤ 4096 ∧ field v 35 25 + field v 24 20 ≤ 2047 ∧ (microFn (field (0 : W64) 63 58) (field (0 : W64) 57 50)).isSome = true := by
  decide
theorem witness_RecordCommits :
    let v : W64 := BitVec.ofNat 64 (2 ^ 63 + 2 ^ 57)
    let s := tiled.onCtl fun c => { c with tpr2 := tileWord }
    let cue : W64 := BitVec.ofNat 64 (2 ^ 63 + 2 ^ 61 + 2 ^ 52)
    let od := up.onCtl fun c => { c with odsel := 0x012300 }
    State.reset.seq.pl = 3 ∧ field s.ctl.tpsel 15 8 < 160 ∧ field s.ctl.tpsel 7 6 < 3 ∧ v.getLsbD 63 = true
      ∧ (tileCfg s (field v 59 57)).word = s.ctl.tpr2 ∧ cfgEn (tileCfg s (field v 59 57)).word = true
      ∧ (members (tileCfg s (field v 59 57)).mask)[field v 25 18]? = some 0 ∧ (tileCfg tiled (field v 59 57)).word ≠ tiled.ctl.tpr2
      ∧ cueBad (Spec.staged State.reset cue) = false ∧ cue.getLsbD 63 = true ∧ field (BitVec.ofNat 64 (2 ^ 40) : W64) 45 40 ≠ 0
      ∧ field (1 : W64) 31 0 ≠ 0 ∧ field (0 : W64) 3 0 = 0 ∧ 8 < field (9 : W64) 3 0 ∧ field (2 : W64) 3 0 = 2 ∧ od.ctl.odsel = 0x012300
      ∧ od.trust.restarting = false ∧ od.trust.boot ≠ 4 := by decide +kernel

/-- A transfer of M level over slice 0 alone, its descriptor at the start of slice 0's scratch. -/
def xfer0 : Xfer := ⟨BitVec.ofNat 64 scratchBase, 1, 9, 3, 0, 5, 0, none, none⟩
/-- The state with that transfer queued, six clk after its issue; memory of zeros is a copy of no bytes. -/
def queued : State := (State.reset.onDma fun d => { d with queue := [xfer0] }).onCnt fun c => { c with clk := 6 }
theorem witness_DmaAcceptsTransfer :
    queued.dma.queue = xfer0 :: [] ∧ xfer0.mask.getLsbD 0 = true ∧ queued.dma.accepted = [] ∧ xfer0.issued + 6 ≤ queued.cnt.clk
      ∧ (heldIn queued 0).length < 16 ∧ xfer0.level = 3 ∧ xfer0.xd.toNat % 64 = 0
      ∧ (∃ k o, regionOf xfer0.xd.toNat = .scratch k o) ∧ queued.marks = [] ∧ members xfer0.mask = [0]
      ∧ descCheck 3 (BitVec.ofNat 512 (ofLe (peekBytes queued xfer0.xd.toNat 64))) = none
      ∧ descCheck 3 (BitVec.ofNat 512 (3 * 2 ^ 248)) = some 1 ∧ Spec.linkFree 0 xfer0.xd.toNat
      ∧ endClaimed queued (.phys xfer0.xd.toNat) 64 false = false :=
  ⟨rfl, by decide, rfl, by decide, by decide, rfl, by decide +kernel, ⟨0, 0, by decide +kernel⟩, rfl, by decide +kernel, by decide +kernel,
    by decide +kernel, .inl (by decide +kernel), by decide +kernel⟩
theorem witness_RequestsCoverARow : 2048 % 16 = 0 ∧ (0x3F0 : W64).toNat % 16 = 0 ∧ (0x10 : W64).toNat % 16 = 0
    ∧ (0x3F0 : W64).toNat + 2048 < 2 ^ 64 := by decide

/-- A descriptor of a kind, with source, destination and a length of 1 KiB in one row. -/
def desc (kind src dst : Nat) : BitVec 512 := BitVec.ofNat 512 (kind * 2 ^ 250 + src * 2 ^ 172 + dst * 2 ^ 120 + 1024 * 2 ^ 96)
def held (d : BitVec 512) : Held := ⟨xfer0, 0, 0, d, false, [], [], 0, 0, false, 0⟩
def flight (q r : Req) : Flight := ⟨0, q, r, 0, false, 0, [(0, 0)], true, 0⟩
def holding (h : Held) : State := State.reset.onDma fun d => { d with held := [h] }
theorem witness_DmaTransfersBegin :
    ∀ k ∈ [0, 1, 3], let h := held (desc k scratchBase (scratchBase + 4096))
      unbegun (holding h) 0 [k] = some h ∧ h.x.level = 3 ∧ dSrc h.desc < 2 ^ 48 ∧ dDst h.desc < 2 ^ 48 ∧ dRem h.desc = false
        ∧ (match regionOf (dSrc h.desc) with | .scratch _ _ => true | _ => false) = true
        ∧ (match regionOf (dDst h.desc) with | .scratch _ _ => true | _ => false) = true
        ∧ dSrc h.desc + spanLen h.desc (dSpt h.desc) ≤ dDst h.desc
        ∧ rowReqs h.desc (some (BitVec.ofNat 64 (dSrc h.desc))) (some (BitVec.ofNat 64 (dDst h.desc))) ≠ [] := by decide +kernel
theorem witness_DmaRequestsServed :
    let r : Req := ⟨.named (BitVec.ofNat 64 scratchBase), .named (BitVec.ofNat 64 (scratchBase + 4096)), 1024⟩
    let q : Req := ⟨.phys scratchBase, .phys (scratchBase + 4096), 1024⟩
    let w := { held (desc 0 scratchBase (scratchBase + 4096)) with begun := true, todo := [r] }
    let f := flight q r
    let o := { w with todo := [], out := [f] }
    let late := (holding o).onCnt fun c => { c with clk := 65536 }
    heldIn (holding w) 0 = [w] ∧ w.slice = 0 ∧ w.begun = true ∧ (holding w).marks = [] ∧ w.x.level = 3 ∧ dRem w.desc = false
      ∧ w.out.length < 16 ∧ hasTarget (holding w) scratchBase = true ∧ hasTarget (holding w) (scratchBase + 4096) = true
      ∧ heldIn (holding o) 0 = [o] ∧ o.out = [f] ∧ f.req.dst = .phys (scratchBase + 4096) ∧ (scratchBase + 4096) % 16 = 0
      ∧ f.req.len % 16 = 0 ∧ f.owed = 0 ∧ f.req.src = .phys scratchBase ∧ late.ckpt.job = none
      ∧ f.since + 65536 ≤ late.cnt.clk + late.cnt.withheld ∧ f.late = false ∧ f.places ≠ [] ∧ f.admitted = true
      ∧ behindOlder (holding o) f = false ∧ reqClaimed (holding o) f.req = false ∧ (holding o).cnt.writes = [] ∧ w.conv = false
      ∧ dieOfAddr scratchBase = 0 / 80 ∧ dieOfAddr (scratchBase + 4096) = 0 / 80 := by
  decide +kernel
/-- A write of the stream claims the bank of the destination. -/
theorem witness_RequestWaits :
    let q : Req := ⟨.phys scratchBase, .phys (scratchBase + 4096), 1024⟩
    let o := { held (desc 0 scratchBase (scratchBase + 4096)) with begun := true, out := [flight q q] }
    let s := (holding o).onCnt fun c => { c with writes := [(scratchBase + 4096, 16, 1001)] }
    heldIn s 0 = [o] ∧ behindOlder s (flight q q) = false ∧ reqClaimed s q = true ∧ s.marks = [] := by decide +kernel
/-- 10 R251: a read that misses fills the line, a write that hits makes it dirty, a no-allocate read that misses leaves no line; each is
counted. -/
theorem test_cache_hint :
    let s := useCache (useCache (useCache State.reset 64 64 false 2) 100 4 true 1) 256 16 false 1
    s.cache = [(0, ⟨true, true, false⟩)] ∧ objGet s 0x7220 5 = 1 ∧ objGet s 0x7220 6 = 2 := by decide +kernel
/-- 10 R255: a prefetch that completes has its lines in the cache. -/
theorem test_prefetch_fills :
    let f := flight ⟨.phys 64, .none, 128⟩ ⟨.named 64, .none, 128⟩
    let s := completeRequest (holding { held (desc 3 64 0) with begun := true, out := [f] }) 0 0
    s.cache = [(0, ⟨true, false, false⟩), (1, ⟨true, false, false⟩)] ∧ s.dma.held = [] := by decide +kernel
/-- A prefetch of the last 64 bytes of a line of clay, under each hint, where the cache holds the line and where it does not. -/
theorem witness_PrefetchServed :
    ∀ hint ∈ [0, 1, 2], let d := BitVec.ofNat 512 (hint * 2 ^ 248 + 3 * 2 ^ 250)
      let f := flight ⟨.phys 64, .none, 64⟩ ⟨.named 64, .none, 64⟩
      let o := { held d with begun := true, out := [f] }
      heldIn (holding o) 0 = [o] ∧ o.begun = true ∧ (holding o).marks = [] ∧ o.out = [f] ∧ f.req.src = .phys 64 ∧ f.req.dst = .none
        ∧ 0 < f.req.len ∧ 64 % 128 + f.req.len ≤ 128 ∧ dCh o.desc = hint ∧ (lineGet (holding o) 0).held = false
        ∧ (lineGet (putLine (holding o) 0 ⟨true, true, true⟩) 0).held = true := by decide +kernel
theorem witness_ScaledConversionRuns :
    let h := held (BitVec.ofNat 512 (2 * 2 ^ 250))
    let cold := { holding h with slots := [(0, { blankSlot with st := 1 })] }
    let c : Conv := ⟨0, 5, 1, 9, h.desc, [(0, 0, h.desc)], 3, 0, { blankSlot with st := 1 }, 0, 0, 0, [], 1⟩
    let conv := fun p => State.reset.onDma fun d => { d with convs := [{ c with pass := p }] }
    unbegun cold 0 [2] = some h ∧ cold.dma.held = [h] ∧ h.out = [] ∧ leftQueue cold h.x.op = true ∧ cold.dma.convs = [] ∧ cold.work = []
      ∧ (slotGet cold (cvSlot h.desc)).st = 1 ∧ (conv 1).dma.convs = [{ c with pass := 1 }] ∧ c.slot = (0 : BitVec 14).toNat
      ∧ (conv 1).marks = [] ∧ c.level = 3 ∧ (conv 3).dma.convs = [{ c with pass := 3 }] ∧ c.parts ≠ []
      ∧ (slotGet cold 0).marks = [] ∧ (slotGet (conv 1) c.slot).marks = []
      ∧ (c.parts.foldl (measureSlice c) (conv 1, emptyPass)).2.failed = []
      ∧ (c.parts.foldl (convertSlice c c.e0) (conv 3, emptyPass)).2.bad = []
      ∧ (∃ x ∈ c.parts, x.1 ∉ (c.parts.foldl (convertSlice c c.e0) (conv 3, emptyPass)).2.failed) := by decide +kernel
theorem witness_StashKinds :
    let d := fun kind => BitVec.ofNat 512 (kind * 2 ^ 250 + (64 * 2 ^ 180 + 3 * 2 ^ 166 + 7 * 2 ^ 150 + 2 * 2 ^ 142) * 2 ^ 256)
    let s := objSet (holding (held (d 8))) 0x2031 1 100
    let ent : StashEnt := ⟨1, 0, 5, 0, false, false, 3, 7, 0, 3, 1, 5, [(0, 1)]⟩
    let g := (holding (held (d 9))).onDma fun x => { x with stash := [(2, ent)] }
    let r := (holding (held (d 10))).onDma fun x => { x with stash := [(2, ent)] }
    s.dma.held = [held (d 8)] ∧ (held (d 8)).conv = false ∧ claimedByOther s 5 (tEnt (d 8)) = false
      ∧ claimedByOther g 5 (tEnt (d 9)) = false ∧ claimedByOther r 5 (tEnt (d 10)) = false ∧ storeWf freeEntry r.dma.stash = true ∧ members (held (d 8)).x.mask = [0] ∧ leftQueue s 5 = true ∧ dHdr (d 8) 247 0 = 0 ∧ dBody (d 8) 139 0 = 0
      ∧ dKind (d 8) = 8 ∧ tLoc (d 8) % 64 = 0 ∧ tLoc (d 8) + tSize (d 8) * 1024 ≤ 0x1000000 ∧ (entGet s (tEnt (d 8))).st = 0
      ∧ 0 < tSize (d 8) ∧ tSize (d 8) ≤ 9830 ∧ firstFit s 0 (tSize (d 8)) = some 0
      ∧ dKind (d 9) = 9 ∧ (entGet g (tEnt (d 9))).st = 1 ∧ (entGet g 2).mask = (held (d 9)).x.mask ∧ 0 < (entGet g 2).size
      ∧ dKind (d 10) = 10 ∧ (entGet r (tEnt (d 10))).st ≠ 0 ∧ (entGet r 2).st ≠ 4 := by decide +kernel

/-! #### Collectives -/

/-- A peer set of this device alone, and one of two devices along X; the torus is 2 by 1 by 1. -/
def alone (s : State) : State :=
  let s := objSet (objSet (objSet s 0x2300 2 2) 0x2300 3 1) 0x2300 4 1
  s.onDict fun d => { d with blobs := [(objKey 0x2340 0,
    ([1, 0, 0, 0, 1, 1, 1, 1, 1, 1] ++ List.replicate 22 0 ++ [9] ++ List.replicate 15 0)
      ++ ([1, 0, 0, 0, 1, 1, 1, 2, 1, 1] ++ List.replicate 22 0 ++ [9] ++ List.replicate 15 0))] }
/-- Descriptors: REDUCE_SCATTER and ALL_GATHER of 4 FP32 elements, and a vote, over a peer set. -/
def cdesc (op ps : Nat) : BitVec 512 :=
  if op = 2 then BitVec.ofNat 512 (2 * 2 ^ 508 + ps * 2 ^ 504)
  else BitVec.ofNat 512 (op * 2 ^ 508 + ps * 2 ^ 504 + 2 * 2 ^ 502 + 4 * 2 ^ 418 + scratchBase * 2 ^ 366
    + (scratchBase + 0x10000) * 2 ^ 314 + if op = 0 then (scratchBase + 0x20000) * 2 ^ 210 else 0)
def coll (op ps : Nat) : Coll := { freshColl (0, 4, 3, 6, 0) (cdesc op ps) with isOpen := true }
def collecting (c : Coll) : State := (alone State.reset).onColl fun e => { e with held := [c] }
theorem witness_CollectivesOpenAndEnd :
    let q : W64 × BitVec 6 × BitVec 2 × Nat × Nat := (BitVec.ofNat 64 scratchBase, 4, 3, 6, 0)
    let bytes := fun d : BitVec 512 => (leBytes 64 d.toNat).zipIdx.map fun x => (scratchBase + x.2, x.1)
    let s := fun d => pokeBytes (((alone State.reset).onColl fun e => { e with queue := [q] }).onCnt fun c => { c with clk := 6 }) (bytes d)
    let read := fun d => (BitVec.ofNat 512 (ofLe (peekBytes (s d) q.1.toNat 64)) : BitVec 512)
    (s (cdesc 2 0)).coll.queue = q :: [] ∧ q.2.2.2.2 + 6 ≤ (s 0).cnt.clk ∧ (s 0).coll.held = [] ∧ (s 0).coll.early = []
      ∧ q.1.toNat % 64 = 0 ∧ (match regionOf q.1.toNat with | .scratch _ _ => true | _ => false) = true ∧ (s 0).marks = []
      ∧ kBad (read (cdesc 2 0)) = false ∧ psMember (s 0) (kPs (read (cdesc 2 0))) = true ∧ kBad (read 1) = true := by decide +kernel
theorem witness_CollectiveOpenAndDeadline :
    let w := { coll 0 0 with isOpen := false, desc := cdesc 0 0 ||| BitVec.ofNat 512 (5 * 2 ^ 462) }
    let s := (collecting w).onColl fun e => { e with phases := [(5, true)] }
    let late := (collecting (coll 0 0)).onFab fun f => { f with beat := { resetBeat with count := 0xFFFFFFFFFF } }
    s.coll.held = [w] ∧ w.tag = 4 ∧ w.isOpen = false ∧ s.coll.early = [] ∧ storeGet false s.coll.phases (kPh w.desc) = true
      ∧ late.coll.held = [coll 0 0] ∧ kOp (coll 0 0).desc ≠ 2
      ∧ (coll 0 0).openBeat.toNat + objGet late 0x2341 3 ≤ late.fab.beat.count.toNat ∧ kDl (coll 0 0).desc = 0
      ∧ voteReduced (collecting (coll 2 0)) (coll 2 0) = false ∧ kOp (coll 2 0).desc = 2 ∧ (collecting (coll 2 0)).coll.queue = [] := by
  decide +kernel
theorem witness_CollectivesOfOne :
    ∀ op ∈ [0, 1, 2], let c := coll op 0; let s := collecting c
      s.coll.held = [c] ∧ c.tag = 4 ∧ c.isOpen = true ∧ c.running = false ∧ c.phase = 0 ∧ c.level = 3 ∧ c.got = []
        ∧ myIndex s (psOf s (kPs c.desc)) = some [0, 0, 0] ∧ psDims (psOf s (kPs c.desc)) = [] ∧ s.marks = [] ∧ kOp c.desc = op
        ∧ s.cnt.writes = [] ∧ (op = 0 → kSf c.desc = 2 ∧ kCmp c.desc = false ∧ kWd c.desc = false ∧ s.cnt.dropStep ≠ some s.cnt.step ∧ 0 < kNe c.desc) := by
  decide +kernel
theorem witness_BlockGrid : 2 ≤ 16 ∧ blockTop [f32 0x3F800000] = 1 ∧ blockTop [] = -0x8000 ∧ blockTop [f32 0x7F800000] = 0x7FFF := by decide
theorem witness_CollectiveMessages :
    let c := coll 0 1
    let s := collecting c
    let m : Msg := ⟨0, 1, 1, 0, 0, [], 0, 0, 0⟩
    let run := { c with running := true, items := [0], sent := [m] }
    let got := { c with got := [m] }
    let vote := coll 2 1
    let gather := coll 1 1
    let act := objSet (portSet (objSet (collecting run) 0x2301 1 1) 0 { blankPort with st := .active }) 0x2300 1 0
    (alone State.reset).coll.held = [] ∧ (alone State.reset).coll.early = [] ∧ (alone State.reset).coll.ended = []
      ∧ s.coll.held = [c] ∧ c.tag = 4 ∧ c.isOpen = true
      ∧ (msgPhase s c m).isSome = true ∧ s.fab.beat.count.toNat ≤ c.openBeat.toNat + objGet s 0x2341 3 ∧ kDl c.desc = 0 ∧ c.got = []
      ∧ (∃ g ∈ got.got, g.bid = m.bid ∧ g.ps = m.ps ∧ g.peer = m.peer ∧ g.pk = m.pk ∧ g.dim = m.dim) ∧ kOp c.desc = 0
      ∧ (1 : W128).getLsbD 0 = true ∧ (0 : W128).getLsbD 0 = false ∧ digestOf (psOf s 1).dk ([] ++ [0, 0]) ≠ 1 ∧ c.running = false
      ∧ c.level = 3 ∧ s.marks = [] ∧ s.cnt.writes = [] ∧ kOp vote.desc = 2
      ∧ (msgPhase (collecting vote) vote { m with pk := 4 }).isSome = true ∧ kOp gather.desc = 1
      ∧ (msgPhase (collecting gather) gather { m with pk := 3 }).isSome = true
      ∧ workPlace c 48 = some 0 ∧ workPlace { c with wa := [(m, 0)] } 48 = some 48 ∧ workPlace c (2 ^ 40) = none
      ∧ run.running = true ∧ (run.sent.filter fun y => decide (y.peer = (1 : BitVec 14).toNat)) = [m] ∧ fateOf act 8 1 0 0 ≠ .dark := by
  decide +kernel
theorem witness_VotesCommit :
    let v := fun w : Int => { coll 2 0 with running := true, items := [w], count := 1 }
    let s := fun w => (collecting (v w)).onFab fun f => { f with beat := { resetBeat with count := 0xFFFFFFFFFF } }
    (s 0).coll.held = [v 0] ∧ kOp (v 0).desc = 2 ∧ voteReduced (s 0) (v 0) = true
      ∧ objGet (s 0) 0x2341 3 + objGet (s 0) 0x2341 4 ≤ (s 0).fab.beat.count.toNat ∧ (s 0).coll.tocsin.contains (kPs (v 0).desc) = false ∧ (s 0).coll.lateL = false
      ∧ voteReduced (s (2 ^ 80)) (v (2 ^ 80)) = true ∧ ((v (2 ^ 80)).items.headD 0).toNat / 2 ^ 80 % 4 = 1
      ∧ (s (2 ^ 80)).coll.repeats < objGet (s (2 ^ 80)) 0x2341 2 ∧ (s (2 ^ 80)).coll.queue = [] := by decide +kernel

/-! #### Links -/

/-- A good collective flit to device 0, of step 0 and attempt 0. -/
def goodFlit : Flit := ⟨flitHeader 0 1 0 0 0 2 0 7 :: List.replicate 15 0, List.replicate 16 .good, true⟩
def linked (mode : Nat) (q : List Queued) : State :=
  objSet (objSet (portSet up 0 { blankPort with st := .active, queue := q }) 0x2301 1 mode) 0x2300 1 0
theorem witness_FlitsMove :
    let s := linked 1 []
    let e := linked 2 []
    let q : Queued := ⟨8, false, goodFlit, goodFlit⟩
    let w := linked 1 [q]
    let bad := { frame0 6 with sync := 0 }
    let x := linked 2 [q]
    let p := portSet x 0 { portGet x 0 with paused := [(ethIface x (field (headOf q.flit) 127 114) * 4 + flitCls q.flit, 5)] }
    ((portGet p 0).queue = [q] ∧ objGet p 0x2301 1 = 2 ∧ ethIfaces p 0 = 2 ∧ p.power.dvfs = 0
      ∧ p.cnt.clk + p.cnt.withheld < storeGet 0 (portGet p 0).paused (ethIface p (field (headOf q.flit) 127 114) * 4 + flitCls q.flit)
      ∧ { frame0 6 with control := [.pause 0 1 4] }.control = [.pause 0 1 4])
    ∧ portActive s 0 = true ∧ objGet s 0x2301 1 = 1 ∧ objGet e 0x2301 1 = 2 ∧ (portGet s 0).rxGood = 0 ∧ (frame0 6).fseq = 0 + 1
      ∧ (frame0 6).sync = 0xF628 ∧ bad.sync ≠ 0xF628 ∧ (frame0 6).nak = false ∧ (frame0 6).bm = false ∧ (frame0 6).control = []
      ∧ (goodFlit.crcOk = true ∧ (∀ m ∈ goodFlit.marks, m = .good) ∧ flitCls goodFlit ≠ 3 ∧ field (headOf goodFlit) 94 91 = 2
        ∧ field (headOf goodFlit) 127 114 = objGet s 0x2300 1 ∧ objGet s 0x2300 1 < 0x3F00
        ∧ field (headOf goodFlit) 70 55 = s.cnt.step.toNat % 65536 ∧ field (headOf goodFlit) 54 52 = s.coll.attempt.toNat % 8
        ∧ s.coll.seen = [])
      ∧ (portGet w 0).queue = [q] ∧ q.origin ≤ 8 ∧ flitCls goodFlit < 3 ∧ hasCredit (portGet w 0) goodFlit = true
      ∧ 0 < storeGet 32 (portGet w 0).credits (2 * flitCls goodFlit + field (headOf goodFlit) 97 97) := by decide +kernel
/-- Every state of a port that a training command acts on, at the steps 1 to 5, with 8 and with 7 lanes. -/
theorem witness_PortsTrain :
    let s := fun st step => portSet (objSet up 0x2301 1 1) 0 { blankPort with st := st, step := step, swap := some (3, 16) }
    let calm := portSet (objSet up 0x2301 1 1) 0 { blankPort with st := .training, step := 3 }
    (∀ k ∈ [1, 2, 3, 4, 5], (portGet (s .training k) 0).step = k ∧ (portGet (s .training k) 0).st = .training
        ∧ objGet (s .training k) 0x2301 1 ≠ 2)
      ∧ (portGet (s .dark 1) 0).st = .dark ∧ (portGet (s .retrain 1) 0).st = .retrain ∧ (portGet (s .active 1) 0).st = .active
      ∧ 8 ≤ (info 8).lanes ∧ (info 7).lanes < 8 ∧ (portGet (s .active 1) 0).swap = some (3, 16)
      ∧ (portGet (s .miswired 1) 0).st = .miswired ∧ min (info 8).lanes (lanesLeft (portGet (s .training 1) 0)) = 8
      ∧ (portGet (s .active 1) 0).agreed = false ∧ up.rel.follows = []
      ∧ (let c := portSet up 0 { blankPort with st := .active, swap := some (3, 16), agreed := true }
         (portGet c 0).agreed = true ∧ (portGet c 0).swapAt.toNat ≤ c.fab.beat.count.toNat)
      ∧ max 1 (min (objGet up 0x2303 1) (info 16).peerGen) ≠ 1 ∧ max 1 (min (objGet (objSet up 0x2303 1 1) 0x2303 1) (info 16).peerGen) = 1
      ∧ (portGet calm 0).swap = none ∧ (portGet calm 0).step = 3 ∧ (portGet (s .training 3) 0).swap.isSome = true
      ∧ (∃ e ∈ ([(3, 16)] : Store Nat), 16 ≤ e.2) ∧ (([3] : List Nat).filter fun x => decide (x < 16)).length ≤ 8
      ∧ 8 < ((List.range 9).filter fun x => decide (x < 16)).length
      ∧ { info 16 with peerId := BitVec.ofNat 14 (peerOf up 0 0) }.peerId.toNat = peerOf up (objGet up 0x2300 1) 0 ∧ (info 16).peerPort = 1 := by
  decide +kernel
theorem witness_TocsinsSpread :
    let s := up.onRel fun r => { r with tocsins := [(1, 0)] }
    s.rel.tocsins.contains (1, (BitVec.ofNat 32 (field (0 : BitVec 87) 59 28) : W32)) = true
      ∧ up.rel.tocsins.contains (1, (BitVec.ofNat 32 (field (0 : BitVec 87) 59 28) : W32)) = false ∧ field (0 : BitVec 87) 86 83 ≠ 1 := by decide

/-! #### Reliability -/

def marked (m : Mark) : State := setMark up (scratchBase / 16) m
theorem witness_ScrubReads :
    let far := objSet up 0x2201 1 1024
    let dry := (List.range 2).foldl (fun s k => objSet (objSet s 0x2201 (1 + k) 0) 0x2204 (1 + k) 0) up
    let near := nearWord up (up.rel.scrubNear % (160 * 2 ^ 20 + 8 * up.cache.length))
    let w := near / 16
    let lined := putLine (up.onRel fun r => { r with scrubNear := 160 * 2 ^ 20 + 3 }) 5 ⟨true, false, false⟩
    up.rel.scrubNear % (160 * 2 ^ 20 + 8 * up.cache.length) < 160 * 2 ^ 20 ∧ (marked .poison).cache = up.cache
      ∧ nearWord lined (lined.rel.scrubNear % (160 * 2 ^ 20 + 8 * lined.cache.length)) = 128 * 5 + 16 * 3
      ∧ hasTarget lined (128 * 5 + 16 * 3) = false
      ∧ (∀ m ∈ [Mark.corrected 3 5, .uncorrectable 5], hasTarget (marked m) near = true)
      ∧ markGet up w = .good ∧ markGet (marked .poison) w = .poison ∧ markGet (marked (.corrected 3 5)) w = .corrected 3 5
      ∧ w ∉ (marked (.corrected 3 5)).rel.fixes ∧ markGet (marked (.uncorrectable 5)) w = .uncorrectable 5
      ∧ objGet (marked (.uncorrectable 5)) 0x4000 1 ≠ 1 ∧ ((farSpans dry).map (·.2)).sum = 0 ∧ ((farSpans far).map (·.2)).sum ≠ 0
      ∧ farWord (farSpans far) 0 = some 0 ∧ markGet far 0 = .good := by decide +kernel
theorem witness_CorrectionsEnd :
    let a := BitVec.ofNat 48 scratchBase
    let s := (marked (.corrected 3 5)).onRel fun r => { r with fixes := [a.toNat / 16] }
    let rep : UnitRep := ⟨1, 2, 0, 3, [], []⟩
    let old := (up.onRel fun r => { r with reports := [rep] }).onFab fun f => { f with beat := { resetBeat with count := 0x100000 } }
    a.toNat / 16 ∈ s.rel.fixes ∧ markGet s (a.toNat / 16) = .corrected 3 5 ∧ a.toNat / 16 ∉ up.rel.fixes ∧ old.rel.reports = [rep]
      ∧ rep.count ≠ 0 ∧ rep.beat.toNat + 2 ^ 20 ≤ old.fab.beat.count.toNat ∧ ¬ rep.beat.toNat + 2 ^ 20 ≤ up.fab.beat.count.toNat := by
  decide +kernel
theorem witness_ComparisonsDecide :
    let s := fun c : BitVec 8 => up.onRel fun r => { r with suspects := [(c, 1)], running := some (0, 9) }
    up.rel.suspects = [] ∧ ∀ c ∈ [1, 4, 0xB], (s c).rel.suspects = [(c, 1)] ∧ (s c).rel.running = some (0, 9) ∧ (s c).rel.ledger = []
      ∧ (s c).rel.follows = [] := by decide +kernel
theorem witness_RetirementsSwitch :
    let s := fun (c : BitVec 8) (u : BitVec 16) => (up.onRel fun r => { r with
      follows := [⟨c, u⟩]
      trailed := [(⟨c, u⟩, none)] }).onFab fun f => { f with beat := { resetBeat with gen := true } }
    ¬(up.fab.beat.gen = true) ∧ (s 1 5).fab.beat.gen = true ∧ (s 1 5).fab.beat.waiting = false ∧ domOn (s 1 5) 1 = true
      ∧ (s 1 5).fab.beat.boundary = (s 1 5).cnt.clk + (s 1 5).cnt.withheld ∧ ((⟨2, 5⟩ : Follow), none) ∈ (s 2 5).rel.trailed
      ∧ (∀ c ∈ [1, 2, 3, 4], (s c 5).rel.follows = [⟨c, 5⟩] ∧ (s c 5).rel.ledger.length < 65536)
      ∧ logicalOf (s 1 5) 5 = some 5 ∧ spareSlice (s 1 5) 0 = some 20
      ∧ (arrayRetire 0xFFFFFFFF false 5).isSome = true ∧ (arrayRetire 0xFFFFFFFF true 5).isSome = true := by decide +kernel
theorem witness_PealsEnd :
    let s := up.onRel fun r => { r with running := some (3, 9) }
    let late := s.onFab fun f => { f with beat := { resetBeat with count := 9 } }
    s.rel.running = some (3, 9) ∧ (9 : BitVec 48).toNat ≤ late.fab.beat.count.toNat ∧ s.fab.beat.count.toNat < (9 : BitVec 48).toNat
      ∧ up.rel.running = none := by decide
theorem witness_SpotChecksEnd :
    let s := up.onRel fun r => { r with samples := [(2, 46)] }
    storeGet 0 up.rel.samples 2 = 0 ∧ storeGet 0 s.rel.samples 2 ≠ 0 := by decide

/-! #### Checkpoints -/

/-- A window in scratch whose slots hold 8 MiB, and a manifest of one extent of 16 bytes at the start of scratch 1. -/
def windowed : State :=
  let s := objSet (objSet up 0x4102 1 scratchBase) 0x4102 2 0x800000
  let mf := leBytes 64 1 ++ leBytes 8 (scratchBase + 0x1000000) ++ leBytes 8 16 ++ leBytes 8 0 ++ leBytes 1 0 ++ leBytes 1 1 ++ leBytes 6 0
  pokeBytes s (mf.zipIdx.map fun x => (scratchBase + 0x9000000 + x.2, x.1))
def secureArg (op : Nat) : W128 := BitVec.ofNat 128 (op + (scratchBase + 0x9000000) * 2 ^ 64)
def extent0 : Extent := ⟨BitVec.ofNat 64 (scratchBase + 0x1000000), 16, 0, true, 0⟩
theorem witness_CheckpointsSecured :
    let s := windowed
    let lay := layOut (4 * chunkSize) [extent0]
    let nch := ceilDiv lay.2 chunkSize
    s.dma.held = [] ∧ (∀ op ∈ [1, 2, 3], ckArgOk (secureArg op) = true ∧ field (secureArg op) 3 0 = op) ∧ domOn s 1 = true ∧ s.marks = []
      ∧ domOn s 6 = true ∧ dmaFull s = false ∧ s.ckpt.job = none ∧ s.ckpt.drain = none ∧ slotLUsable s = true
      ∧ (∀ str ∈ [1, 2, 3], nch * chunkSize + nch * entrySize str ≤ slotSize s) := by decide +kernel
/-- No slot and no cue entry holds a word in error. -/
theorem witness_GoodRecords : (∀ k, (slotGet windowed k).marks = []) ∧ (∀ e, (cueGet windowed e).marks = [])
    ∧ (∀ k, (slotGet up k).marks = []) ∧ (∀ e, (cueGet up e).marks = []) ∧ (∀ k, (slotGet State.reset k).marks = []) :=
  ⟨fun _ => rfl, fun _ => rfl, fun _ => rfl, fun _ => rfl, fun _ => rfl⟩
theorem witness_SecureReads :
    let s1 := nextOp windowed
    let a := ckOfCue s1 3 (secureArg 1)
    let m := ckManifest s1 a
    let s2 := m.1.onCkpt fun c => { c with nextSeq := c.nextSeq + 1 }
    m.2 = .inl [extent0]
      ∧ (readExtents s2 a.level (layOut (4 * chunkSize) [extent0]).1 (4 * chunkSize)).2 = .inl (List.replicate 16 0) := by
  refine ⟨by decide +kernel, by decide +kernel⟩
theorem witness_SecureWaits :
    let j : CkJob := ⟨1, 0, 0, 0, 0, 0, 1, 0, [], 0, 0, false, 0, 0⟩
    let s := windowed.onCkpt fun c => { c with job := some j }
    let n := (objSet windowed 0x2100 8 1).onDict fun d => { d with modules := [(0x20, someModule, 0)] }
    s.ckpt.job ≠ none ∧ nvmeUsable n = true := by decide +kernel
theorem witness_DrainsCommit :
    let d : Drain := ⟨2, 1, 4, 0, [], 5⟩
    let c : NvmeCmd := ⟨0, 1, 0, 256, false, 0, []⟩
    let f : NvmeCmd := ⟨0, 0, 0, 0, false, 0, []⟩
    let h : NvmeCmd := ⟨0, 1, 0, 1, true, 0, [0]⟩
    let s := fun todo rest => up.onCkpt fun k => { k with drain := some d, todo := todo, sent := c :: rest }
    (s [] [c]).ckpt.drain = some d ∧ d.stratum = 2 ∧ (s [] [c]).ckpt.sent = c :: [c] ∧ c.use = 0 ∧ (s [] [c]).ckpt.todo = []
      ∧ (∃ x ∈ [c], x.use = 0) ∧ (s [f, h] []).ckpt.todo = [f, h] ∧ f.use = 0 ∧ f.opcode = 0 ∧ h.use = 0 ∧ h.fua = true
      ∧ (s [h] []).ckpt.todo = [h] ∧ h.opcode = 1 ∧ h.bytes ≠ [] ∧ ∀ x ∈ (s [] []).ckpt.todo ++ [], x.use ≠ 0 := by decide
theorem witness_ImagesRestored :
    let s := windowed
    let run := s.onSeq fun q => { q with running := true }
    let arg := fun op : Nat => BitVec.ofNat 128 op
    s.dma.held = [] ∧ (∀ op ∈ [4, 5, 6, 7], ckArgOk (arg op) = true ∧ field (arg op) 3 0 = op) ∧ domOn s 1 = true ∧ s.marks = []
      ∧ domOn s 6 = true ∧ dmaFull s = false ∧ s.ckpt.todo = [] ∧ s.ckpt.sent = []
      ∧ s.ckpt.job = none ∧ s.ckpt.drain = none ∧ run.seq.running = true ∧ s.seq.running = false ∧ slotLUsable s = true
      ∧ objGet (objSet s 0x4111 1 3) 0x4111 1 ≠ 0 ∧ s.ckpt.returns = [] := by decide +kernel
/-- A return beside a secure, and beside a restore. -/
theorem witness_ReturnBeside :
    let job : Nat → CkJob := fun op => ⟨op, 0, 0, 0, 0, 0, 0, 0, [], 1, 1, false, 0, 0⟩
    let s := fun op => windowed.onCkpt fun c => { c with job := some (job op) }
    ∀ op ∈ [1, 5, 7], (s op).ckpt.job = some (job op) ∧ (s op).ckpt.returns = [] ∧ ((job op).op ≠ 1 ∨ op = 1) := by decide
/-- The image of a slot 0, of 64 bytes, can be read, so a return of it can be sent. -/
theorem witness_ReturnReads :
    let s := objSet windowed 0x4102 2 64
    (match (ckRead (nextOp s) 3 true (BitVec.ofNat 64 (slotAddr s 0)) (imageLength s (slotAddr s 0))).2 with
      | .inl _ => true
      | .inr _ => false) = true := by decide +kernel

/-! #### Power and the board -/

theorem witness_CapController : up.trust.restarting = false := rfl
theorem witness_MuteAndClock :
    let s := fun f n => (up.onCnt fun c => { c with frame := f }).onPower fun p => { p with dvfs := 1, dvfsNext := n, tripped := 0, recovering := true, droopMute := 3 }
    let busy := up.onPower fun p => { p with quiet := 4, tripped := 1, dvfs := 1, dvfsNext := some 0 }
    (s 0 none).cnt.frame % 16 = 0 ∧ ¬(s 5 none).cnt.frame % 16 = 0 ∧ (s 0 none).power.dvfsNext = none
      ∧ (s 0 (some 0)).power.dvfsNext = some 0 ∧ 0 < busy.power.dvfs ∧ busy.power.quiet < 5 ∧ busy.power.tripped ≠ 0
      ∧ (s 0 (some 2)).power.dvfs ≤ 2 ∧ (5 ≤ (s 0 (some 0)).power.quiet ∧ (s 0 (some 0)).power.tripped = 0)
      ∧ (s 0 none).power.recovering = true ∧ 0 < (s 0 none).power.droopMute ∧ up.power.recovering = false
      ∧ withheld (up.onPower fun p => { p with mute := 16 }) = true ∧ up.fab.inbox = [] := by decide
/-- Readings at the boundaries of every clause: 95, 100, 105 and 110 °C in 1/8 °C. -/
theorem witness_ThermalPoints :
    let l := fun t : Int => t :: List.replicate 47 0
    (l 759).length = 48 ∧ (hottest ((l 759).take 40)).2 < 760 ∧ 760 ≤ (hottest ((l 760).take 40)).2 ∧ (hottest ((l 799).take 40)).2 < 800
      ∧ 800 ≤ (hottest ((l 800).take 40)).2 ∧ (hottest ((l 839).take 40)).2 < 840 ∧ 840 ≤ (hottest ((l 840).take 40)).2
      ∧ (hottest ((l 879).take 40)).2 < 880 ∧ 880 ≤ (hottest ((l 880).take 40)).2 ∧ signedOf 32 (objGet up 0x3030 1) < 760
      ∧ up.power.limitN < 49999 ∧ up.power.limit = false ∧ (up.onPower fun p => { p with limit := true }).power.limit = true := by
  decide +kernel
theorem witness_PowerTransitions :
    let s := fun st m d => objSet (objSet (up.onPower fun p => { p with state := st }) 0x3000 1 m) 0x3000 2 d
    let aim := (s 0 1 0).onPower fun p => { p with target := some 1 }
    (s 3 0 0).power.target = none ∧ (s 3 0 0).trust.boot = 3 ∧ (s 3 0 0).trust.security ≠ 4 ∧ (s 3 0 0).board.p48v = true
      ∧ (s 3 0 0).trust.updStatus ≠ 4 ∧ max (objGet (s 3 0 0) 0x3000 1) (objGet (s 3 0 0) 0x3000 2) < (s 3 0 0).power.state
      ∧ (s 0 1 0).power.state < max (objGet (s 0 1 0) 0x3000 1) (objGet (s 0 1 0) 0x3000 2)
      ∧ mayLower ((s 0 1 0).onSeq fun q => { q with running := true }) = false ∧ mayLower (s 0 1 0) = true
      ∧ max (objGet (s 0 1 0) 0x3000 1) (objGet (s 0 1 0) 0x3000 2) = 1
      ∧ max (objGet (s 1 1 0) 0x3000 1) (objGet (s 1 1 0) 0x3000 2) = (s 1 1 0).power.state
      ∧ (aim.onPower fun p => { p with target := some 3 }).power.target = some 3
      ∧ mayLower (aim.onPower fun p => { p with target := some 3 }) = true
      ∧ aim.power.target = some 1 ∧ mayLower aim = true ∧ objGet aim 0x2200 2 = 0 := by decide +kernel
theorem witness_BoardStarts :
    let b := fun k => up.onTrust fun t => { t with boot := k }
    let on := up.onBoard fun x => { x with inReset := true }
    up.board.p48v = true ∧ State.reset.board.p48v = false ∧ on.board.aon = true ∧ on.board.inReset = true ∧ (b 1).trust.boot = 1
      ∧ (b 1).trust.flashBad = false ∧ bootVerifies (b 1) (b 1).trust.flash [1] = true
      ∧ ((b 1).onTrust fun t => { t with flashBad := true }).trust.flashBad = true ∧ (b 2).trust.boot = 2
      ∧ bootVerifies (b 2) (b 2).trust.running [2, 3] = true ∧ pealsVerify (b 2) = true
      ∧ hasIdentity (b 1) = true ∧ (b 1).trust.udsClosed = false :=
  ⟨rfl, rfl, rfl, rfl, rfl, rfl, rfl, rfl, rfl, rfl, rfl, rfl, rfl⟩
/-- 18 R461, its worked example: the contact at column 31, row 26 is LP2_C5_DQ07; the corners of the grid. -/
theorem test_contact : contactAt 31 26 = some (.camm2 2 5 7) ∧ contactAt 1 13 = some (.p48v 1) ∧ contactAt 80 60 = some (.ground 3048)
    ∧ contactAt 81 60 = none := by decide
theorem witness_BoardContacts :
    let off := up.onBoard fun b => { b with aon := false }
    let low := up.onBoard fun b => { b with resetLow := true }
    off.board.aon = false ∧ up.board.aon = true ∧ low.board.aon = true ∧ low.board.resetLow = true ∧ up.board.inReset = false
      ∧ up.board.resetLow = false := by decide
theorem witness_BoardFaults :
    let off := up.onBoard fun x => { x with p48v := false }
    up.board.aon = true ∧ up.board.inReset = false ∧ 10 ≤ 10 ∧ up.board.p48v = true ∧ off.board.p48v = false ∧ off.board.aon = true := by decide

/-! #### Firmware, debug, the dictionary, the host -/

theorem witness_UpdatesRun :
    let s := fun k => (up.onTrust fun t => { t with updStatus := k, goAhead := true }).onFab fun f => { f with beat := { resetBeat with gen := true } }
    ∀ k ∈ [1, 2, 3, 4, 5], (s k).trust.updStatus = k ∧ (s k).trust.boot = 3 ∧ (s k).trust.goAhead = true ∧ (s k).rel.running = none
      ∧ (s k).rel.follows = [] ∧ (s k).fab.beat.gen = true ∧ (s k).fab.beat.waiting = false
      ∧ (s k).fab.beat.boundary = (s k).cnt.clk + (s k).cnt.withheld ∧ domOn (s k) 1 = true ∧ (s k).trust.restarting = false
      ∧ (s k).rel.waiting = [] ∧ (s k).rel.peals = [] := by decide +kernel
theorem witness_RestartCommits :
    let s := up.onTrust fun t => { t with updStatus := 4, restarting := true }
    s.trust.boot = 3 ∧ s.trust.restarting = true ∧ s.trust.since = s.cnt.clk + s.cnt.withheld ∧ s.trust.updStatus = 4
      ∧ s.rel.ring.length + s.rel.waiting.length ≤ 4096 ∧ s.rel.waiting.length ≤ 60 := by decide
theorem witness_TokensTaken : up.trust.boot = 3 ∧ up.trust.restarting = false ∧ (List.replicate tokenSize (0 : Byte)).length = tokenSize
    ∧ ([] : List Byte).length ≠ tokenSize ∧ ¬(1 ≤ numAt (List.replicate 64 (0 : Byte)) 4 1) := by decide +kernel
theorem witness_DebugAccess :
    let inv := up.onTrust fun t => { t with level := 2, halted := true }
    let fab := up.onTrust fun t => { t with security := 0 }
    up.trust.boot = 3 ∧ up.trust.restarting = false ∧ up.trust.security ≠ 0 ∧ fab.trust.security = 0 ∧ inv.trust.level = 2
      ∧ ¬up.trust.level = 2 ∧ domOn inv 6 = true ∧ inv.trust.halted = true ∧ inv.fab.scanned ≤ inv.cnt.clk := by decide
theorem witness_DebugStep : (up.onTrust fun t => { t with level := 2, halted := true }).Idle :=
  ⟨⟨rfl, rfl, rfl, rfl, rfl, rfl, rfl, rfl, rfl, rfl, rfl, rfl, rfl⟩, rfl⟩
theorem witness_JtagInstructions :
    let fab := up.onTrust fun t => { t with security := 0 }
    ((fab.trust.security = 0 ∧ fab.trust.boot ≠ 4) ∨ fab.trust.security = 4)
      ∧ ¬((up.trust.security = 0 ∧ up.trust.boot ≠ 4) ∨ up.trust.security = 4) := by decide
theorem witness_AttestationAnswers :
    let s := fun k => up.onTrust fun t => { t with security := k }
    ∀ k ∈ [0, 1, 2, 4], (s k).trust.security = k ∧ (s k).trust.boot = 3 ∧ (s k).trust.restarting = false ∧ (s k).trust.slot0Set = true
      ∧ (s k).trust.aliasOk = true ∧ (aliasNow (s k)).left ≠ 0 := by decide
theorem witness_DiscoveryAnswers : 1 ≤ up.trust.boot ∧ up.trust.restarting = false ∧ (1 : BitVec 8) ≠ 0 ∧ domOn up 29 = true
    ∧ up.host.link = true ∧ 2 ≤ (2 : BitVec 8).toNat := by decide
theorem witness_ReadsAnswered :
    State.reset.trust.boot ≠ 3 ∧ State.reset.trust.boot ≠ 4 ∧ up.trust.boot = 3 ∧ up.trust.restarting = false
      ∧ stewardBusy (up.onTrust fun t => { t with restarting := true, since := 1 }) = true ∧ objRow 0xFFFF 0 = none
      ∧ (match objRow 0x2300 1 with
        | some r => mayRead (rightNow up r .bmc) && isScalar r.ty && !(readsFree 0x2300 1)
        | none => false) = true := by decide +kernel
theorem witness_WritesAnswered : up.trust.boot = 3 ∧ up.trust.restarting = false ∧ up.seq.running = false ∧ upGoing.seq.running = true
    ∧ 1 ≤ (128 : BitVec 8).toNat ∧ (128 : BitVec 8).toNat ≤ 128 ∧ 128 < (129 : BitVec 8).toNat := by decide
theorem witness_SessionsRun :
    let x : Session := ⟨7, 0x2309, 0, true, 0, []⟩
    let s := fun w => up.onDict fun d => { d with sessions := [(1, { x with write := w })] }
    up.dict.sessions = [] ∧ (s true).dict.sessions = [(1, x)] ∧ (s false).dict.sessions = [(1, { x with write := false })]
      ∧ (match objRow 0x4010 0 with
        | some r => isDomain r.ty && mayRead (rightNow up r .bmc)
        | none => false) = true
      ∧ (objRow 0x2309 0).isSome = true ∧ x.offset % 16 = 0 ∧ x.tag = 7 ∧ x.idx ≠ 0x1F50 ∧ up.seq.running = false ∧ x.bytes.length ≤ 2048 := by
  decide +kernel
theorem witness_EnableWrites :
    let d : Drain := ⟨3, 0, 4, 9, [], 5⟩
    let s := up.onCkpt fun c => { c with drain := some d }
    let b := up.onFab fun f => { f with beat := { resetBeat with gen := true, st := 1 } }
    up.trust.boot = 3 ∧ up.trust.restarting = false ∧ up.seq.running = false ∧ up.dict.mismatch = [] ∧ (3 : BitVec 8).toNat ≤ 3
      ∧ (15 : BitVec 8).toNat ≤ 15 ∧ (1 : BitVec 8).toNat ≤ 1 ∧ 250 ≤ (250 : BitVec 16).toNat ∧ (16000 : BitVec 16).toNat ≤ 16000
      ∧ b.fab.beat.gen = true ∧ b.fab.beat.st = 1 ∧ s.ckpt.drain = some d ∧ d.stratum = 3 ∧ d.seq = 4 ∧ s.marks = [] := by decide
theorem witness_PackagesInstalled : up.trust.boot = 3 ∧ up.trust.restarting = false ∧ (List.replicate 96 (7 : Byte)).length = 96
    ∧ storeGet [] up.trust.ownerKeys 4 = [] ∧ pealFormOk [] = false
    ∧ storeGet [] (up.onTrust fun t => { t with ownerKeys := [(4, [7])] }).trust.ownerKeys 4 ≠ [] := by decide +kernel

/-- The host owns queue 3 and may write cues. -/
def cueing : State := objSet (objSet up 0x2100 7 8) 0x2100 6 1
def startWord : W64 := BitVec.ofNat 64 (2 ^ 63 + 3 * 2 ^ 56 + 1 * 2 ^ 52)
theorem witness_HostCues :
    let s := cueing.onFab fun f => { f with hostStage := some (5, []) }
    let old := cueGet s 5
    let new : Cue := ⟨startWord, old.w1, old.w2, old.w3, false, true, []⟩
    domOn s 29 = true ∧ s.host.link = true ∧ s.host.pmcsr = 0 ∧ hostCuesOn up = false ∧ hostCuesOn cueing = true
      ∧ cueing.fab.hostStage = none ∧ (objGet s 0x2100 7).testBit (field startWord 59 56) = true ∧ cueV new = true ∧ cueBad new = false
      ∧ s.fab.hostStage = some (5, []) ∧ 960 ≤ (960 : BitVec 10).toNat ∧ (959 : BitVec 10).toNat < 960 := by decide +kernel
/-- BAR4 of 1 GiB over clay. -/
def overClay (s : State) : State := (objSet (objSet s 0x2200 1 1) 0x2201 1 0x10000).onHost fun h => { h with bar4k := 30, hwofs := 0 }
theorem witness_HostMemory :
    Spec.HostReaches up 2 0x40000008 (scratchBase + 8) ∧ Spec.HostReaches (overClay up) 4 8 8
      ∧ (∀ w ∈ wordsOf 8 24, hasTarget (overClay up) (16 * w) = true ∧ memoryOn (overClay up) (16 * w) = true ∧ inReserved (16 * w) = false) ∧ (overClay up).marks = []
      ∧ up.cnt.writes = [] ∧ domOn up 29 = true ∧ up.host.link = true ∧ up.host.pmcsr = 0 ∧ up.marks = [] ∧ 2 ≤ objGet (objSet up 0x2100 4 2) 0x2100 4
      ∧ objGet (objSet up 0x2100 4 0) 0x2100 4 = 0
      ∧ (∀ w ∈ wordsOf (scratchBase + 8) 24, hasTarget up (16 * w) = true ∧ memoryOn up (16 * w) = true ∧ inReserved (16 * w) = false) := by
  unfold Spec.HostReaches; decide +kernel
theorem witness_PoisonedHostRead :
    (∀ m ∈ [Mark.poison, .uncorrectable 5],
      let s := objSet (marked m) 0x2100 4 1
      domOn s 29 = true ∧ s.host.link = true ∧ s.host.pmcsr = 0 ∧ 1 ≤ objGet s 0x2100 4
        ∧ (∀ w ∈ wordsOf (scratchBase + 8) 24, hasTarget s (16 * w) = true ∧ memoryOn s (16 * w) = true ∧ inReserved (16 * w) = false)
        ∧ (∃ w ∈ wordsOf (scratchBase + 8) 24, badMark (markGet s w) = true) ∧ objGet s 0x4000 1 = 0)
      ∧ Spec.HostReaches (objSet (marked .poison) 0x2100 4 1) 2 0x40000008 (scratchBase + 8)
      ∧ (∀ w ∈ wordsOf (scratchBase + 8) 24, markGet (marked .poison) w = .good ∨ markGet (marked .poison) w = .poison) := by
  unfold Spec.HostReaches; decide +kernel
theorem witness_HostLink :
    let dark := up.onHost fun h => { h with link := false }
    let msg : List Byte := [1, 1, 0, 0, 0, 0x10, 0, 0, 0, 0, 0, 0, 0, 0, 0, 0]
    let posted := up.onHost fun h => { h with reqBuf := [(0, 1), (1, 1), (5, 0x10)] }
    domOn up 29 = true ∧ dark.host.perstHigh = true ∧ dark.host.link = false ∧ 1 ≤ objGet dark 0x2100 2 ∧ 1 ≤ objGet dark 0x2100 3
      ∧ up.host.link = true ∧ objGet (objSet up 0x3000 2 0) 0x3000 2 = 0 ∧ up.dict.sessions = [] ∧ 30 ≤ (30 : W32).toNat ∧ (42 : W32).toNat ≤ 42
      ∧ posted.host.pmcsr = 0 ∧ posted.trust.boot = 3 ∧ (∀ i < 16, storeGet 0 posted.host.reqBuf i = msg.getD i 0) := by decide +kernel
theorem witness_ModulesComeAndGo :
    let s := objSet up 0x2100 8 1
    let has := fun c => up.onDict fun d => { d with modules := [(c, someModule, 0)] }
    objGet s 0x2100 8 = 1 ∧ domOn s 29 = true ∧ moduleOf s 0x20 = none ∧ ¬(objGet up 0x2100 8 = 1 ∧ domOn up 29 = true ∧ moduleOf up 0x20 = none)
      ∧ nvmeReason noIdentity ≠ 0 ∧ moduleOf up 3 = none ∧ moduleOf (has 0x20) 0x20 ≠ none ∧ moduleOf (has 3) 3 ≠ none ∧ domOn (has 3) 24 = true := by
  decide +kernel

end Sys2Proof.Tests
end

section
/-! The step begun by MARK (01 R20, 11 R305, R311) and the start of a stream (11 R311, 15 R396). -/

namespace Sys2Proof.Machine

/-! ### Messages and the stop of the stream -/

/-- An event of an MSI-X vector reaches the host port and the outputs alone (17 R442). -/
theorem signal_frame (s : State) (v : Nat) : ∃ h o, signal s v = { s with host := h, out := o } := by
  unfold signal
  split
  · exact ⟨_, _, rfl⟩
  split
  · exact ⟨_, _, rfl⟩
  dsimp only
  split <;> exact ⟨_, _, rfl⟩

/-- The stop of a running stream, but for what its signal writes (03 R91). -/
theorem stopStream_frame (s : State) (hr : s.seq.running = true) : ∃ h o, stopStream s = { s with
    seq := { s.seq with running := false, wait := [], waitBeats := 0 }
    trust := { s.trust with halted := false }, host := h, out := o } := by
  obtain ⟨h, o, hs⟩ := signal_frame (((s.onSeq fun q => { q with running := false, wait := [], waitBeats := 0 }).onTrust
    fun t => { t with halted := false }).emit (.stream false 0)) 3
  exact ⟨h, o, by simp only [stopStream, hr, Bool.not_true, Bool.false_eq_true, if_false, hs]; rfl⟩

/-! ### The step that a MARK to angle 0 begins -/

/-- Operations that write the work in flight alone do so one after another. -/
theorem foldl_work {β : Type} {f : State → β → State} (h : ∀ t x, ∃ w, f t x = { t with work := w }) (l : List β) (s : State) :
    ∃ w, l.foldl f s = { s with work := w } := by
  induction l generalizing s with
  | nil => exact ⟨s.work, rfl⟩
  | cons x r ih =>
    obtain ⟨w, hw⟩ := h s x
    rw [List.foldl_cons, hw]
    exact ih _

/-- The advance of the scale slots is work for the clks that follow (07 R174). -/
theorem startAdvance_frame (s : State) (spr : BitVec 2) : ∃ w, startAdvance s spr = { s with work := w } := by
  refine foldl_work (fun t e => ?_) s.slots s
  split <;> exact ⟨_, rfl⟩

/-- A new step: its counts, and what the exchange, DCHK and the slots' advance write. -/
theorem newStep_frame (s : State) : ∃ w e k, newStep s = { s with
    work := w, coll := e, ctl := k
    cnt := { s.cnt with
      step := s.cnt.step + 1, restarts := 0, stepsRun := s.cnt.stepsRun + 1, firstStep := false, recoveryArm := false } } := by
  obtain ⟨w, hw⟩ := startAdvance_frame
    (s.onCnt fun c => { c with step := c.step + 1, restarts := 0, stepsRun := c.stepsRun + 1 }) s.seq.spr
  simp only [newStep, State.onCnt_seq, hw]
  exact ⟨w, _, _, rfl⟩

/-- The loss bound's check writes an interrupt latch and a counter alone (14 R382). -/
theorem lossCheck_frame (s : State) : ∃ i d, lossCheck s = { s with cnt := { s.cnt with ipend := i }, dict := d } := by
  unfold lossCheck
  split <;> exact ⟨_, _, rfl⟩

/-- What the sequencer's counts, the program's data and the angle scans are once a step has begun, or is repeated (01 R20). -/
structure StepBegun (s t : State) : Prop where
  step : t.cnt.step = if s.cnt.repeatPending then s.cnt.step else s.cnt.step + 1
  noRepeat : t.cnt.repeatPending = false
  angle : t.cnt.angle = s.cnt.angle
  watchdog : t.cnt.watchdog = s.cnt.watchdog
  clk : t.cnt.clk = s.cnt.clk
  scans : t.fab.angleScans = s.fab.angleScans
  seq : t.seq = s.seq
  power : t.power = s.power
  data : s.SameData t

/-- The angle scan that follows a begun step starts in the next clk, behind the scans that stood before. -/
theorem StepBegun.scanFollows {s t : State} (h : StepBegun s t) :
    t.fab.angleScans ++ [(t.cnt.clk + 1, 0, 0)] = s.fab.angleScans ++ [(s.cnt.clk + 1, 0, 0)] := by rw [h.scans, h.clk]

/-- What follows the count of the step, at a MARK to angle 0, changes none of this: the angle entries' flags, the phases and the loss
bound's check. -/
theorem StepBegun.close {s t : State} (h : StepBegun s t) (f : Fabric → Fabric) (hf : (f t.fab).angleScans = t.fab.angleScans) :
    StepBegun s (lossCheck (closePhases (t.onFab f))) := by
  obtain ⟨i, d, hl⟩ := lossCheck_frame (closePhases (t.onFab f))
  rw [hl]
  exact ⟨h.step, h.noRepeat, h.angle, h.watchdog, h.clk, hf.trans h.scans, h.seq, h.power, h.data⟩

theorem markZero_begins (s : State) : StepBegun s (markZero s) := by
  unfold markZero
  refine StepBegun.close ?_ _ rfl
  split
  next hr => exact ⟨(if_pos hr).symm, rfl, rfl, rfl, rfl, rfl, rfl, rfl, (onCnt_quiet s _).2⟩
  next hr =>
    obtain ⟨w, e, k, hn⟩ := newStep_frame s
    rw [hn]
    exact ⟨(if_neg hr).symm, Bool.eq_false_iff.mpr hr, rfl, rfl, rfl, rfl, rfl, rfl, rfl, rfl, rfl, rfl, rfl, rfl, rfl⟩

/-! ### MARK -/

/-- No condition stops MARK at issue: in a clk that is given it runs and takes an issue number (15 R400). -/
theorem exec_mark (s : State) (imm : BitVec 28) (hw : withheld s = false) (hd : (doMark imm s).power = s.power) :
    exec (.mark imm) s = .next (nextOp (doMark imm s)) := by
  have hrun : (plain 7 (doMark imm)).run (pealViolated s ((plain 7 (doMark imm)).reach s)) = doMark imm s := by simp [plain]
  have hissue := issueOne_runs (plain 7 (doMark imm)) s hw rfl rfl (by rw [hrun]; exact congrArg Power.domains hd)
  rw [hrun] at hissue
  exact congrArg Host.Outcome.next hissue

/-- MARK moves the angle, unless it is to angle 0 and a stop is pending. -/
theorem doMark_moves (s : State) (imm : BitVec 28) (h : imm.setWidth 16 = (0 : BitVec 16) → s.cnt.stopAtMark = false) :
    doMark imm s = markTo s (imm.setWidth 16) := by
  refine if_neg fun ⟨hz, hstop⟩ => ?_
  rw [h hz] at hstop
  exact Bool.false_ne_true hstop

/-- A MARK to angle 0 with a stop pending stops the stream instead. -/
theorem doMark_stops (s : State) (imm : BitVec 28) (hz : imm.setWidth 16 = (0 : BitVec 16)) (h : s.cnt.stopAtMark = true) :
    doMark imm s = stopStream s := if_pos ⟨hz, h⟩

/-- A MARK to another angle begins no step. -/
theorem markTo_nonzero (s : State) (a : BitVec 16) (h : a ≠ 0) : markTo s a = { s with
    cnt := { s.cnt with watchdog := 0, angle := a }
    fab := { s.fab with angleScans := s.fab.angleScans ++ [(s.cnt.clk + 1, 0, a.toNat)] } } := by
  simp only [markTo, h, if_false]
  rfl

/-- A MARK to angle 0 begins a step and then its angle scan. -/
theorem markTo_zero (s : State) : markTo s 0 =
    let t := markZero (s.onCnt fun c => { c with watchdog := 0, angle := 0 })
    t.onFab fun f => { f with angleScans := f.angleScans ++ [(t.cnt.clk + 1, 0, 0)] } := rfl

/-- Settles O34: MARK issues, and is a move, a begun step or a stop. -/
theorem markMovesTheAngle : Obligations.MarkMovesTheAngle := by
  intro s imm hw
  refine ⟨fun hz => ?_, fun hz hgo => ?_, fun hz hstop hr => ?_⟩
  · have hmark := doMark_moves s imm fun h => absurd h hz
    rw [markTo_nonzero s _ hz] at hmark
    rw [exec_mark s imm hw (by rw [hmark]), hmark]
    rfl
  · have hmark := doMark_moves s imm fun _ => hgo
    rw [hz, markTo_zero] at hmark
    have hb := markZero_begins (s.onCnt fun c => { c with watchdog := 0, angle := 0 })
    refine ⟨_, exec_mark s imm hw (by rw [hmark]; exact hb.power), ?_⟩
    rw [hmark]
    exact ⟨hb.angle, hb.watchdog, hb.noRepeat, hb.step, hb.scanFollows, hb.seq, hb.data⟩
  · have hmark := doMark_stops s imm hz hstop
    obtain ⟨h, o, hs⟩ := stopStream_frame s hr
    refine ⟨_, exec_mark s imm hw (by rw [hmark, hs]), ?_⟩
    rw [hmark, hs]
    exact ⟨rfl, rfl, rfl, rfl, rfl, rfl, rfl, rfl, rfl, rfl⟩

/-! ### The start of the stream -/

/-- A stream that has begun, as its chapters ask for it: in native form at M level and at its address, with nothing of an earlier job
open, the tiles unconfigured, the vendor entries in place and the stash empty (02 R46, 05 R119, 08 R204, 09 R228). -/
structure StreamBegun (s : State) (pc : IAddr) (x1 : W64) (t : State) : Prop where
  running : t.seq.running = true
  native : t.seq.compact = false
  level : t.seq.pl = 3
  pc : t.seq.pc = pc
  x1 : getX t 1 = x1
  xOther : ∀ r, r ≠ 1 → getX t r = 0
  f : ∀ r, getF t r = 0
  branch : t.seq.branch = none
  change : t.seq.change = none
  wait : t.seq.wait = []
  deferred : t.seq.deferred = []
  lines : t.seq.lines = []
  cfg : t.tiles.cfg = []
  recs : t.tiles.recs = []
  active : t.tiles.active = []
  shadow : t.tiles.shadow = []
  vendor : t.elem.vendor = true
  stash : t.dma.stash = []
  mem : t.mem = s.mem
  frag : t.tiles.frag = s.tiles.frag
  lanes : t.elem.l = s.elem.l
  power : t.power = s.power

/-- A start written out, up to the signal of its vector (DEDUCED, log entry 42). -/
theorem beginStream_eq (s : State) (q : Nat) (pc : IAddr) (x1 : W64) : beginStream s q pc x1 = signal { s with
    sc := { x := storeSet 0 [] 1 x1, f := [] }
    seq := { s.seq with
      running := true, pc := pc, compact := false, pl := 3, branch := none, change := none, lines := [], pmsync := []
      issueFrom := s.cnt.clk, awaiting := [], wait := [], waitBeats := 0, past := false, deferred := [], entries := [] }
    tiles := { s.tiles with cfg := [], accepted := [], recs := [], recMeta := [], active := [], shadow := [] }
    elem := { s.elem with vendor := true, vendorOver := [] }
    dma := { s.dma with stash := [], claims := [], cut := s.cnt.op, born := s.cnt.op }
    cnt := { s.cnt with stopAtMark := false, escalating := false, watchdog := 0, firstStep := true, stepsRun := 0 }
    ctl := { s.ctl with pwq := BitVec.ofNat 64 (q % 16) }
    rel := { s.rel with jobOpen := true }
    trust := { s.trust with halted := false }
    out := .stream true pc.toNat :: s.out } 3 := by
  simp only [beginStream, setX, if_neg Nat.one_ne_zero, stashReset, State.onSc, State.onSeq, State.onTiles, State.onElem,
    State.onDma, State.onCnt, State.onCtl, State.onRel, State.onTrust, State.emit]

/-- X1 is the only register of the file that a start writes (04 R99). -/
theorem getX_startFile {t : State} {v : W64} (h : t.sc.x = storeSet 0 [] 1 v) (r : Nat) : getX t r = if r = 1 then v else 0 := by
  by_cases hr : r = 0
  · simp [getX, hr]
  · simp [getX, hr, h, storeGet_set]

theorem beginStream_begins (s : State) (q : Nat) (pc : IAddr) (x1 : W64) : StreamBegun s pc x1 (beginStream s q pc x1) := by
  rw [beginStream_eq]
  obtain ⟨h, o, hs⟩ := signal_frame _ 3
  rw [hs]
  exact {
    running := rfl, native := rfl, level := rfl, pc := rfl
    x1 := (getX_startFile rfl 1).trans (if_pos rfl)
    xOther := fun r hr => (getX_startFile rfl r).trans (if_neg hr)
    f := fun _ => rfl
    branch := rfl, change := rfl, wait := rfl, deferred := rfl, lines := rfl, cfg := rfl, recs := rfl, active := rfl
    shadow := rfl, vendor := rfl, stash := rfl, mem := rfl, frag := rfl, lanes := rfl, power := rfl }

/-- A start by M level begins at the address of its argument, any other at the runtime address with the argument in X1
(01 R25, 11 Table 11-8). -/
theorem startAs_begins (s : State) (q : Nat) (own : BitVec 2) (arg : Nat) :
    StreamBegun s (if own = 3 then BitVec.ofNat 22 arg else BitVec.ofNat 22 (objGet s 0x2400 1))
      (if own = 3 then 0 else BitVec.ofNat 64 (arg % 2 ^ 22)) (startAs s q own arg) := by
  unfold startAs
  by_cases h : own = 3
  · simpa only [h, if_true] using beginStream_begins s q _ 0
  · simpa only [h, if_false] using beginStream_begins s q _ _

/-- Once the device is awake, the start that it was woken for takes place (15 R396). -/
theorem exec_streamStartAfterWake (s : State) {q : Nat} {own : BitVec 2} {arg : Nat} (hw : s.power.wake = some (q, own, arg))
    (hp : s.power.state = 0) :
    exec .streamStartAfterWake s = .next (startAs (s.onPower fun p => { p with wake := none }) q own arg) := by
  have h : startAfterWake s = startAs (s.onPower fun p => { p with wake := none }) q own arg := by
    simp only [startAfterWake, hw, hp, if_true]
  exact congrArg Host.Outcome.next h

/-- Settles O36: the start after a wake is a start, and the wake is over. -/
theorem streamStarts : Obligations.StreamStarts := by
  intro s q own arg hw hp
  have hb := startAs_begins (s.onPower fun p => { p with wake := none }) q own arg
  exact ⟨_, exec_streamStartAfterWake s hw hp, congrArg Power.wake hb.power, hb.running, hb.native, hb.level, hb.pc, hb.x1, hb.xOther,
    hb.f, hb.branch, hb.change, hb.wait, hb.deferred, hb.lines, hb.cfg, hb.recs, hb.active, hb.shadow, hb.vendor, hb.stash, hb.mem,
    hb.frag, hb.lanes⟩

end Sys2Proof.Machine
end

section
/-! The issue of one operation by itself, and the scalar operations: integers, FP, moves, reads of control registers (04 R102 to R104, 03 R66). -/

namespace Sys2Proof.Machine

/-! ### Issue of an operation by itself -/

/-- Without a condition an operation that leaves the domains' power alone runs, and takes an issue number. -/
theorem issueOne_opAt {slot : Nat} {c : State → Cond} {run : State → State} {s : State} (hw : withheld s = false)
    (hc : c s = none) (hd : (run s).power = s.power) : issueOne (opAt slot c run) s = nextOp (run s) := by
  have hrun : (opAt slot c run).run (pealViolated s ((opAt slot c run).reach s)) = run s := by simp [opAt]
  have hissue := issueOne_runs (opAt slot c run) s hw hc rfl (by rw [hrun]; exact congrArg Power.domains hd)
  rwa [hrun] at hissue

/-- Such an operation that schedules one landing leaves that landing, an issue number on, and nothing else. -/
theorem issue_lands {slot : Nat} {c : State → Cond} {run : State → State} {s : State} {l : Nat} {res : List Nat} {act : Micro}
    (hw : withheld s = false) (hc : c s = none) (hrun : run s = landIn s l s.cnt.op res act) :
    (.next (issueOne (opAt slot c run) s) : Host.Outcome State Fault Refusal) = .next (resultDue s l res act) := by
  rw [issueOne_opAt hw hc (by rw [hrun]; rfl), hrun]
  rfl

/-- An operation that meets its condition: a running stream takes the fault, in the operation's slot (02 R36). -/
theorem issue_faults {slot : Nat} {c : State → Cond} {run : State → State} {s : State} {code sub : Nat} (hw : withheld s = false)
    (hc : c s = some (code, sub)) (hr : s.seq.running = true) (h2 : code ≠ 2) :
    (.next (issueOne (opAt slot c run) s) : Host.Outcome State Fault Refusal)
      = .next (takeFault s (issueEvent s code sub slot false 0)) := by
  rw [issueOne_faults _ s hw hc hr, opEvent, if_neg h2]
  rfl

/-! ### Integer operations (04 R102, R103) -/

/-- A field as the bit vector that a shift and a truncation give. -/
theorem field_eq_setWidth {w : Nat} (x : BitVec w) (hi lo : Nat) : field x hi lo = ((x >>> lo).setWidth (hi + 1 - lo)).toNat := by
  simp [field, Nat.shiftRight_eq_div_pow]

theorem field_eq_iff {w : Nat} (x : BitVec w) (hi lo : Nat) (v : BitVec (hi + 1 - lo)) :
    field x hi lo = v.toNat ↔ (x >>> lo).setWidth (hi + 1 - lo) = v := by
  rw [field_eq_setWidth, BitVec.toNat_inj]

theorem scalarImmediateResults : Spec.ScalarImmediateResults := by
  intro s d a q i hw x m n lands
  have hn : field m 5 0 = n := by rw [field_eq_setWidth, BitVec.ushiftRight_zero]
  have hslt : one (x.slt m) = if x.toInt < m.toInt then 1 else 0 := by simp [one, BitVec.slt]
  refine ⟨issue_lands hw rfl rfl, issue_lands hw rfl rfl, issue_lands hw rfl rfl, issue_lands hw rfl rfl, ?_, ?_, ?_, ?_,
    issue_lands hw rfl rfl⟩
  · rw [← hn]; exact issue_lands hw rfl rfl
  · rw [← hn]; exact issue_lands hw rfl rfl
  · rw [← hn]; exact issue_lands hw rfl rfl
  · rw [← hslt]; exact issue_lands hw rfl rfl

/-- The high half of the exact signed product (04 R103). -/
theorem mulHigh_eq (x y : W64) : mulHigh x y = ((x.signExtend 128 * y.signExtend 128) >>> 64).setWidth 64 := by
  have hprod : x.signExtend 128 * y.signExtend 128 = BitVec.ofInt 128 (x.toInt * y.toInt) := by
    rw [BitVec.ofInt_mul]; rfl
  refine BitVec.eq_of_toNat_eq ?_
  simp only [hprod, mulHigh, sgn, BitVec.toNat_setWidth, BitVec.toNat_ushiftRight, BitVec.toNat_ofInt, Nat.shiftRight_eq_div_pow]
  generalize x.toInt * y.toInt = p
  omega

/-- The high half of the exact unsigned product (04 R103). -/
theorem mulHighU_eq (x y : W64) : mulHighU x y = ((x.setWidth 128 * y.setWidth 128) >>> 64).setWidth 64 := by
  refine BitVec.eq_of_toNat_eq ?_
  have hlt : x.toNat * y.toNat < 2 ^ 128 :=
    Nat.lt_of_lt_of_eq (Nat.mul_lt_mul'' x.isLt y.isLt) (by decide)
  have hx := x.isLt
  have hy := y.isLt
  simp only [mulHighU, BitVec.toNat_ofNat, BitVec.toNat_setWidth, BitVec.toNat_ushiftRight, BitVec.toNat_mul,
    Nat.shiftRight_eq_div_pow, Nat.mod_eq_of_lt (Nat.lt_trans hx (by decide : 2 ^ 64 < 2 ^ 128)),
    Nat.mod_eq_of_lt (Nat.lt_trans hy (by decide : 2 ^ 64 < 2 ^ 128)), Nat.mod_eq_of_lt hlt]

theorem scalarRegisterResults : Spec.ScalarRegisterResults := by
  intro s d a b q fn hw x y n lands
  have hslt : one (x.slt y) = if x.toInt < y.toInt then 1 else 0 := by simp [one, BitVec.slt]
  have hult : one (x.ult y) = if x.toNat < y.toNat then 1 else 0 := by simp [one, BitVec.ult]
  refine ⟨issue_lands hw rfl rfl, issue_lands hw rfl rfl, issue_lands hw rfl rfl, issue_lands hw rfl rfl, issue_lands hw rfl rfl,
    issue_lands hw rfl rfl, issue_lands hw rfl rfl, issue_lands hw rfl rfl, ?_, ?_, issue_lands hw rfl rfl, ?_, ?_⟩
  · rw [← hslt]; exact issue_lands hw rfl rfl
  · rw [← hult]; exact issue_lands hw rfl rfl
  · rw [← mulHigh_eq]; exact issue_lands hw rfl rfl
  · rw [← mulHighU_eq]; exact issue_lands hw rfl rfl

/-- Division rounds toward zero as `BitVec.sdiv` does; a divisor of zero gives all ones (04 R103). -/
theorem divSigned_eq (x y : W64) : divSigned x y = if y = 0 then 0xFFFFFFFFFFFFFFFF else x.sdiv y := by
  unfold divSigned
  split
  · rfl
  · exact BitVec.eq_of_toInt_eq (by rw [BitVec.toInt_ofInt, BitVec.toInt_sdiv]; rfl)

theorem remSigned_eq (x y : W64) : remSigned x y = if y = 0 then x else x.srem y := by
  unfold remSigned
  split
  · rfl
  · rw [sgn, sgn, ← BitVec.toInt_srem, BitVec.ofInt_toInt]

theorem divUnsigned_eq (x y : W64) : divUnsigned x y = if y = 0 then 0xFFFFFFFFFFFFFFFF else x / y := by
  unfold divUnsigned
  split
  · rfl
  · rw [← BitVec.toNat_udiv, BitVec.ofNat_toNat, BitVec.setWidth_eq]

theorem remUnsigned_eq (x y : W64) : remUnsigned x y = if y = 0 then x else x % y := by
  unfold remUnsigned
  split
  · rfl
  · rw [← BitVec.toNat_umod, BitVec.ofNat_toNat, BitVec.setWidth_eq]

theorem divisionRounding : Spec.DivisionRounding := fun x y =>
  ⟨divSigned_eq x y, remSigned_eq x y, divUnsigned_eq x y, remUnsigned_eq x y, by decide, by decide⟩

/-- Work in flight notes the loss of nothing but what an MVM takes. -/
theorem map_loseUnit {key : Nat} (h : mvmKey key = false) (op clk : Nat) (l : List Work) : l.map (loseUnit op key clk) = l := by
  have hw (w : Work) : loseUnit op key clk w = w := by
    unfold loseUnit
    split
    · simp [h]
    · rfl
  exact (List.map_congr_left fun w _ => hw w).trans l.map_id

/-- A free resource that no MVM takes is taken, and the work in flight stays (02 R63). -/
theorem claim_free {s : State} {u : RUnit} {slice clk : Nat} (hk : mvmKey (resKey u slice) = false)
    (h : resBusy s (resKey u slice) clk = false) (op d : Nat) : claim s u [slice] op clk d
      = { s with uses := storeSet ⟨0, 0, 0⟩ s.uses (resKey u slice) ⟨op, clk, clk + d⟩ } := by
  have hfree : ¬ clk < (storeGet ⟨0, 0, 0⟩ s.uses (resKey u slice)).free := of_decide_eq_false h
  simp [claim, claimFrom, claimOne, h, hfree, map_loseUnit hk]

/-- A resource that no MVM takes is taken over: the operation that holds it loses its work there, and the takeover is counted (02 R63). -/
theorem claim_busy {s : State} {u : RUnit} {slice clk op : Nat} (hk : mvmKey (resKey u slice) = false)
    (h : resBusy s (resKey u slice) clk = true) (hop : (storeGet ⟨0, 0, 0⟩ s.uses (resKey u slice)).op ≠ op) (d : Nat) :
    claim s u [slice] op clk d
      = { dropWork (objAdd s (reuseCounter u).1 (reuseCounter u).2 1) (storeGet ⟨0, 0, 0⟩ s.uses (resKey u slice)).op (resKey u slice)
            (clk + beginLag u) with
          uses := storeSet ⟨0, 0, 0⟩ s.uses (resKey u slice) ⟨op, clk, clk + d⟩ } := by
  have hbusy : clk < (storeGet ⟨0, 0, 0⟩ s.uses (resKey u slice)).free := of_decide_eq_true h
  have huses (i j n : Nat) : (objAdd s i j n).uses = s.uses := rfl
  have hdrop (t : State) (o k n : Nat) : (dropWork t o k n).uses = t.uses := rfl
  simp [claim, claimFrom, claimOne, h, hbusy, hop, huses, hdrop, map_loseUnit hk]

/-- A piece of work that loses a slice keeps its clk, its operation and its resources. -/
theorem loseLane_keeps (op key clk : Nat) (w : Work) :
    (loseLane op key clk w).op = w.op ∧ (loseLane op key clk w).res = w.res ∧ (loseLane op key clk w).due = w.due := by
  unfold loseLane
  dsimp only
  repeat' split
  all_goals exact ⟨rfl, rfl, rfl⟩

/-- What an operation that loses a resource from a clk on has left on it is due before that clk (02 R63). -/
theorem dropWork_due {s : State} {op key clk : Nat} {w : Work} (hw : w ∈ (dropWork s op key clk).work) (ho : w.op = op)
    (hk : key ∈ w.res) : w.due < clk := by
  obtain ⟨v, hv, rfl⟩ := List.mem_map.mp hw
  obtain ⟨hop, hres, hdue⟩ := loseLane_keeps op key clk v
  rw [hop] at ho
  rw [hres] at hk
  rw [hdue]
  simpa [ho, hk] using (List.mem_filter.mp hv).2

/-- What an operation on the divider or the FP divider leaves while the unit is free (02 R63). -/
theorem issue_lands_free {slot : Nat} {c : State → Cond} {run : State → State} {s : State} {u : RUnit} {l : Nat} {act : Micro}
    (hw : withheld s = false) (hc : c s = none) (hrun : run s = putLong u l act s) (hk : mvmKey (resKey u 0) = false)
    (hfree : resBusy s (resKey u 0) s.cnt.clk = false) :
    (.next (issueOne (opAt slot c run) s) : Host.Outcome State Fault Refusal) = .next { resultDue s l [resKey u 0] act with
      uses := storeSet ⟨0, 0, 0⟩ s.uses (resKey u 0) ⟨s.cnt.op, s.cnt.clk, s.cnt.clk + l⟩ } := by
  have hput : putLong u l act s = landIn { s with
      uses := storeSet ⟨0, 0, 0⟩ s.uses (resKey u 0) ⟨s.cnt.op, s.cnt.clk, s.cnt.clk + l⟩ } l s.cnt.op [resKey u 0] act := by
    rw [putLong, claim_free hk hfree]
  rw [issueOne_opAt hw hc (by rw [hrun, hput]; rfl), hrun, hput]
  rfl

theorem divisionCompletes : Spec.DivisionCompletes := by
  intro s d a b q fn hw x y key lands hfree
  exact ⟨issue_lands_free hw rfl rfl rfl hfree, issue_lands_free hw rfl rfl rfl hfree, issue_lands_free hw rfl rfl rfl hfree,
    issue_lands_free hw rfl rfl rfl hfree⟩

theorem putLong_quiet (u : RUnit) (l : Nat) (act : Micro) (s : State) : Quiet s (putLong u l act s) :=
  (claim_quiet s u [0] s.cnt.op s.cnt.clk l).trans (landIn_quiet ..)

theorem State.SameData.symm {s t : State} (h : s.SameData t) : t.SameData s := by
  obtain ⟨hmem, hmarks, hsc, htiles, helem, hslots, hcache⟩ := h
  exact ⟨hmem.symm, hmarks.symm, hsc.symm, htiles.symm, helem.symm, hslots.symm, hcache.symm⟩

/-- What the issue of an operation leaves that takes over the divider from the one that holds it (02 R63). -/
structure TakesOver (s t : State) (l : Nat) (act : Micro) : Prop where
  dropped : ∀ w ∈ t.work, w.op = (storeGet ⟨0, 0, 0⟩ s.uses (resKey .divider 0)).op → resKey .divider 0 ∈ w.res → w.due < s.cnt.clk
  due : ∃ w ∈ t.work, w.op = s.cnt.op ∧ w.due = s.cnt.clk + l ∧ w.act = act
  counted : objGet t 0x7230 3 = (objGet s 0x7230 3 + 1) % 2 ^ 64
  power : t.power = s.power
  data : s.SameData t

theorem putLong_takesOver {s : State} (hb : resBusy s (resKey .divider 0) s.cnt.clk = true)
    (hop : (storeGet ⟨0, 0, 0⟩ s.uses (resKey .divider 0)).op ≠ s.cnt.op) (l : Nat) (act : Micro) :
    TakesOver s (nextOp (putLong .divider l act s)) l act := by
  have hdata := ((putLong_quiet .divider l act s).trans (nextOp_quiet _)).2
  rw [putLong, claim_busy rfl hb hop l] at hdata ⊢
  refine ⟨fun w hw ho hk => ?_, ⟨_, (mem_insertWork ..).mpr (.inl rfl), rfl, rfl, rfl⟩, objGet_objAdd_same s 0x7230 3 1, rfl, hdata⟩
  rcases (mem_insertWork ..).mp hw with rfl | hold
  · exact absurd ho.symm hop
  · exact dropWork_due hold ho hk

theorem issue_takesOver {slot : Nat} {c : State → Cond} {run : State → State} {s : State} {l : Nat} {act : Micro}
    (hw : withheld s = false) (hc : c s = none) (hrun : run s = putLong .divider l act s)
    (hb : resBusy s (resKey .divider 0) s.cnt.clk = true) (hop : (storeGet ⟨0, 0, 0⟩ s.uses (resKey .divider 0)).op ≠ s.cnt.op) :
    ∃ t, (.next (issueOne (opAt slot c run) s) : Host.Outcome State Fault Refusal) = .next t ∧ TakesOver s t l act := by
  have htakes := putLong_takesOver hb hop l act
  rw [← hrun] at htakes
  exact ⟨_, congrArg Host.Outcome.next (issueOne_opAt hw hc htakes.power), htakes⟩

theorem dividerTakeover : Spec.DividerTakeover := by
  intro s d a b q fn old hw key x y hb hold hop cv hcv
  subst hold
  have htakes : ∃ t, exec cv.1 s = .next t ∧ TakesOver s t 20 (.setX d.toNat cv.2) := by
    simp only [List.mem_cons, List.not_mem_nil, or_false] at hcv
    rcases hcv with rfl | rfl | rfl | rfl <;> exact issue_takesOver hw rfl rfl hb hop
  obtain ⟨t, ht, h⟩ := htakes
  exact ⟨t, ht, h.dropped, h.due, h.counted, h.data.symm⟩

/-- Settles O9, operation by operation: each is the issue of one landing, the divisions through the divider. -/
theorem integerArithmetic : Obligations.IntegerArithmetic :=
  ⟨scalarImmediateResults, scalarRegisterResults, divisionRounding, divisionCompletes, dividerTakeover⟩

/-! ### The scalar FP unit (04 R102, R104) -/

theorem scalarFpResults : Spec.ScalarFpResults := by
  intro s d a b q fn hw f x y lands
  exact ⟨issue_lands hw rfl rfl, issue_lands hw rfl rfl, issue_lands hw rfl rfl, issue_lands hw rfl rfl, issue_lands hw rfl rfl,
    issue_lands hw rfl rfl, issue_lands hw rfl rfl, issue_lands hw rfl rfl, issue_lands hw rfl rfl⟩

theorem fpDivisionCompletes : Spec.FpDivisionCompletes := by
  intro s d a b q fn hw f key lands hfree
  exact ⟨issue_lands_free hw rfl rfl rfl hfree, issue_lands_free hw rfl rfl rfl hfree⟩

/-- A conversion of FN[3..1] below 6 meets no condition (04 R104). -/
theorem condFcvt_none {fn : BitVec 9} (h : field fn 3 1 < 6) : condFcvt fn = none := by
  simp [condFcvt, firstCond, h]

/-- FN[3..1] = 11xb is an unsupported format combination (04 R104). -/
theorem condFcvt_reserved {fn : BitVec 9} (h : 6 ≤ field fn 3 1) : condFcvt fn = some (0xB, 1) := by
  simp [condFcvt, firstCond, h]

theorem fcvtSelectsConversion : Spec.FcvtSelectsConversion := by
  intro s d a b q fn hw k
  have hk : field fn 3 1 = k.toNat := field_eq_setWidth fn 3 1
  refine ⟨fun h => ?_, fun h => ?_, fun h hr => ?_⟩
  · have hk' : field fn 3 1 = 3 ∨ field fn 3 1 = 5 := by rw [hk]; exact h.imp (congrArg BitVec.toNat) (congrArg BitVec.toNat)
    have hX : cvtToX fn = true := by simpa [cvtToX] using hk'
    exact issue_lands hw (condFcvt_none (by omega)) (if_pos hX)
  · have hk' : field fn 3 1 < 3 ∨ field fn 3 1 = 4 := by rw [hk]; exact h.imp_right (congrArg BitVec.toNat)
    have hF : ¬ cvtToX fn = true := by
      simp only [cvtToX, Bool.or_eq_true, decide_eq_true_eq]
      omega
    exact issue_lands hw (condFcvt_none (by omega)) (if_neg hF)
  · exact issue_faults hw (condFcvt_reserved (by rw [hk]; exact h)) hr (by decide)

/-! ### The form of an FP result (04 R104) -/

/-- The patterns that the FP units give: the canonical NaN, and a sign with a magnitude up to that of infinity. -/
def CanonicalPattern (f : Fmt) (p : Nat) : Prop := p = fmtNan f ∨ ∃ neg, ∃ m ≤ fmtInf f, p = withSign f neg m

theorem CanonicalPattern.sign {f : Fmt} {m : Nat} (h : m ≤ fmtInf f) (neg : Bool) : CanonicalPattern f (withSign f neg m) :=
  .inr ⟨neg, m, h, rfl⟩

theorem CanonicalPattern.nan (f : Fmt) : CanonicalPattern f (fmtNan f) := .inl rfl

section
variable {f : Fmt} (hf : f.special = .ieee)
include hf

theorem roundTo_canonical (neg : Bool) (n d : Nat) (e : Int) : CanonicalPattern f (roundTo f neg n d e) := by
  have hmax : fmtMax f = fmtInf f - 1 := by simp [fmtMax, fmtInf, hf]
  refine .sign ?_ neg
  split <;> omega

theorem fEncode_canonical (v : FVal) : CanonicalPattern f (fEncode f v) := by
  cases v with
  | nan => exact .nan f
  | inf neg => exact .sign (Nat.le_refl _) neg
  | fin neg n e => exact roundTo_canonical hf neg n 1 e

theorem fDiv_canonical (a b : FVal) : CanonicalPattern f (fDiv f a b) := by
  unfold fDiv
  split
  · exact .nan f
  · exact .nan f
  · exact .nan f
  · exact .sign (Nat.le_refl _) _
  · exact .sign (Nat.zero_le _) _
  · split
    · split
      · exact .nan f
      · exact .sign (Nat.le_refl _) _
    · exact roundTo_canonical hf ..

theorem fSqrt_canonical (a : FVal) : CanonicalPattern f (fSqrt f a) := by
  have hinf : CanonicalPattern f (fmtInf f) := .inr ⟨false, _, Nat.le_refl _, by simp [withSign, b2n]⟩
  unfold fSqrt
  split
  · exact .nan f
  · split
    · exact .nan f
    · exact hinf
  · split
    · exact .sign (Nat.zero_le _) _
    · split
      · exact .nan f
      · exact roundTo_canonical hf ..

end

/-- In the register an FP32 pattern has its upper half zero, and is a NaN only where it is the canonical one. -/
theorem CanonicalPattern.fpOut_fp32 {p : Nat} (h : CanonicalPattern fp32 p) : (fpOut p).toNat < 2 ^ 32
    ∧ (field (fpOut p) 30 23 = 255 → field (fpOut p) 22 0 ≠ 0 → fpOut p = 0x7FC00000) := by
  rcases h with rfl | ⟨neg, m, hm, rfl⟩
  · exact ⟨by decide, fun _ _ => rfl⟩
  · have hm : m ≤ 255 * 2 ^ 23 := hm
    have hp : (fpOut (withSign fp32 neg m)).toNat = b2n neg * 2 ^ 31 + m := by
      cases neg <;> simp [fpOut, withSign, b2n, fp32] <;> omega
    have hneg : b2n neg ≤ 1 := by cases neg <;> decide
    simp only [field, hp]
    omega

/-- An FP64 pattern is a NaN only where it is the canonical one. -/
theorem CanonicalPattern.fpOut_fp64 {p : Nat} (h : CanonicalPattern fp64 p) :
    field (fpOut p) 62 52 = 2047 → field (fpOut p) 51 0 ≠ 0 → fpOut p = 0x7FF8000000000000 := by
  rcases h with rfl | ⟨neg, m, hm, rfl⟩
  · exact fun _ _ => rfl
  · have hm : m ≤ 2047 * 2 ^ 52 := hm
    have hp : (fpOut (withSign fp64 neg m)).toNat = b2n neg * 2 ^ 63 + m := by
      cases neg <;> simp [fpOut, withSign, b2n, fp64] <;> omega
    have hneg : b2n neg ≤ 1 := by cases neg <;> decide
    simp only [field, hp]
    omega

/-- Every rounding operation of the scalar FP unit writes such a pattern. -/
theorem fpResult_canonical {f : Fmt} (hf : f.special = .ieee) (x y z : W64) :
    ∀ r ∈ [fpAdd f x y, fpSub f x y, fpMul f x y, fpFma f x y z, fpDiv f x y, fpSqrt f x, fpMinMax false f x y, fpMinMax true f x y],
      ∃ p, CanonicalPattern f p ∧ r = fpOut p := by
  intro r hr
  simp only [List.mem_cons, List.not_mem_nil, or_false] at hr
  rcases hr with rfl | rfl | rfl | rfl | rfl | rfl | rfl | rfl
  · exact ⟨_, fEncode_canonical hf _, rfl⟩
  · exact ⟨_, fEncode_canonical hf _, rfl⟩
  · exact ⟨_, fEncode_canonical hf _, rfl⟩
  · exact ⟨_, fEncode_canonical hf _, rfl⟩
  · exact ⟨_, fDiv_canonical hf _ _, rfl⟩
  · exact ⟨_, fSqrt_canonical hf _, rfl⟩
  · exact ⟨_, fEncode_canonical hf _, rfl⟩
  · exact ⟨_, fEncode_canonical hf _, rfl⟩

theorem fpResultForm : Spec.FpResultForm := by
  intro x y z
  refine ⟨fun r hr => ?_, fun r hr => ?_⟩
  · obtain ⟨p, hp, rfl⟩ := fpResult_canonical (f := fp32) rfl x y z r hr
    exact hp.fpOut_fp32
  · obtain ⟨p, hp, rfl⟩ := fpResult_canonical (f := fp64) rfl x y z r hr
    exact hp.fpOut_fp64

/-- Settles O10: the results land, and every rounding gives a canonical pattern. -/
theorem scalarFp : Obligations.ScalarFp :=
  ⟨scalarFpResults, fpDivisionCompletes, fcvtSelectsConversion, fpResultForm⟩

/-! ### Moves, constants and reads of control registers (04 R102, 03 R66) -/

theorem confValue_eq (q : BitVec 4) (i : Imm) : confValue q i = (scImm q i).setWidth 42 ++ (0 : BitVec 22) := by
  refine BitVec.eq_of_toNat_eq ?_
  have hzero : (0 : BitVec 22).toNat = 0 := rfl
  simp only [BitVec.toNat_append, confValue, BitVec.toNat_ofNat, BitVec.toNat_setWidth, Nat.shiftLeft_eq, hzero, Nat.or_zero]
  omega

/-- A read of a control register meets no word in error: it changes nothing. -/
theorem meetCtl_good {s : State} {n : Nat} (hslot : 0x511 ≤ n ∧ n < 0x514 → (slotGet s (selSlot s)).marks = [])
    (hcue : 0x901 ≤ n ∧ n < 0x905 → (cueGet s (selCue s)).marks = []) : meetCtl s n = s := by
  unfold meetCtl
  split
  next h => simp [meetSlot, hslot h]
  next =>
    split
    next h => simp [meetCue, hcue h]
    next => rfl

/-- Settles O11: each of the moves is the issue of one landing, and a read that meets no word in error too. -/
theorem scalarMovesComplete : Obligations.ScalarMovesComplete := by
  intro s d a b q fn i hw
  refine ⟨issue_lands hw rfl rfl, issue_lands hw rfl rfl, ?_, fun hc hslot hcue => ?_⟩
  · rw [← confValue_eq]
    exact issue_lands hw rfl rfl
  · have hread : doCtlr d i s = putX (if 0x300 ≤ immZ i ∧ immZ i < 0x304 then 1 else 2) d (ctlRead s (immZ i)) s := by
      rw [doCtlr, meetCtl_good hslot hcue]
    exact issue_lands hw hc hread

end Sys2Proof.Machine
end

section
/-! Short vectors, and the issue of scalar and short-vector memory accesses (04 R105, R108 to R113). -/

namespace Sys2Proof.Machine

/-! ### Short-vector integer operations (04 R108, R109) -/

/-- The issue of an operation that lands a whole vector. -/
theorem issue_landsVec {slot : Nat} {c : State → Cond} {run : State → State} {s : State} {l : Nat} {q : Bool} {d : BitVec 5} {e : Nat}
    {els els' : List Nat} (hw : withheld s = false) (hc : c s = none) (hrun : run s = putV l q d e els s) (hels : els = els') :
    (.next (issueOne (opAt slot c run) s) : Host.Outcome State Fault Refusal)
      = .next (resultDue s l [] (.setVec d.toNat 64 (Spec.halves q (vPack e els')))) := by
  subst hels
  exact issue_lands hw hc hrun

theorem maskOf_decide (e : Nat) (p : Prop) [Decidable p] : maskOf e (decide p) = if p then 2 ^ e - 1 else 0 := by
  by_cases h : p <;> simp [maskOf, h]

theorem vectorIntegerResults : Spec.VectorIntegerResults := by
  intro s o hw e a b c sat uns num ones lands
  refine ⟨fun hc => ⟨issue_lands hw hc rfl, issue_lands hw hc rfl, issue_lands hw hc rfl, issue_lands hw hc rfl, issue_lands hw hc rfl,
    issue_lands hw hc rfl, issue_lands hw hc rfl, issue_lands hw hc rfl, issue_lands hw hc rfl, ?_, ?_⟩, fun hc => issue_lands hw hc rfl⟩
  · exact issue_landsVec hw hc rfl (List.map_congr_left fun i _ => maskOf_decide e (a i = b i))
  · exact issue_landsVec hw hc rfl (List.map_congr_left fun i _ => maskOf_decide e (num (b i) < num (a i)))

/-- A pattern stands for its number modulo 2^n. -/
theorem patternOf_cast (n : Nat) (z : Int) : (patternOf n z : Int) = z % ((2 ^ n : Nat) : Int) := by
  have hpos := Nat.two_pow_pos n
  exact Int.toNat_of_nonneg (Int.emod_nonneg z (by omega))

theorem patternOf_lt (n : Nat) (z : Int) : patternOf n z < 2 ^ n := by
  have hpos := Nat.two_pow_pos n
  have hlt := Int.emod_lt_of_pos z (b := ((2 ^ n : Nat) : Int)) (by omega)
  rw [← patternOf_cast] at hlt
  omega

/-- A number in the signed range of n bits is read back from its pattern. -/
theorem signedOf_patternOf {n : Nat} (hn : 0 < n) {z : Int} (hlo : -((2 ^ (n - 1) : Nat) : Int) ≤ z)
    (hhi : z ≤ ((2 ^ (n - 1) : Nat) : Int) - 1) : signedOf n (patternOf n z) = z := by
  have hp := patternOf_cast n z
  have hpow : 2 ^ n = 2 * 2 ^ (n - 1) := by rw [← Nat.pow_succ', Nat.succ_eq_add_one, Nat.sub_add_cancel hn]
  rw [signedOf, Nat.mod_eq_of_lt (patternOf_lt n z)]
  rw [hpow] at hp ⊢
  generalize 2 ^ (n - 1) = h at *
  rcases Int.lt_or_le z 0 with hz | hz
  · have hm : z % ((2 * h : Nat) : Int) = z + (2 * h : Nat) := by
      rw [← Int.add_emod_right, Int.emod_eq_of_lt (by omega) (by omega)]
    split <;> omega
  · have hm : z % ((2 * h : Nat) : Int) = z := Int.emod_eq_of_lt hz (by omega)
    split <;> omega

theorem vectorNarrowing : Spec.VectorNarrowing := by
  intro e z he
  have hcast (n : Nat) : (2 : Int) ^ n = ((2 ^ n : Nat) : Int) := (Int.natCast_pow 2 n).symm
  have hhalf := Nat.two_pow_pos (e - 1)
  rw [hcast, hcast]
  refine ⟨fun uns => ⟨patternOf_lt e z, ?_⟩, ?_, signedOf_patternOf he (by omega) (by omega)⟩
  · have hwraps : (narrow e false uns z : Int) = z % ((2 ^ e : Nat) : Int) := patternOf_cast e z
    rw [hwraps, Int.emod_sub_emod, Int.sub_self, Int.zero_emod]
  · exact Int.toNat_of_nonneg (by omega)

/-- Settles O13: each operation is the issue of one landing, and a clamped number is in its range. -/
theorem vectorInteger : Obligations.VectorInteger := ⟨vectorIntegerResults, vectorNarrowing⟩

/-! ### Short-vector FP and widening operations (04 R108, R110 to R112) -/

theorem maskOf_beq (e : Nat) (x y : Option Ordering) : maskOf e (x == y) = if x = y then 2 ^ e - 1 else 0 := by
  by_cases h : x = y <;> simp [maskOf, h]

theorem vectorFpResults : Spec.VectorFpResults := by
  intro s o hw e f a b c ones lands
  refine ⟨fun hc => ⟨issue_lands hw hc rfl, issue_lands hw hc rfl, issue_lands hw hc rfl, issue_lands hw hc rfl, issue_lands hw hc rfl,
    ?_, ?_⟩, fun hc => issue_lands hw hc rfl⟩
  · exact issue_landsVec hw hc rfl (List.map_congr_left fun i _ => maskOf_beq e (fvCompare (a i) (b i)) (some .eq))
  · exact issue_landsVec hw hc rfl (List.map_congr_left fun i _ => maskOf_beq e (fvCompare (a i) (b i)) (some .lt))

/-- VA is unsigned where FN[3..2] is 01b (04 R111). -/
theorem elemInt_dotUns_fst (e : Nat) (fn : BitVec 4) (x : Nat) :
    elemInt e (dotUns fn).1 x = if (fn >>> 2).setWidth 2 = (1 : BitVec 2) then (x : Int) else signedOf e x := by
  simp only [elemInt, dotUns, decide_eq_true_eq]
  exact ite_congr (propext (field_eq_iff fn 3 2 1)) (fun _ => rfl) fun _ => rfl

/-- VB is signed where FN[3..2] is 00b (04 R111). -/
theorem elemInt_dotUns_snd (e : Nat) (fn : BitVec 4) (x : Nat) :
    elemInt e (dotUns fn).2 x = if (fn >>> 2).setWidth 2 = (0 : BitVec 2) then signedOf e x else (x : Int) := by
  simp only [elemInt, dotUns, decide_eq_true_eq, ne_eq, ite_not]
  exact ite_congr (propext (field_eq_iff fn 3 2 0)) (fun _ => rfl) fun _ => rfl

theorem sum_range_four (f : Nat → Int) : ((List.range 4).map f).sum = f 0 + f 1 + f 2 + f 3 := by
  simp [List.range_succ, Int.add_assoc]

theorem vectorWideningResults : Spec.VectorWideningResults := by
  intro s o hw e n q sign a b c wide
  have ha (i : Nat) : elemInt (esBits o.es) (dotUns o.fn).1 (vElem (getV s o.qf o.va.toNat) (esBits o.es) i) = a i := elemInt_dotUns_fst ..
  have hb (i : Nat) : elemInt (esBits o.es) (dotUns o.fn).2 (vElem (getV s o.qf o.vb.toNat) (esBits o.es) i) = b i := elemInt_dotUns_snd ..
  have hq : field o.fn 1 0 = q := by rw [field_eq_setWidth, BitVec.ushiftRight_zero]
  refine ⟨fun hc => issue_landsVec hw hc rfl (List.map_congr_left fun j _ => ?_),
    fun hc => issue_landsVec hw hc rfl (List.map_congr_left fun j _ => ?_), fun hc => issue_landsVec hw hc rfl ?_⟩
  · rw [ha, hb, hq]
    rfl
  · simp only [sum_range_four, ha, hb]
    rfl
  · rw [List.map_const', List.length_range]
    rfl

/-- Settles O14: each operation is the issue of one landing, its elements computed one by one. -/
theorem vectorFp : Obligations.VectorFp := ⟨vectorFpResults, vectorWideningResults⟩

/-! ### The issue of a memory access (04 R105, Table 4-3) -/

/-- The state in which an access has issued: three clk later it is located and checked. -/
theorem issue_access {slot : Nat} {c : State → Cond} {acc : State → Access} {s : State} (hw : withheld s = false) (hc : c s = none)
    (hop : (acc s).op = s.cnt.op) (hbase : (acc s).base = s.cnt.clk) :
    (.next (issueOne (opAt slot c fun s => issueAccess (acc s) s) s) : Host.Outcome State Fault Refusal)
      = .next { resultDue s 3 [] (.access (acc s)) with
          work := insertWork { due := s.cnt.clk + 3, phase := 1, op := s.cnt.op, res := [], act := .access (acc s) } s.work } := by
  rw [issueOne_opAt hw hc rfl, issueAccess, hop, hbase]
  rfl

theorem bit_eq_decide {w : Nat} (x : BitVec w) (i : Nat) : bit x i = decide (x.toNat / 2 ^ i % 2 = 1) :=
  Nat.testBit_eq_decide_div_mod_eq

/-- The operand syllable of a scalar access: D in [13..9], A in [8..4], Q in [3..0] (02 Table 2-4). -/
theorem scSyllable_fields (d a : BitVec 5) (q : BitVec 4) :
    let p1 := (BitVec.ofNat 14 (d.toNat * 512 + a.toNat * 16 + q.toNat) : BitVec 14)
    field p1 2 1 = field q 2 1 ∧ field p1 13 9 = d.toNat ∧ bit p1 3 = bit q 3 := by
  have hd := d.isLt
  have ha := a.isLt
  have hq := q.isLt
  simp only [field, bit_eq_decide, BitVec.toNat_ofNat, decide_eq_decide]
  omega

/-- The operand syllable of a short-vector access: the data register in [13..9], X A in [8..4], QF in [3], ES in [2..0] (02 Table 2-4). -/
theorem svSyllable_fields (vd xa : BitVec 5) (qf : Bool) (es : BitVec 3) :
    let p1 := (BitVec.ofNat 14 (vd.toNat * 512 + xa.toNat * 16 + b2n qf * 8 + es.toNat) : BitVec 14)
    field p1 2 0 = es.toNat ∧ field p1 13 9 = vd.toNat ∧ bit p1 3 = qf := by
  have hd := vd.isLt
  have ha := xa.isLt
  have hes := es.isLt
  have hb : b2n qf ≤ 1 := by cases qf <;> decide
  have hqf : qf = decide (b2n qf = 1) := by cases qf <;> rfl
  refine ⟨?_, ?_, Eq.trans ?_ hqf.symm⟩ <;> simp only [field, bit_eq_decide, BitVec.toNat_ofNat, decide_eq_decide] <;> omega

/-- The major and minor opcode of a scalar access in its short and its long form (04 Table 4-2). -/
theorem scOpcode_fields (long st fp : Bool) :
    let maj := if long then 5 else if st then 3 else 2
    let min := (if long && st then 2 else 0) + b2n fp
    let opcode := (BitVec.ofNat 14 (maj * 256 + min) : BitVec 14)
    field opcode 13 8 = maj ∧ field opcode 7 0 = min := by
  decide +revert

/-- The opcode says whether the access stores and which file it reaches, its operand syllable the rest (04 R105). -/
theorem accShape_scAccess (st fp : Bool) (d a : BitVec 5) (q : BitVec 4) (i : Imm) (s : State) :
    accShape (scAccess st fp d a q i s) = some ⟨st, false, fp, 1, 2 ^ field q 2 1, 0, false, d.toNat, bit q 3⟩ := by
  obtain ⟨hsize, hd, hsign⟩ := scSyllable_fields d a q
  obtain ⟨hmaj, hmin⟩ := scOpcode_fields (decide (i.width ≠ .w14) && decide (i.width ≠ .w12)) st fp
  simp only [accShape, scAccess, hmaj, hmin, hsize, hd, hsign]
  generalize (decide (i.width ≠ .w14) && decide (i.width ≠ .w12)) = long
  cases long <;> cases st <;> cases fp <;> rfl

/-- The opcode says how the elements lie and whether they are stored, the operand syllable their number and size (04 Table 4-3). -/
theorem accShape_svAccess {k : Nat} (hk : k < 5) (o : SvMem) (s : State) :
    accShape (svAccess k o s) = some ⟨decide (k = 1) || decide (k = 3), true, true, if k = 4 then 1 else vCount o.qf (8 * 2 ^ o.es.toNat),
      2 ^ o.es.toNat, if k = 2 ∨ k = 3 then signedOf 14 o.imm.toNat else ((2 ^ o.es.toNat : Nat) : Int), decide (k = 4), o.vd.toNat,
      false⟩ := by
  obtain ⟨hes, hvd, hqf⟩ := svSyllable_fields o.vd o.xa o.qf o.es
  have hmaj : field (BitVec.ofNat 14 (0x1000 + k)) 13 8 = 0x10 := by
    simp only [field, BitVec.toNat_ofNat]; omega
  have hmin : field (BitVec.ofNat 14 (0x1000 + k)) 7 0 = k := by
    simp only [field, BitVec.toNat_ofNat]; omega
  have hbytes : 8 * 2 ^ o.es.toNat / 8 = 2 ^ o.es.toNat := Nat.mul_div_cancel_left _ (by decide)
  simp [accShape, svAccess, hmaj, hmin, hes, hvd, hqf, hbytes, hk]

/-- A pattern of its own width is read as the signed number that it holds. -/
theorem signedOf_toNat {w : Nat} (x : BitVec w) : signedOf w x.toNat = x.toInt := by
  rw [signedOf, Nat.mod_eq_of_lt x.isLt, BitVec.toInt_eq_toNat_cond]

/-- LDF and STF take 4 and 8 bytes alone (04 R105). -/
theorem condFpSize_none {q : BitVec 4} (h : 4 ≤ 2 ^ field q 2 1) : condFpSize q = none := by
  have h2 : ¬ field q 2 1 < 2 := fun hlt => by
    have := Nat.pow_lt_pow_right (a := 2) (by decide) hlt
    omega
  simp [condFpSize, firstCond, h2]

theorem condFpSize_small {q : BitVec 4} (h : q.getLsbD 2 = false) : condFpSize q = some (0xB, 1) := by
  have hlt : field q 2 1 < 2 := by
    have hbit : ¬ q.toNat / 2 ^ 2 % 2 = 1 := of_decide_eq_false ((bit_eq_decide q 2).symm.trans h)
    rw [field]
    omega
  simp [condFpSize, firstCond, hlt]

theorem scalarAccessIssues : Spec.ScalarAccessIssues := by
  intro s d a q i st fp hw c size hfp
  have hsize : 2 ^ field q 2 1 = size := by rw [field_eq_setWidth]
  have hexec : exec c s = .next (issueOne (opAt 0 (fun _ => if fp then condFpSize q else none)
      fun s => issueAccess (scAccess st fp d a q i s) s) s) := by
    cases st <;> cases fp <;> rfl
  have hcond : (if fp then condFpSize q else none) = none := by
    split
    next h => exact condFpSize_none (hsize ▸ hfp h)
    next => rfl
  have hdata : (scAccess st fp d a q i s).data = if st then (if fp then getF s d.toNat else getX s d.toNat).setWidth 128 else 0 := by
    cases fp <;> rfl
  exact ⟨scAccess st fp d a q i s, hexec.trans (issue_access hw hcond rfl rfl), rfl, rfl, rfl, rfl, rfl, rfl, hdata,
    _, accShape_scAccess .., rfl, rfl, rfl, hsize, rfl, rfl, rfl⟩

theorem fpAccessSizeFault : Spec.FpAccessSizeFault := by
  intro s d a q i hw hr hq
  exact ⟨issue_faults hw (condFpSize_small hq) hr (by decide), issue_faults hw (condFpSize_small hq) hr (by decide)⟩

theorem vectorAccessIssues : Spec.VectorAccessIssues := by
  intro s o k c hw hmem hcond step
  have hexec : k < 5 ∧ exec (c o) s = .next (issueOne (opAt 1 (fun _ => condVmem o) fun s => issueAccess (svAccess k o s) s) s) := by
    simp only [List.mem_cons, List.not_mem_nil, or_false] at hmem
    rcases hmem with ⟨rfl, rfl⟩ | ⟨rfl, rfl⟩ | ⟨rfl, rfl⟩ | ⟨rfl, rfl⟩ | ⟨rfl, rfl⟩ <;> exact ⟨by decide, rfl⟩
  obtain ⟨hk, hexec⟩ := hexec
  refine ⟨svAccess k o s, hexec.trans (issue_access hw hcond rfl rfl), rfl, rfl, rfl, rfl, rfl, _, accShape_svAccess hk o s, rfl, rfl, rfl,
    (Bool.decide_or ..).symm, rfl, fun i => ?_⟩
  have hoff : BitVec.ofInt 64 (signedOf 14 o.imm.toNat) = o.imm.signExtend 64 := by rw [signedOf_toNat]; rfl
  have hbase : (svAccess k o s).ea = getX s o.xa.toNat + if k = 2 ∨ k = 3 then 0 else o.imm.signExtend 64 := by
    rw [← hoff, svAccess]
    split
    · exact (BitVec.add_zero _).symm
    · rfl
  have hstep : (if k = 2 ∨ k = 3 then signedOf 14 o.imm.toNat else ((2 ^ o.es.toNat : Nat) : Int)) = step := by rw [signedOf_toNat]
  rw [elemAddr, hbase, hstep]

/-- Settles O16: an access is the issue of its detection, and its shape is read from its opcode and its operand syllable. -/
theorem coreAccesses : Obligations.CoreAccesses := ⟨scalarAccessIssues, fpAccessSizeFault, vectorAccessIssues⟩

end Sys2Proof.Machine
end

section
/-! Bytes that land in memory (04 R107, 13 R479), and the state after reset (04 R99, 01 R25). -/

namespace Sys2Proof.Machine

/-! ### Bytes that land in memory (04 R107, 13 R479) -/

/-- A write to a word, where no word is marked, stores its bytes and changes the correction lists alone besides. -/
theorem writeWord_unmarked {s : State} (h : s.marks = []) (w : Nat) (u : List (Nat × Byte)) :
    ∃ r, writeWord s w u = { pokeBytes s u with rel := r } := by
  have hset (v : State) (hv : v.marks = []) : setMark v w .good = v := by
    obtain ⟨⟩ := v
    subst hv
    rfl
  have hgood : markGet s w = .good := by rw [markGet, h]; rfl
  unfold writeWord
  dsimp only
  split
  · rw [hset (pokeBytes s u) h]
    exact ⟨_, rfl⟩
  · rw [decodeWord_good s w 0 hgood, if_neg Bool.false_ne_true, hset (pokeBytes s u) h]
    exact ⟨_, rfl⟩

/-- The last of the bytes that an address is given, or what stood there. -/
def byteAfter (bs : List (Nat × Byte)) (old : Byte) (a : Nat) : Byte :=
  match bs.reverse.find? (fun b => decide (b.1 = a)) with
  | some b => b.2
  | none => old

/-- The bytes of one word decide what an address of that word is given, and no other address. -/
theorem byteAfter_word (bs : List (Nat × Byte)) (w : Nat) (old : Byte) (a : Nat) :
    byteAfter (bs.filter fun b => decide (b.1 / 16 = w)) old a = if a / 16 = w then byteAfter bs old a else old := by
  have hfind : (bs.filter fun b => decide (b.1 / 16 = w)).reverse.find? (fun b => decide (b.1 = a))
      = if a / 16 = w then bs.reverse.find? (fun b => decide (b.1 = a)) else none := by
    rw [← List.filter_reverse, List.find?_filter]
    split
    next h =>
      congr 1
      funext b
      by_cases hb : b.1 = a <;> simp [hb, h]
    next h =>
      rw [List.find?_eq_none]
      intro b _ hb
      simp only [decide_eq_true_eq] at hb
      omega
  unfold byteAfter
  rw [hfind]
  by_cases h : a / 16 = w
  · rw [if_pos h, if_pos h]
  · rw [if_neg h, if_neg h]

/-- An address to which no byte goes keeps what stood there. -/
theorem byteAfter_absent {bs : List (Nat × Byte)} {a : Nat} (h : ∀ b ∈ bs, b.1 ≠ a) (old : Byte) : byteAfter bs old a = old := by
  have : bs.reverse.find? (fun b => decide (b.1 = a)) = none := by
    rw [List.find?_eq_none]
    exact fun b hb => by simpa using h b (List.mem_reverse.mp hb)
  rw [byteAfter, this]

/-- Whether or not a word has been given its bytes before, they stand after. -/
theorem byteAfter_again (bs : List (Nat × Byte)) (old : Byte) (a : Nat) : byteAfter bs (byteAfter bs old a) a = byteAfter bs old a := by
  unfold byteAfter
  split <;> simp [*]

/-- Words written one after another, where no word is marked. -/
theorem foldl_writeWord_unmarked (bs : List (Nat × Byte)) (ws : List Nat) {s : State} (h : s.marks = []) :
    ∃ m r, ws.foldl (fun s w => writeWord s w (bs.filter fun b => decide (b.1 / 16 = w))) s = { s with mem := m, rel := r }
      ∧ ∀ a, storeGet 0 m a = if a / 16 ∈ ws then byteAfter bs (memGet s a) a else memGet s a := by
  induction ws generalizing s with
  | nil => exact ⟨s.mem, s.rel, rfl, fun a => rfl⟩
  | cons w ws ih =>
    obtain ⟨r₁, h₁⟩ := writeWord_unmarked h w (bs.filter fun b => decide (b.1 / 16 = w))
    obtain ⟨m, r, hfold, hread⟩ := ih (s := { pokeBytes s (bs.filter fun b => decide (b.1 / 16 = w)) with rel := r₁ }) h
    refine ⟨m, r, by rw [List.foldl_cons, h₁, hfold]; rfl, fun a => ?_⟩
    have hword : memGet { pokeBytes s (bs.filter fun b => decide (b.1 / 16 = w)) with rel := r₁ } a
        = if a / 16 = w then byteAfter bs (memGet s a) a else memGet s a :=
      (memGet_pokeBytes ..).trans (byteAfter_word ..)
    rw [hread, hword]
    by_cases hw : a / 16 = w <;> by_cases hws : a / 16 ∈ ws <;> simp [hw, hws, byteAfter_again]

/-- Settles O17: the bytes go word by word, each word to memory alone. -/
theorem storedBytesLand : Obligations.StoredBytesLand := by
  intro s bytes hm t
  obtain ⟨c, d, k, hcache⟩ := writeThrough_only s (bytes.map fun b => b.1) 0
  obtain ⟨m, r, hstore, hread⟩ := foldl_writeWord_unmarked bytes ((bytes.map fun b => b.1 / 16).eraseDups)
    (s := { s with cache := c, dict := d, cnt := { s.cnt with free := k } }) hm
  have ht : t = { s with cache := c, dict := d, cnt := { s.cnt with free := k }, mem := m, rel := r } := by
    rw [← hstore, ← hcache]
    rfl
  rw [ht]
  refine ⟨fun a => (hread a).trans ?_, rfl, rfl, rfl, rfl, rfl⟩
  split
  next => rfl
  next h =>
    refine (byteAfter_absent (fun b hb hba => h ?_) _).symm
    rw [List.mem_eraseDups]
    exact List.mem_map.mpr ⟨b, hb, by rw [hba]⟩

/-! ### The state after reset (04 R99, 01 R25, 02 R41) -/

/-- After reset group 0 is the only group that has members. -/
theorem groupMask_reset (g : Nat) : groupMask State.reset g = if g = 0 then BitVec.allOnes 160 else 0 := by
  by_cases h : g = 0
  · subst h; rfl
  · rw [if_neg h]
    exact if_neg (Ne.symm h)

/-- Settles O4: the register files are empty, and group 0 is the only group. -/
theorem resetClearsScalarRegisters : Obligations.ResetClearsScalarRegisters := by
  refine ⟨fun r => ⟨?_, rfl⟩, rfl, rfl, rfl, rfl, fun i hi => ?_, fun g hg => ?_⟩
  · unfold getX
    split <;> rfl
  · rw [groupMask_reset, if_pos rfl, BitVec.getLsbD_allOnes, decide_eq_true hi]
  · rw [groupMask_reset, if_neg (Nat.ne_of_gt hg)]

/-- Settles O5: memory, its marks, the register files and the caches hold no entry. -/
theorem invariantAtReset : Obligations.InvariantAtReset :=
  ⟨rfl, rfl, rfl, rfl, rfl, rfl, fun _ => Nat.zero_le 16⟩

end Sys2Proof.Machine
end

section
/-! The issue of an operation over the slices of a group (13 R366), bindings of tiles (06 R144), and their configuration (05 R120 to R122). -/

namespace Sys2Proof.Machine

/-! ### Issue over the slices of a group (13 R366) -/

/-- What the filing of a record can change: the ring, interrupt latches, the next free value, and the signal to the host (13 R350, R351). -/
def RecordFiled (s t : State) : Prop := ∃ r f i h o, t = { s with
  rel := r, cnt := { s.cnt with free := f, ipend := i }, host := h, out := o }

theorem RecordFiled.onRel (s : State) (f : Rel → Rel) : RecordFiled s (s.onRel f) :=
  ⟨f s.rel, s.cnt.free, s.cnt.ipend, s.host, s.out, rfl⟩

theorem RecordFiled.trans {s t u : State} (h : RecordFiled s t) (k : RecordFiled t u) : RecordFiled s u := by
  obtain ⟨_, _, _, _, _, rfl⟩ := h
  obtain ⟨r, f, i, h, o, rfl⟩ := k
  exact ⟨r, f, i, h, o, rfl⟩

theorem signal_filed (s : State) (v : Nat) : RecordFiled s (signal s v) := by
  obtain ⟨h, o, hs⟩ := signal_frame s v
  exact ⟨s.rel, s.cnt.free, s.cnt.ipend, h, o, hs⟩

theorem raiseInt_filed (s : State) (k : Nat) : RecordFiled s (raiseInt s k) := ⟨s.rel, s.cnt.free, _, s.host, s.out, rfl⟩

theorem freshFree_filed (s : State) : RecordFiled s (freshFree s).2 := ⟨s.rel, _, s.cnt.ipend, s.host, s.out, rfl⟩

theorem enterToll_filed (s : State) (t : Toll) : RecordFiled s (enterToll s t) := by
  unfold enterToll
  dsimp only
  split
  · exact .onRel s _
  · exact ((RecordFiled.onRel s _).trans (raiseInt_filed _ _)).trans (signal_filed _ 0)

theorem fileToll_filed (s : State) (t : Toll) : RecordFiled s (fileToll s t) := by
  unfold fileToll
  dsimp only
  have hnumbered (f : Rel → Rel) : RecordFiled s ((freshFree s).2.onRel f) := (freshFree_filed s).trans (.onRel _ f)
  split
  · exact (hnumbered _).trans (.onRel _ _)
  · exact (hnumbered _).trans (enterToll_filed _ _)

/-- L is the exchange's own (12 Table 12-6). -/
theorem setVoteL_coll (s : State) : ∃ e, setVoteL s = { s with coll := e } := by
  unfold setVoteL
  split
  · exact ⟨s.coll, rfl⟩
  · exact ⟨_, rfl⟩

/-- What the end of a violated peal can change: what its record changes, and the exchange's L. -/
def PealNoted (s t : State) : Prop := ∃ r f i h o e, t = { s with
  rel := r, cnt := { s.cnt with free := f, ipend := i }, host := h, out := o, coll := e }

theorem PealNoted.refl (s : State) : PealNoted s s := ⟨s.rel, s.cnt.free, s.cnt.ipend, s.host, s.out, s.coll, rfl⟩

theorem RecordFiled.votes {s t : State} (h : RecordFiled s t) : PealNoted s (setVoteL t) := by
  obtain ⟨r, f, i, h, o, rfl⟩ := h
  obtain ⟨e, he⟩ := setVoteL_coll { s with rel := r, cnt := { s.cnt with free := f, ipend := i }, host := h, out := o }
  exact ⟨r, f, i, h, o, e, he⟩

theorem pealViolated_noted (s : State) (l : List Nat) : PealNoted s (pealViolated s l) := by
  unfold pealViolated pealBroken
  dsimp only
  split
  · exact .refl s
  split
  · exact .refl s
  · exact ((RecordFiled.onRel s _).trans (fileToll_filed _ _)).votes

/-- Without a condition an operation over a group runs, on what a peal that it violates leaves, and takes an issue number. -/
theorem issueOne_opOver {slot : Nat} {gn : BitVec 3} {c : State → Cond} {run : State → State} {s : State} (hw : withheld s = false)
    (hc : c s = none) (hd : ∀ u, PealNoted s u → (run u).power = s.power) :
    ∃ u, PealNoted s u ∧ (groupMask s gn.toNat = 0 → u = s) ∧ issueOne (opOver slot gn c run) s = nextOp (run u) := by
  refine ⟨pealViolated s (members (groupMask s gn.toNat)), pealViolated_noted .., fun hempty => ?_, ?_⟩
  · have hnone : members (groupMask s gn.toNat) = [] := by simp [hempty, members]
    rw [hnone, pealViolated_nil]
  · exact issueOne_runs (opOver slot gn c run) s hw hc rfl (congrArg Power.domains (hd _ (pealViolated_noted ..)))

/-- An operation over a group that meets its condition: a running stream takes the fault, in the operation's slot (02 R36). -/
theorem issueOver_faults {slot : Nat} {gn : BitVec 3} {c : State → Cond} {run : State → State} {s : State} {code sub : Nat}
    (hw : withheld s = false) (hc : c s = some (code, sub)) (hr : s.seq.running = true) (h2 : code ≠ 2) :
    (.next (issueOne (opOver slot gn c run) s) : Host.Outcome State Fault Refusal)
      = .next (takeFault s (issueEvent s code sub slot false 0)) := by
  rw [issueOne_faults _ s hw hc hr, opEvent, if_neg h2]
  rfl

/-! ### Bindings (06 R144) -/

/-- A slice of those given loses the binding to the tile, and every other binding stays. -/
theorem storeGet_clearBind (m : Store Nat) (t : Nat) (slices : List Nat) (sl : Nat) :
    storeGet 0 (clearBind m t slices) sl = if sl ∈ slices ∧ storeGet 0 m sl = t + 1 then 0 else storeGet 0 m sl := by
  unfold clearBind
  induction slices generalizing m with
  | nil => simp
  | cons x r ih =>
    rw [List.foldl_cons, ih]
    by_cases hx : storeGet 0 m x = t + 1
    · by_cases hsl : sl = x <;> simp [hx, hsl, storeGet_set]
    · by_cases hsl : sl = x <;> simp [hx, hsl]

theorem clearBind_cleared (m : Store Nat) (t : Nat) {slices : List Nat} {sl : Nat} (h : sl ∈ slices) :
    storeGet 0 (clearBind m t slices) sl ≠ t + 1 := by
  rw [storeGet_clearBind]
  split
  · exact (Nat.succ_ne_zero t).symm
  next hother => exact fun hbound => hother ⟨h, hbound⟩

/-- A binding of several slices to one tile. -/
theorem storeGet_bind (m : Store Nat) (v : Nat) {slices : List Nat} {sl : Nat} (h : sl ∈ slices) :
    storeGet 0 (slices.foldl (fun b x => storeSet 0 b x v) m) sl = v := by
  rw [storeGet_foldl 0 (fun x => x) fun _ => v]
  split
  · rfl
  next hnone => simpa using List.find?_eq_none.mp hnone sl (List.mem_reverse.mpr h)

/-! ### Configuration (05 R120 to R122) -/

theorem tileCfg_landTcfg (s : State) (t : Nat) (word : W64) (gn : BitVec 3) (mask : BitVec 160) :
    tileCfg (landTcfg s t word gn mask) t = if cfgEn word then ⟨word, gn, mask⟩ else ⟨0, 0, 0⟩ := storeGet_set_same ..

/-- Settles O23: TCFG is the issue of its landing over the group, and clears bindings. -/
theorem tileConfigures : Obligations.TileConfigures := by
  intro s o hw hc mask word
  obtain ⟨u, hnoted, -, hissue⟩ := issueOne_opOver (slot := 2) (gn := o.gn) (run := doTcfg o) hw hc
    fun u ⟨_, _, _, _, _, _, hu⟩ => by rw [hu]; rfl
  obtain ⟨_, _, _, _, _, _, rfl⟩ := hnoted
  exact ⟨_, congrArg Host.Outcome.next hissue, rfl,
    fun sl hsl => ⟨clearBind_cleared _ _ hsl, clearBind_cleared _ _ hsl⟩, rfl, rfl, rfl, rfl, rfl, rfl,
    fun v => tileCfg_landTcfg v _ word o.gn mask⟩

end Sys2Proof.Machine
end

section
/-! Tile movements: their rows on the resource, their issue and their faults (05 R123, R124, R129; 06 R144). -/

namespace Sys2Proof.Machine

/-! ### The reads of a movement's rows (05 Table 5-4) -/

/-- The rows that a movement moves: none where its block has no columns (05 R124). -/
def movesRow (m : Move) (r : Nat) : Prop := m.first ≤ r ∧ r < mvBr m ∧ 0 < mvBc m

/-- The read of a row, as it is scheduled. -/
def rowWork (m : Move) (r : Nat) : Work :=
  { due := mvReadClk m r, phase := 1, op := m.op, res := [resKey (mvUnitOf m.kind) m.slice], act := .rowRead m r }

/-- A movement's rows put among the work in flight. -/
theorem scheduleRows_work (m : Move) (l : List Nat) (s : State) : ∃ w,
    l.foldl (fun s r => schedule s (mvReadClk m r) 1 m.op [resKey (mvUnitOf m.kind) m.slice] (.rowRead m r)) s = { s with work := w }
      ∧ ∀ x, x ∈ w ↔ x ∈ s.work ∨ ∃ r ∈ l, x = rowWork m r := by
  induction l generalizing s with
  | nil => exact ⟨s.work, rfl, by simp⟩
  | cons r l ih =>
    obtain ⟨w, hw, hmem⟩ := ih { s with work := insertWork (rowWork m r) s.work }
    refine ⟨w, hw, fun x => ?_⟩
    simp only [hmem, mem_insertWork, List.mem_cons, or_and_right, exists_or, exists_eq_left]
    rw [or_assoc, or_left_comm]

theorem scheduleMove_work (s : State) (m : Move) : ∃ w, scheduleMove s m = { s with work := w }
    ∧ ∀ x, x ∈ w ↔ x ∈ s.work ∨ ∃ r, movesRow m r ∧ x = rowWork m r := by
  unfold scheduleMove
  split
  next hnone =>
    refine ⟨s.work, rfl, fun x => (or_iff_left ?_).symm⟩
    rintro ⟨r, ⟨hfirst, hlast, hcols⟩, -⟩
    omega
  next hsome =>
    obtain ⟨w, hw, hmem⟩ := scheduleRows_work m ((List.range (mvBr m)).drop m.first) s
    refine ⟨w, hw, fun x => ?_⟩
    have hrow (r : Nat) : r ∈ (List.range (mvBr m)).drop m.first ↔ movesRow m r := by
      rw [List.range_eq_range', List.drop_range', List.mem_range'_1, movesRow]
      omega
    simp only [hmem, hrow]

/-! ### One slice's part on its resource (02 R63, 03 R81) -/

/-- All that is in flight is of one operation, and none of it moves rows of the slices given. -/
def ApartFrom (op : Nat) (slices : List Nat) (work : List Work) : Prop :=
  ∀ w ∈ work, w.op = op ∧ ∀ m r, w.act = .rowRead m r → m.slice ∉ slices

theorem ApartFrom.mono {op : Nat} {l l' : List Nat} {work : List Work} (h : ApartFrom op l work) (hl : l' ⊆ l) : ApartFrom op l' work :=
  fun w hw => ⟨(h w hw).1, fun m r hact hin => (h w hw).2 m r hact (hl hin)⟩

/-- No movement of a slice is in flight. -/
theorem inFlight_nil {s : State} {slice : Nat} (kind : Nat) (h : ∀ w ∈ s.work, ∀ m r, w.act = .rowRead m r → m.slice ≠ slice) :
    inFlight s slice kind = [] := by
  unfold inFlight
  refine List.foldlRecOn (motive := (· = [])) s.work _ rfl fun l hl w hw => ?_
  subst hl
  split
  next m r hact => exact if_neg fun hin => h w hw m r hact hin.1
  next => rfl

/-- Dropping the work of an operation that has none in flight. -/
theorem dropWork_other {s : State} {op : Nat} (key clk : Nat) (h : ∀ w ∈ s.work, w.op ≠ op) : dropWork s op key clk = s := by
  have hkept : (s.work.filter fun w => !(decide (w.op = op) && w.res.contains key && decide (clk ≤ w.due))) = s.work :=
    List.filter_eq_self.mpr fun w hw => by simp [h w hw]
  have hsame : s.work.map (loseLane op key clk) = s.work :=
    (List.map_congr_left fun w hw => if_pos (h w hw)).trans (List.map_id _)
  rw [dropWork, hkept, hsame]

/-- A movement that no earlier one stands in the way of is scheduled row by row. -/
theorem startMove_work {s : State} {m : Move} (h : ApartFrom m.op [m.slice] s.work) : ∃ u w,
    (startMove s m).1 = { s with uses := u, work := w } ∧ ∀ x, x ∈ w ↔ x ∈ s.work ∨ ∃ r, movesRow m r ∧ x = rowWork m r := by
  have htake : takeMoves s m = (s, false) := by
    rw [takeMoves, inFlight_nil m.kind fun w hw m' r hact => by simpa using (h w hw).2 m' r hact]
    rfl
  have hdrop {p : Bool} {key : Nat} (hp : p = true → (storeGet ⟨0, 0, 0⟩ s.uses key).op ≠ m.op) :
      (if p then dropWork s (storeGet ⟨0, 0, 0⟩ s.uses key).op key m.base else s) = s := by
    split
    next hhit => exact dropWork_other key m.base fun w hw heq => hp hhit (heq.symm.trans (h w hw).1)
    next => rfl
  have huses (x : Store Use) (p : Prop) [Decidable p] :
      (if p then { s with uses := x } else s) = { s with uses := if p then x else s.uses } := by
    split <;> rfl
  simp only [startMove, htake]
  rw [hdrop, huses]
  · obtain ⟨w, hw, hmem⟩ := scheduleMove_work { s with uses := _ } m
    exact ⟨_, w, hw, hmem⟩
  · intro hhit
    simp only [Bool.and_eq_true, decide_eq_true_eq] at hhit
    obtain ⟨⟨-, hop⟩, -⟩ := hhit
    exact hop

/-- What a movement captures at its issue for its part in one slice (05 R121). -/
def movePart (kind : Nat) (o : TeMove) (tc : TileCfg) (n : Nat) (deq : Int) (s : State) (p : Nat × Nat) : Move :=
  { kind := kind, t := o.t.toNat, slice := p.1, gk := p.2, cfg := tc.word, n := n, fmt := o.fmt, tr := o.tr, cv := o.cv,
    slot := o.slot, addr := getX s o.xa.toNat, level := s.seq.pl, bundle := s.seq.pc, deq := deq, first := 0, base := s.cnt.clk,
    op := s.cnt.op, place := none }

/-- One slice's part put on its resource; the answer says whether an earlier operation was abandoned up to here. -/
def startPart (kind : Nat) (o : TeMove) (tc : TileCfg) (n : Nat) (deq : Int) (acc : State × Bool) (p : Nat × Nat) : State × Bool :=
  let r := startMove acc.1 (movePart kind o tc n deq acc.1 p)
  (r.1, acc.2 || r.2)

/-- The parts of several slices, none of which has a movement in flight: each slice's rows are scheduled. -/
theorem startParts_work (kind : Nat) (o : TeMove) (tc : TileCfg) (n : Nat) (deq : Int) (l : List (Nat × Nat)) (s : State) (b : Bool)
    (hone : (l.map Prod.fst).Nodup) (h : ApartFrom s.cnt.op (l.map Prod.fst) s.work) : ∃ u w,
    (l.foldl (startPart kind o tc n deq) (s, b)).1 = { s with uses := u, work := w }
      ∧ ∀ x, x ∈ w ↔ x ∈ s.work ∨ ∃ p ∈ l, ∃ r, movesRow (movePart kind o tc n deq s p) r
          ∧ x = rowWork (movePart kind o tc n deq s p) r := by
  induction l generalizing s b with
  | nil => exact ⟨s.uses, s.work, rfl, by simp⟩
  | cons p l ih =>
    rw [List.map_cons, List.nodup_cons] at hone
    obtain ⟨hnew, hone⟩ := hone
    have hfirst : ApartFrom s.cnt.op [p.1] s.work := h.mono (by simp)
    have hrest : ApartFrom s.cnt.op (l.map Prod.fst) s.work := h.mono (by simp)
    obtain ⟨u, w, hstart, hmem⟩ := startMove_work (m := movePart kind o tc n deq s p) hfirst
    have hapart : ApartFrom s.cnt.op (l.map Prod.fst) w := by
      intro x hx
      rcases (hmem x).mp hx with hold | ⟨r, -, rfl⟩
      · exact hrest x hold
      · exact ⟨rfl, fun m r hact => by cases hact; exact hnew⟩
    obtain ⟨u', w', hstarts, hmem'⟩ := ih { s with uses := u, work := w } _ hone hapart
    refine ⟨u', w', ?_, fun x => ?_⟩
    · rw [List.foldl_cons, startPart, hstart]
      exact hstarts
    · simp only [hmem', List.mem_cons, or_and_right, exists_or, exists_eq_left]
      rw [← or_assoc]
      exact or_congr_left (hmem x)

/-! ### The issue of a movement (05 R121 to R124, 06 R144) -/

/-- What a movement binds at its issue: a TLD clears the active bindings to its tile, an SWL binds the shadow, and a weight load
begins (06 R144, R160). -/
def moveBound (kind t : Nat) (ms : List Nat) (s : State) : State :=
  let s := s.onTiles fun k => { k with
    active := if kind = 0 then clearBind k.active t ms else k.active
    shadow := if kind = 2 then ms.foldl (fun b sl => storeSet 0 b sl (t + 1)) k.shadow else k.shadow }
  if kind = 2 then ms.foldl (fun s sl => beginLoad s sl s.cnt.op) s else s

theorem beginLoads_rel (l : List Nat) (s : State) : ∃ r, l.foldl (fun s sl => beginLoad s sl s.cnt.op) s = { s with rel := r } := by
  refine List.foldlRecOn (motive := fun t => ∃ r, t = { s with rel := r }) l _ ⟨s.rel, rfl⟩ fun t ht sl _ => ?_
  obtain ⟨r, rfl⟩ := ht
  unfold beginLoad
  split
  · exact ⟨r, rfl⟩
  · exact ⟨_, rfl⟩

theorem moveBound_frame (kind t : Nat) (ms : List Nat) (s : State) : ∃ a b r,
    moveBound kind t ms s = { s with tiles := { s.tiles with active := a, shadow := b }, rel := r }
      ∧ (kind = 2 → ∀ sl ∈ ms, storeGet 0 b sl = t + 1) := by
  unfold moveBound
  dsimp only
  by_cases hk : kind = 2
  · obtain ⟨r, hr⟩ := beginLoads_rel ms (s.onTiles fun k => { k with
      active := if kind = 0 then clearBind k.active t ms else k.active
      shadow := if kind = 2 then ms.foldl (fun b sl => storeSet 0 b sl (t + 1)) k.shadow else k.shadow })
    refine ⟨_, _, r, by rw [if_pos hk, hr]; rfl, fun _ sl hsl => ?_⟩
    rw [if_pos hk]
    exact storeGet_bind _ _ hsl
  · exact ⟨_, _, s.rel, by rw [if_neg hk]; rfl, fun h => absurd h hk⟩

/-- A movement over no slices binds nothing. -/
theorem moveBound_nil (kind t : Nat) (s : State) : moveBound kind t [] s = s := by
  unfold moveBound
  by_cases h0 : kind = 0
  · subst h0; rfl
  · by_cases h2 : kind = 2
    · subst h2; rfl
    · simp only [h0, h2, if_false]; rfl

/-- The slices that a movement reaches: the owning membership, and none on an empty group (02 R41, 05 R124). -/
def moveSlices (o : TeMove) (s : State) : List Nat :=
  if groupMask s o.gn.toNat = 0 then [] else members (tileCfg s o.t.toNat).mask

/-- A slot without words in error is read as it stands. -/
theorem meetSlot_good {s : State} {k : Nat} (h : (slotGet s k).marks = []) : meetSlot s k = s := by simp [meetSlot, h]

/-- The part of a movement in one slice, captured in the state at its issue. -/
def capturedPart (kind : Nat) (o : TeMove) (s : State) (p : Nat × Nat) : Move :=
  movePart kind o (tileCfg s o.t.toNat) (moveSlices o s).length (slotLae (slotGet s o.slot.toNat)) s p

/-- A movement's bindings, and then its slices' parts. -/
def moveStarted (kind : Nat) (o : TeMove) (s : State) : State × Bool :=
  (moveSlices o s).zipIdx.foldl (startPart kind o (tileCfg s o.t.toNat) (moveSlices o s).length (slotLae (slotGet s o.slot.toNat)))
    (moveBound kind o.t.toNat (moveSlices o s) s, false)

/-- The issue of a movement: a takeover is counted besides. -/
theorem doMove_eq (kind : Nat) {o : TeMove} {s : State} (h : o.cv = true → (slotGet s o.slot.toNat).marks = []) :
    doMove kind o s = if (moveStarted kind o s).2 then objAdd (moveStarted kind o s).1 0x7230 1 1 else (moveStarted kind o s).1 := by
  have hdo : doMove kind o s =
      let b := moveBound kind o.t.toNat (moveSlices o s) s
      let u := if o.cv then meetSlot b o.slot.toNat else b
      let r := (moveSlices o s).zipIdx.foldl
        (startPart kind o (tileCfg s o.t.toNat) (moveSlices o s).length (slotLae (slotGet u o.slot.toNat))) (u, false)
      if r.2 then objAdd r.1 0x7230 1 1 else r.1 := rfl
  obtain ⟨a, b, r, hbound, -⟩ := moveBound_frame kind o.t.toNat (moveSlices o s) s
  have hslot : slotGet (moveBound kind o.t.toNat (moveSlices o s) s) o.slot.toNat = slotGet s o.slot.toNat := by rw [hbound]; rfl
  have hmeet : (if o.cv then meetSlot (moveBound kind o.t.toNat (moveSlices o s) s) o.slot.toNat
      else moveBound kind o.t.toNat (moveSlices o s) s) = moveBound kind o.t.toNat (moveSlices o s) s := by
    split
    next hcv => exact meetSlot_good (by rw [hslot]; exact h hcv)
    next => rfl
  rw [hdo, moveStarted]
  simp only [hmeet, hslot]

/-- On an empty group a movement does nothing (02 R41). -/
theorem doMove_empty (kind : Nat) {o : TeMove} {s : State} (h : o.cv = true → (slotGet s o.slot.toNat).marks = [])
    (hg : groupMask s o.gn.toNat = 0) : doMove kind o s = s := by
  have hnone : moveSlices o s = [] := if_pos hg
  rw [doMove_eq kind h, moveStarted, hnone]
  exact moveBound_nil kind o.t.toNat s

theorem moveSlices_nodup (o : TeMove) (s : State) : (moveSlices o s).Nodup := by
  unfold moveSlices
  split
  · exact List.nodup_nil
  · exact List.nodup_range.filter _

/-- A movement that issues with nothing in flight: all that it can change, the shadow that it binds, and the rows that it reads. -/
theorem doMove_work (kind : Nat) {o : TeMove} {s : State} (h : o.cv = true → (slotGet s o.slot.toNat).marks = []) (hw : s.work = []) :
    ∃ a b u w r d,
      doMove kind o s = { s with tiles := { s.tiles with active := a, shadow := b }, uses := u, work := w, rel := r, dict := d }
      ∧ (kind = 2 → ∀ sl ∈ moveSlices o s, storeGet 0 b sl = o.t.toNat + 1)
      ∧ ∀ p ∈ (moveSlices o s).zipIdx, ∀ r, movesRow (capturedPart kind o s p) r → rowWork (capturedPart kind o s p) r ∈ w := by
  obtain ⟨a, b, r, hbound, hbind⟩ := moveBound_frame kind o.t.toNat (moveSlices o s) s
  have hone : ((moveSlices o s).zipIdx.map Prod.fst).Nodup := by
    rw [List.zipIdx_map_fst]
    exact moveSlices_nodup o s
  obtain ⟨u, w, hstarts, hmem⟩ := startParts_work kind o (tileCfg s o.t.toNat) (moveSlices o s).length
    (slotLae (slotGet s o.slot.toNat)) _ { s with tiles := { s.tiles with active := a, shadow := b }, rel := r } false hone
    fun x hx => by simp [hw] at hx
  have hstarted : (moveStarted kind o s).1 =
      { s with tiles := { s.tiles with active := a, shadow := b }, uses := u, work := w, rel := r } := by
    rw [moveStarted, hbound, hstarts]
  have hcount (p : Bool) (t : State) : ∃ d, (if p then objAdd t 0x7230 1 1 else t) = { t with dict := d } := by
    cases p <;> exact ⟨_, rfl⟩
  obtain ⟨d, hd⟩ := hcount (moveStarted kind o s).2 (moveStarted kind o s).1
  exact ⟨a, b, u, w, r, d, by rw [doMove_eq kind h, hd, hstarted], hbind,
    fun p hp k hk => (hmem _).mpr (.inr ⟨p, hp, k, hk, rfl⟩)⟩

/-- TLD, TST and SWL are each the issue of a movement over the group. -/
theorem exec_move {kind : Nat} {c : TeMove → Instr} (hk : (kind, c) ∈ [(0, Instr.tld), (1, .tst), (2, .swl)]) (o : TeMove) (s : State) :
    exec (c o) s = .next (issueOne (opOver 2 o.gn (condMove kind o) (doMove kind o)) s) := by
  simp only [List.mem_cons, List.not_mem_nil, or_false] at hk
  rcases hk with ⟨rfl, rfl⟩ | ⟨rfl, rfl⟩ | ⟨rfl, rfl⟩ <;> rfl

/-- The clk in which a movement issued now reads a row, as Table 5-4 counts it. -/
theorem mvReadClk_part (kind : Nat) (o : TeMove) (s : State) (p : Nat × Nat) (r : Nat) :
    mvReadClk (capturedPart kind o s p) r = s.cnt.clk + (if kind = 2 then 5 else 7)
      + ceilDiv ((r + 1) * mvB (capturedPart kind o s p)) (mvBr (capturedPart kind o s p) * (if kind = 1 then 1024 else 2048)) := rfl

theorem tileMovementIssues : Spec.TileMovementIssues := by
  intro s o kind c hw hk hcond hwork hslot tc
  have hready {u : State} (hu : PealNoted s u) :
      (o.cv = true → (slotGet u o.slot.toNat).marks = []) ∧ u.work = [] ∧ u.power = s.power := by
    obtain ⟨_, _, _, _, _, _, rfl⟩ := hu
    exact ⟨hslot, hwork, rfl⟩
  have hpower (u : State) (hu : PealNoted s u) : (doMove kind o u).power = s.power := by
    obtain ⟨hmarks, hnone, hsame⟩ := hready hu
    obtain ⟨_, _, _, _, _, _, hdo, -, -⟩ := doMove_work kind hmarks hnone
    rw [hdo]
    exact hsame
  obtain ⟨u, hnoted, hempty, hissue⟩ := issueOne_opOver (slot := 2) (gn := o.gn) (run := doMove kind o) hw hcond hpower
  have hexec := (exec_move hk o s).trans (congrArg Host.Outcome.next hissue)
  refine ⟨fun hg => ?_, fun hg => ⟨_, hexec, ?_⟩⟩
  · rw [hempty hg, doMove_empty kind hslot hg] at hexec
    exact ⟨_, hexec, (nextOp_quiet s).2, hwork, rfl, rfl⟩
  · obtain ⟨hmarks, hnone, -⟩ := hready hnoted
    obtain ⟨_, b, _, w, _, _, hdo, hbind, hrows⟩ := doMove_work kind hmarks hnone
    rw [hdo]
    obtain ⟨_, _, _, _, _, _, rfl⟩ := hnoted
    have hslices : moveSlices o s = members tc.mask := if_neg hg
    refine ⟨fun k sl hsl => ?_, fun h2 sl hsl => hbind h2 sl (hslices ▸ hsl), rfl, rfl, rfl, rfl, rfl⟩
    have hpart := hrows (sl, k) (List.mk_mem_zipIdx_iff_getElem?.mpr (hslices ▸ hsl))
    exact ⟨_, rfl, rfl, rfl, rfl, rfl, rfl, rfl, rfl, fun hcols r hr =>
      ⟨_, hpart r ⟨Nat.zero_le r, hr, hcols⟩, rfl, rfl, mvReadClk_part kind o _ (sl, k) r⟩⟩

/-! ### Faults at issue (05 R129) -/

theorem condMove_unconfigured (kind : Nat) {o : TeMove} {s : State} (hg : groupMask s o.gn.toNat ≠ 0)
    (h : cfgEn (tileCfg s o.t.toNat).word = false) : condMove kind o s = some (6, 9) := by
  refine (if_neg hg).trans ?_
  simp [firstCond, h]

theorem condMove_otherGroup (kind : Nat) {o : TeMove} {s : State} (hg : groupMask s o.gn.toNat ≠ 0)
    (h : cfgEn (tileCfg s o.t.toNat).word = true) (hother : groupMask s o.gn.toNat ≠ (tileCfg s o.t.toNat).mask) :
    condMove kind o s = some (6, 10) := by
  refine (if_neg hg).trans ?_
  simp [firstCond, h, hother]

theorem tileMovementFaults : Spec.TileMovementFaults := by
  intro s o c hw hmem hr hg tc
  have hkind : ∃ kind, (kind, c) ∈ [(0, Instr.tld), (1, .tst), (2, .swl)] := by
    simpa [exists_or] using hmem
  obtain ⟨kind, hk⟩ := hkind
  rw [exec_move hk]
  exact ⟨fun h => issueOver_faults hw (condMove_unconfigured kind hg h) hr (by decide),
    fun h hother => issueOver_faults hw (condMove_otherGroup kind hg h hother) hr (by decide)⟩

/-- Settles O24: a movement is the issue of its slices' rows, or faults on its tile's configuration. -/
theorem tileMovements : Obligations.TileMovements := ⟨tileMovementIssues, tileMovementFaults⟩

end Sys2Proof.Machine
end

section
/-! Tile products and the matrix-vector operation at their issue: what they put in flight, and the empty group (02 R41, 06 R143 to R156). -/

namespace Sys2Proof.Machine

/-! ### Work put in flight (02 R59 to R63) -/

/-- Nothing changes but that work is added to what is in flight. -/
def AddsWork (s t : State) : Prop := ∃ w, t = { s with work := w } ∧ s.work ⊆ w

theorem AddsWork.refl (s : State) : AddsWork s s := ⟨s.work, rfl, List.Subset.refl _⟩

theorem AddsWork.trans {s t u : State} (h : AddsWork s t) (k : AddsWork t u) : AddsWork s u := by
  obtain ⟨_, rfl, hsub⟩ := h
  obtain ⟨w, rfl, hsub'⟩ := k
  exact ⟨w, rfl, List.Subset.trans hsub hsub'⟩

theorem AddsWork.foldl {β : Type} {f : State → β → State} (h : ∀ t x, AddsWork t (f t x)) (l : List β) (s : State) :
    AddsWork s (l.foldl f s) := by
  induction l generalizing s with
  | nil => exact .refl s
  | cons x r ih => exact (h s x).trans (ih _)

theorem AddsWork.mem {s t : State} (h : AddsWork s t) {w : Work} (hw : w ∈ s.work) : w ∈ t.work := by
  obtain ⟨_, rfl, hsub⟩ := h
  exact hsub hw

theorem schedule_adds (s : State) (d p o : Nat) (r : List Nat) (a : Micro) : AddsWork s (schedule s d p o r a) :=
  ⟨_, rfl, fun x hx => (mem_insertWork _ x s.work).mpr (.inr hx)⟩

theorem mem_schedule (s : State) (d p o : Nat) (r : List Nat) (a : Micro) : ⟨d, p, o, r, a⟩ ∈ (schedule s d p o r a).work :=
  (mem_insertWork ..).mpr (.inl rfl)

/-- Of operations that each add work, what one of them puts in flight stays. -/
theorem AddsWork.mem_foldl {β : Type} {f : State → β → State} (h : ∀ t x, AddsWork t (f t x)) {l : List β} {x : β} (hx : x ∈ l)
    {w : Work} (hw : ∀ t, w ∈ (f t x).work) (s : State) : w ∈ (l.foldl f s).work := by
  induction l generalizing s with
  | nil => cases hx
  | cons y r ih =>
    rcases List.mem_cons.mp hx with rfl | hr
    · exact (AddsWork.foldl h r _).mem (hw s)
    · exact ih hr _

/-! ### What a claim of a unit can change (02 R63) -/

/-- The work in flight, the uses of the resources and the counters. -/
def UsesClaimed (s t : State) : Prop := ∃ w u d, t = { s with work := w, uses := u, dict := d }

theorem claimOne_claimed (s : State) (key op clk d from' : Nat) : UsesClaimed s (claimOne s key op clk d from') := by
  unfold claimOne
  dsimp only
  split <;> split <;> exact ⟨_, _, s.dict, rfl⟩

theorem claimEach_claimed (keys : List Nat) (op clk d from' : Nat) (s : State) :
    UsesClaimed s (keys.foldl (fun s k => claimOne s k op clk d from') s) := by
  induction keys generalizing s with
  | nil => exact ⟨s.work, s.uses, s.dict, rfl⟩
  | cons k r ih =>
    obtain ⟨_, _, _, hone⟩ := claimOne_claimed s k op clk d from'
    obtain ⟨w, u, e, hrest⟩ := ih (claimOne s k op clk d from')
    exact ⟨w, u, e, by rw [List.foldl_cons, hrest, hone]⟩

theorem claim_claimed (s : State) (u : RUnit) (slices : List Nat) (op clk d : Nat) : UsesClaimed s (claim s u slices op clk d) := by
  unfold claim claimFrom
  dsimp only
  split
  · obtain ⟨w, v, e, h⟩ := claimEach_claimed (slices.map (resKey u)) op clk d (clk + beginLag u)
      (objAdd s (reuseCounter u).1 (reuseCounter u).2 1)
    exact ⟨w, v, e, h⟩
  · exact claimEach_claimed ..

/-! ### A product at its issue (06 R143 to R155) -/

/-- The kind and the packing of the formats of its two tiles (06 Table 6-2). -/
def pairNow (o : TeProd) (s : State) : Option (PairKind × Nat) :=
  pairOf (cfgFmt (tileCfg s o.ta.toNat).word) (cfgFmt (tileCfg s o.tb.toNat).word)

/-- The fold of a product that issues now. -/
def foldNow (o : TeProd) (kind : PairKind) (c : Nat) (s : State) : Fold :=
  foldOf kind c (tileCfg s o.ta.toNat) (tileCfg s o.tb.toNat) (bit o.orr 0) o.gs o.mvf (objGet s 0x2010 1)

/-- A product as it is captured at its issue (06 R143, 09 R221). -/
def prodCaptured (o : TeProd) (drain : Option (Nat × Nat)) (kind : PairKind) (f : Fold) (s : State) : Prod :=
  let ms := members (tileCfg s o.tb.toNat).mask
  { op := s.cnt.op, issued := s.cnt.clk, bundle := s.seq.pc, level := s.seq.pl, ad := o.ad.toNat, ta := o.ta.toNat,
    tb := o.tb.toNat, trans := bit o.orr 0, acc := o.acc, cfgA := tileCfg s o.ta.toNat, cfgB := tileCfg s o.tb.toNat,
    routed := f.routed, g := f.g, source := (chooseSource s o.tb.toNat (kind == .fp32) ms).2,
    drain := drain.map (fun d => (d.1, d.2, signedOf 9 (storeGet 0 s.ctl.scdq o.ad.toNat).toNat)), entry := [],
    entryOk := [], block := [], blockBad := [], rows := [], sampled := sampleQuarters s ms f.routed }

/-- The resources that a product occupies: the arrays of its slices, or their matrix-vector units (06 R154). -/
def prodKeys (f : Fold) (p : Prod) : List Nat := (members p.cfgB.mask).map (resKey (if f.routed then .mvUnit else .arrays))

/-- The reads of a product's rows, pass by pass (06 R150); none without a reduction (06 R155). -/
def prodRowsScheduled (f : Fold) (p : Prod) (s : State) : State :=
  if f.red = 0 then s
  else (List.range f.p).foldl (fun s q => (List.range f.mr).foldl (fun s i =>
    schedule s (rowReadClk p f q i) 1 p.op (prodKeys f p) (.prodRow p.op q i)) s) s

/-- The landings of a product's rows (06 R151); none where an empty reduction would be added (06 R155). -/
def prodLandsScheduled (f : Fold) (p : Prod) (s : State) : State :=
  if f.red = 0 ∧ p.acc then s
  else (List.range f.mr).foldl (fun s i => schedule s (rowLandClk p f i) 0 p.op (prodKeys f p) (.prodLand p.op i)) s

/-- All that a product puts in flight: the read of its block, the reads of its rows, their landings, and its end, `tail` clk after
the last of them (06 R145, R150, R151; 09 R221). -/
def prodScheduled (tail : Nat) (f : Fold) (p : Prod) (s : State) : State :=
  let s := schedule s (p.issued + 7) 1 p.op (prodKeys f p) (.prodBlock p.op)
  let s := prodLandsScheduled f p (prodRowsScheduled f p s)
  schedule s (p.issued + f.lat + tail) 1 p.op (prodKeys f p) (.prodDone p.op)

theorem prodRowsScheduled_adds (f : Fold) (p : Prod) (s : State) : AddsWork s (prodRowsScheduled f p s) := by
  unfold prodRowsScheduled
  split
  · exact .refl s
  · exact .foldl (fun t q => .foldl (fun _ _ => schedule_adds ..) _ t) _ s

theorem prodLandsScheduled_adds (f : Fold) (p : Prod) (s : State) : AddsWork s (prodLandsScheduled f p s) := by
  unfold prodLandsScheduled
  split
  · exact .refl s
  · exact .foldl (fun _ _ => schedule_adds ..) _ s

/-- With a reduction the landing of every row is put in flight. -/
theorem mem_prodLandsScheduled {f : Fold} (hred : f.red ≠ 0) (p : Prod) (s : State) {i : Nat} (hi : i < f.mr) :
    ⟨rowLandClk p f i, 0, p.op, prodKeys f p, .prodLand p.op i⟩ ∈ (prodLandsScheduled f p s).work := by
  rw [prodLandsScheduled, if_neg fun h => hred h.1]
  refine AddsWork.mem_foldl (fun t j => ?_) (List.mem_range.mpr hi) (fun t => ?_) s
  · exact schedule_adds ..
  · exact mem_schedule ..

/-- What a product puts in flight is the only change: the read of its block, and with a reduction the landing of every row. -/
theorem prodScheduled_work (tail : Nat) (f : Fold) (p : Prod) (s : State) : ∃ w,
    prodScheduled tail f p s = { s with work := w }
      ∧ (∃ x ∈ w, x.act = .prodBlock p.op ∧ x.due = p.issued + 7 ∧ x.phase = 1)
      ∧ (f.red ≠ 0 → ∀ i < f.mr, ∃ x ∈ w, x.act = .prodLand p.op i ∧ x.phase = 0 ∧ x.due = rowLandClk p f i) := by
  have hend (t : State) : AddsWork t (schedule t (p.issued + f.lat + tail) 1 p.op (prodKeys f p) (.prodDone p.op)) := schedule_adds ..
  have hafter (t : State) := (prodRowsScheduled_adds f p t).trans ((prodLandsScheduled_adds f p _).trans (hend _))
  obtain ⟨w, hw, -⟩ := (schedule_adds s (p.issued + 7) 1 p.op (prodKeys f p) (.prodBlock p.op)).trans (hafter _)
  have hwork : (prodScheduled tail f p s).work = w := congrArg State.work hw
  refine ⟨w, hw, ⟨_, hwork ▸ (hafter _).mem (mem_schedule ..), rfl, rfl, rfl⟩, fun hred i hi => ?_⟩
  exact ⟨_, hwork ▸ (hend _).mem (mem_prodLandsScheduled hred p _ hi), rfl, rfl, rfl⟩

/-- The choice of the stationary sources writes bindings alone (06 R143). -/
theorem chooseSource_cnt (s : State) (tb : Nat) (fp32' : Bool) (ms : List Nat) : (chooseSource s tb fp32' ms).1.cnt = s.cnt := rfl

/-- A product that issues: it is captured and put in flight; what else it can change are the bindings, the resource that it claims, the
counters, and the samples of the spot check. -/
theorem doProd_issued {o : TeProd} {s : State} {kind : PairKind} {c : Nat} (hpair : pairNow o s = some (kind, c))
    (hg : groupMask s o.gn.toNat ≠ 0) (drain : Option (Nat × Nat)) : ∃ a b ps w u d r,
      doProd o drain s = prodScheduled (if drain.isSome then 3 else 0) (foldNow o kind c s)
        (prodCaptured o drain kind (foldNow o kind c s) s)
        { s with
          tiles := { s.tiles with active := a, shadow := b, prods := ps ++ [prodCaptured o drain kind (foldNow o kind c s) s] }
          work := w, uses := u, dict := d, rel := r } := by
  obtain ⟨w, u, d, hclaim⟩ := claim_claimed
    (chooseSource s o.tb.toNat (kind == .fp32) (members (tileCfg s o.tb.toNat).mask)).1
    (if (foldNow o kind c s).routed then .mvUnit else .arrays) (members (tileCfg s o.tb.toNat).mask) s.cnt.op s.cnt.clk
    (foldNow o kind c s).dist
  unfold pairNow at hpair
  unfold foldNow at hclaim
  unfold doProd
  dsimp only
  rw [hpair]
  dsimp only
  rw [if_neg hg, chooseSource_cnt, hclaim]
  exact ⟨_, _, _, w, u, d, _, rfl⟩

/-- On an empty group a product does nothing (02 R41). -/
theorem doProd_empty {o : TeProd} {s : State} (hg : groupMask s o.gn.toNat = 0) (drain : Option (Nat × Nat)) : doProd o drain s = s := by
  unfold doProd
  dsimp only
  split
  · rfl
  · exact if_pos hg

/-- The fold of a product in flight is that of its issue, but for what the choice of its path decides. -/
theorem prodFold_captured {o : TeProd} {s : State} {kind : PairKind} {c : Nat} (hpair : pairNow o s = some (kind, c))
    (drain : Option (Nat × Nat)) :
    let f := foldNow o kind c s
    let g := prodFold (prodCaptured o drain kind f s)
    g.red = f.red ∧ g.mr = f.mr ∧ g.kind = f.kind ∧ g.p = f.p ∧ g.m = f.m ∧ g.routed = f.routed := by
  have hfold : prodFold (prodCaptured o drain kind (foldNow o kind c s) s) =
      { foldOf kind c (tileCfg s o.ta.toNat) (tileCfg s o.tb.toNat) (bit o.orr 0) 0 false 0 with
        g := (foldNow o kind c s).g, routed := (foldNow o kind c s).routed } := by
    unfold pairNow at hpair
    unfold prodFold prodCaptured
    dsimp only
    rw [hpair]
  dsimp only
  rw [hfold]
  exact ⟨rfl, rfl, rfl, rfl, rfl, rfl⟩

/-- The landing clk of a row on the arrays hangs on these parts of the fold alone (06 R151). -/
theorem rowLandClk_congr {p : Prod} {f g : Fold} (hkind : g.kind = f.kind) (hp : g.p = f.p) (hm : g.m = f.m) (hmr : g.mr = f.mr)
    (hf : f.routed = false) (hg : g.routed = false) (i : Nat) : rowLandClk p g i = rowLandClk p f i := by
  simp only [rowLandClk, hf, hg, hkind, hp, hm, hmr, Bool.false_eq_true, if_false]

/-- Every element of a routed share lands at t + L, which is at least 24 clk (06 R154, 02 Table 2-7). -/
theorem rowLandClk_routed {o : TeProd} {s : State} {kind : PairKind} {c : Nat} (p : Prod) (h : (foldNow o kind c s).routed = true)
    (i : Nat) : rowLandClk p (foldNow o kind c s) i = p.issued + (24 + (foldNow o kind c s).dist) := by
  have hlat : (foldNow o kind c s).lat = (if (foldNow o kind c s).routed then 24 else 268) + (foldNow o kind c s).dist := rfl
  rw [rowLandClk, if_pos h, hlat, if_pos h]

/-! ### Conditions at issue (06 R140, 02 R41, R52) -/

/-- A product without a condition on a group with members has a pair of formats that the fold takes. -/
theorem condProd_pair {drain : Bool} {o : TeProd} {s : State} (hg : groupMask s o.gn.toNat ≠ 0) (h : condProd drain o s = none) :
    ∃ kind c, pairNow o s = some (kind, c) := by
  cases hpair : pairNow o s with
  | some kc => exact ⟨kc.1, kc.2, rfl⟩
  | none =>
    unfold pairNow at hpair
    unfold condProd at h
    dsimp only at h
    rw [if_neg hg, hpair] at h
    split at h <;> cases h

theorem condProd_empty {o : TeProd} {s : State} (hg : groupMask s o.gn.toNat = 0) (hor : o.orr.getLsbD 1 = false) (drain : Bool) :
    condProd drain o s = none := by
  have hor' : bit o.orr 1 = false := hor
  simp [condProd, firstCond, hg, hor']

theorem condTmmd_native {s : State} (h : s.seq.compact = false) (o : TeProd) : condTmmd s.seq.compact o s = condProd true o s :=
  if_neg (by simp [h])

theorem condTmmd_compact {s : State} (h : s.seq.compact = true) (o : TeProd) : condTmmd s.seq.compact o s = some (1, 0xB) := if_pos h

/-! ### TMM and TMMD -/

/-- What the issue of a product in state s leaves in state t: the product p as captured, its block read and its landings in flight, and
the data of the program as they were (06 R145, R150, R151, R154). -/
structure ProdIssued (o : TeProd) (drain : Option (Nat × Nat)) (s t : State) (p : Prod) : Prop where
  held : p ∈ t.tiles.prods
  op : p.op = s.cnt.op
  ad : p.ad = o.ad.toNat
  cfgA : p.cfgA = tileCfg s o.ta.toNat
  cfgB : p.cfgB = tileCfg s o.tb.toNat
  acc : p.acc = o.acc
  drain : p.drain.isSome = drain.isSome
  trans : p.trans = bit o.orr 0
  block : ∃ w ∈ t.work, w.act = .prodBlock s.cnt.op ∧ w.due = s.cnt.clk + 7 ∧ w.phase = 1
  onArrays : (prodFold p).red ≠ 0 → p.routed = false → ∀ i < (prodFold p).mr, ∃ w ∈ t.work,
    w.act = .prodLand s.cnt.op i ∧ w.phase = 0 ∧ w.due = rowLandClk p (prodFold p) i
  onPath : (prodFold p).red ≠ 0 → p.routed = true → ∃ d, s.cnt.clk + 24 ≤ d ∧ ∀ i < (prodFold p).mr, ∃ w ∈ t.work,
    w.act = .prodLand s.cnt.op i ∧ w.phase = 0 ∧ w.due = d
  mem : t.mem = s.mem
  sc : t.sc = s.sc
  elem : t.elem = s.elem
  frag : t.tiles.frag = s.tiles.frag
  bank : t.tiles.bank = s.tiles.bank

theorem doProd_prodIssued {o : TeProd} {s : State} {kind : PairKind} {c : Nat} (hpair : pairNow o s = some (kind, c))
    (hg : groupMask s o.gn.toNat ≠ 0) (drain : Option (Nat × Nat)) : ∃ p, ProdIssued o drain s (doProd o drain s) p := by
  obtain ⟨_, _, ps, _, _, _, _, hdo⟩ := doProd_issued hpair hg drain
  obtain ⟨w, hwork, hblock, hlands⟩ := prodScheduled_work (if drain.isSome then 3 else 0) (foldNow o kind c s)
    (prodCaptured o drain kind (foldNow o kind c s) s) _
  obtain ⟨hred, hmr, hkind, hp, hm, hrouted⟩ := prodFold_captured hpair drain
  rw [hdo, hwork]
  refine ⟨prodCaptured o drain kind (foldNow o kind c s) s, {
    held := List.mem_append_right ps (List.mem_singleton.mpr rfl)
    op := rfl, ad := rfl, cfgA := rfl, cfgB := rfl, acc := rfl, drain := Option.isSome_map, trans := rfl
    block := hblock, onArrays := fun hne hpath i hi => ?_, onPath := fun hne hpath => ?_
    mem := rfl, sc := rfl, elem := rfl, frag := rfl, bank := rfl }⟩
  · obtain ⟨x, hx, hact, hphase, hdue⟩ := hlands (hred ▸ hne) i (hmr ▸ hi)
    exact ⟨x, hx, hact, hphase, hdue.trans (rowLandClk_congr hkind hp hm hmr hpath (hrouted.trans hpath) i).symm⟩
  · refine ⟨s.cnt.clk + (24 + (foldNow o kind c s).dist), by omega, fun i hi => ?_⟩
    obtain ⟨x, hx, hact, hphase, hdue⟩ := hlands (hred ▸ hne) i (hmr ▸ hi)
    exact ⟨x, hx, hact, hphase, hdue.trans (rowLandClk_routed _ hpath i)⟩

theorem doProd_power (o : TeProd) (drain : Option (Nat × Nat)) (s : State) : (doProd o drain s).power = s.power := by
  by_cases hg : groupMask s o.gn.toNat = 0
  · rw [doProd_empty hg]
  · cases hpair : pairNow o s with
    | none =>
      unfold pairNow at hpair
      simp only [doProd, hpair]
    | some kc =>
      obtain ⟨_, _, _, _, _, _, _, hdo⟩ := doProd_issued hpair hg drain
      obtain ⟨_, hwork, -, -⟩ := prodScheduled_work (if drain.isSome then 3 else 0) _ _ _
      rw [hdo, hwork]

/-- A product without a condition is the issue of its product, on what a peal that it violates leaves. -/
theorem issue_prod {o : TeProd} {cond : State → Cond} {s : State} (hw : withheld s = false) (hc : cond s = none)
    (drain : Option (Nat × Nat)) : ∃ u, PealNoted s u ∧ (groupMask s o.gn.toNat = 0 → u = s)
      ∧ issueOne (opOver 2 o.gn cond (doProd o drain)) s = nextOp (doProd o drain u) :=
  issueOne_opOver hw hc fun u ⟨_, _, _, _, _, _, hu⟩ => by rw [doProd_power, hu]

/-- Settles O25: the product is put in flight as captured, with the landings of its fold; on an empty group nothing is. -/
theorem tileProductIssues : Obligations.TileProductIssues := by
  intro s o de db hw a b done idle
  have hdone {c : Instr} {cond : State → Cond} {drain : Option (Nat × Nat)}
      (hexec : exec c s = .next (issueOne (opOver 2 o.gn cond (doProd o drain)) s)) (hc : cond s = none) (hg : groupMask s o.gn.toNat ≠ 0)
      (hpair : ∃ kind c, pairNow o s = some (kind, c)) : done c drain.isSome := by
    obtain ⟨u, hnoted, -, hissue⟩ := issue_prod (o := o) hw hc drain
    obtain ⟨kind, c, hpair⟩ := hpair
    have hissued : ∃ p, ProdIssued o drain u (doProd o drain u) p := by
      obtain ⟨_, _, _, _, _, _, rfl⟩ := hnoted
      refine doProd_prodIssued (kind := kind) (c := c) ?_ ?_ drain
      · exact hpair
      · exact hg
    obtain ⟨p, h⟩ := hissued
    rw [hissue] at hexec
    obtain ⟨_, _, _, _, _, _, rfl⟩ := hnoted
    exact ⟨_, p, hexec, h.held, h.op, h.ad, h.cfgA, h.cfgB, h.acc, h.drain, h.trans, h.block, h.onArrays, h.onPath, h.mem, h.sc,
      h.elem, h.frag, h.bank⟩
  have hidle {c : Instr} {cond : State → Cond} {drain : Option (Nat × Nat)}
      (hexec : exec c s = .next (issueOne (opOver 2 o.gn cond (doProd o drain)) s)) (hc : cond s = none) (hg : groupMask s o.gn.toNat = 0) :
      idle c := by
    obtain ⟨u, -, hempty, hissue⟩ := issue_prod (o := o) hw hc drain
    rw [hissue, hempty hg, doProd_empty hg] at hexec
    exact ⟨_, hexec, (nextOp_quiet s).2, rfl, rfl, rfl⟩
  refine ⟨fun hg => ⟨fun hc => hdone (drain := none) rfl hc hg (condProd_pair hg hc), fun hform hc =>
    hdone (drain := some (de.toNat, db.toNat)) rfl ((condTmmd_native hform o).trans hc) hg (condProd_pair hg hc)⟩,
    fun hg hor => ⟨hidle rfl (condProd_empty hg hor false) hg,
      fun hform => hidle rfl ((condTmmd_native hform o).trans (condProd_empty hg hor true)) hg⟩,
    fun hform hr => issueOver_faults hw (condTmmd_compact hform o) hr (by decide)⟩

/-! ### MVM (06 R156) -/

theorem condMvm_empty {o : MvOps} {s : State} (hg : groupMask s o.gn.toNat = 0) : condMvm o s = none := if_pos hg

/-- On an empty group MVM reads nothing and puts nothing in flight (02 R41). -/
theorem doMvm_empty {o : MvOps} {s : State} (hg : groupMask s o.gn.toNat = 0) : doMvm o s = s := by
  simp [doMvm, hg, members]

/-- On an empty group MVM issues and does nothing, whatever MODE.FW holds (02 R41). -/
theorem exec_mvm_empty {o : MvOps} {s : State} (hw : withheld s = false) (hg : groupMask s o.gn.toNat = 0) :
    exec (.mvm o) s = .next (nextOp s) := by
  have hstill {u : State} (hu : PealNoted s u) : doMvm o u = u ∧ u.power = s.power := by
    obtain ⟨_, _, _, _, _, _, rfl⟩ := hu
    exact ⟨doMvm_empty hg, rfl⟩
  obtain ⟨u, hnoted, hempty, hissue⟩ := issueOne_opOver (slot := 4) (run := doMvm o) hw (condMvm_empty hg) fun u hu => by
    obtain ⟨hsame, hpower⟩ := hstill hu
    rw [hsame, hpower]
  rw [(hstill hnoted).1, hempty hg] at hissue
  exact congrArg Host.Outcome.next hissue

/-- Refutes O26: the clause on another format does not ask for a group with members. After reset group 1 is empty, so an MVM over it issues
and does nothing (02 R41), where the clause asks for the fault of MODE.FW = 0. -/
theorem not_matrixVectorIssues : ¬ Obligations.MatrixVectorIssues := by
  intro h
  let s : State := State.reset.onSeq fun q => { q with running := true, fw := 0 }
  have hfault := (h s ⟨0, 1, 0, 0, false⟩ rfl).2 (by decide) rfl
  rw [exec_mvm_empty rfl rfl] at hfault
  injection hfault with hsame
  exact absurd (congrArg (fun t => t.cnt.op) hsame) (by decide)

end Sys2Proof.Machine
end

section
/-! Operands and results of the element-wise engine where no word of its registers is marked (08 R187 to R196). -/

namespace Sys2Proof.Machine

/-! ### Files without marks, slices without poison (13 R342, 08 R201) -/

/-- A file without marks is read as it stands. -/
@[simp] theorem meetAll_nil (meet : State → Nat → State) (s : State) (ws : List Nat) : meetAll [] meet s ws = s := rfl

/-- With no slice that meets poison no fault is raised. -/
@[simp] theorem vePoison_nil (s : State) (sub : Nat) (level : BitVec 2) (bundle : IAddr) (op : Nat) :
    vePoison s sub [] level bundle op = s := rfl

/-! ### Lanes without poison -/

/-- The 256 lanes of a register, none of them poisoned. -/
def cleanLanes (f : Nat → W32) : List (W32 × Bool) := (List.range 256).map fun i => (f i, false)

/-- No lane of 256 is poisoned. -/
def noPoison : List Bool := List.replicate 256 false

/-- The operands of a slice, none of them poisoned. -/
def cleanSlice (sl : Nat) (a b d : Nat → W32) : VeSlice := ⟨sl, cleanLanes a, cleanLanes b, cleanLanes d⟩

@[simp] theorem noPoison_length : noPoison.length = 256 := List.length_replicate

@[simp] theorem noPoison_getElem {i : Nat} (h : i < noPoison.length) : noPoison[i] = false := List.getElem_replicate h

theorem mem_noPoison {x : Bool} (h : x ∈ noPoison) : x = false := List.eq_of_mem_replicate h

@[simp] theorem noPoison_getD (i : Nat) : noPoison.getD i false = false := by
  rw [noPoison, List.getD_eq_getElem?_getD, List.getElem?_replicate]
  split <;> rfl

theorem noPoison_any : noPoison.any id = false := List.any_eq_false.mpr fun _ h => by simp [mem_noPoison h]

theorem map_eq_noPoison {f : Nat → Bool} (h : ∀ i, f i = false) : (List.range 256).map f = noPoison := by
  rw [funext h, List.map_const', List.length_range]
  rfl

@[simp] theorem cleanLanes_length (f : Nat → W32) : (cleanLanes f).length = 256 :=
  (List.length_map _).trans List.length_range

@[simp] theorem cleanLanes_getElem (f : Nat → W32) {i : Nat} (h : i < (cleanLanes f).length) : (cleanLanes f)[i] = (f i, false) :=
  (List.getElem_map _).trans (by rw [List.getElem_range])

@[simp] theorem cleanLanes_values (f : Nat → W32) : (cleanLanes f).map (·.1) = (List.range 256).map f := List.map_map

theorem mem_cleanLanes {f : Nat → W32} {x : W32 × Bool} (h : x ∈ cleanLanes f) : x.2 = false := by
  obtain ⟨i, -, rfl⟩ := List.mem_map.mp h
  rfl

@[simp] theorem cleanLanes_poison (f : Nat → W32) (i : Nat) : ((cleanLanes f)[i]?.map (·.2)).getD false = false := by
  cases h : (cleanLanes f)[i]? with
  | none => rfl
  | some x => exact mem_cleanLanes (List.mem_of_getElem? h)

theorem cleanLanes_head (f : Nat → W32) : (cleanLanes f).head? = some (f 0, false) := by
  rw [List.head?_eq_getElem?, List.getElem?_eq_getElem (by simp), cleanLanes_getElem]

theorem cleanLanes_const (b : W32) : cleanLanes (fun _ => b) = List.replicate 256 (b, false) := by
  rw [cleanLanes, List.map_const', List.length_range]

/-- Where no word of the L registers is marked, no lane is poisoned. -/
theorem lanesOf_unmarked {s : State} (h : s.elem.lMark = []) (sl r : Nat) : lanesOf s sl r = cleanLanes (laneGet s sl r) := by
  have hgood (i : Nat) : laneBad s sl r i = false := by rw [laneBad, h]; rfl
  simp only [lanesOf, cleanLanes, hgood]

/-- 256 values without poison are the lanes that hold them. -/
theorem zip_noPoison {l : List W32} (h : l.length = 256) : l.zip noPoison = cleanLanes fun i => l.getD i 0 := by
  refine List.ext_getElem (by simp [h]) fun i h₁ _ => ?_
  have hi : i < l.length := by simp at h₁; omega
  simp [hi]

theorem map_zip_noPoison (f : Nat → W32) : ((List.range 256).map f).zip noPoison = cleanLanes f := by
  rw [← map_eq_noPoison (f := fun _ => false) fun _ => rfl, List.zip_map']
  rfl

theorem laneWrites_clean (sl ld : Nat) (f : Nat → W32) :
    laneWrites sl ld (cleanLanes f) = (List.range 256).map fun i => (laneIdx sl ld i, f i, false) := by
  refine List.ext_getElem (by rw [laneWrites, List.length_map, List.length_zipIdx, cleanLanes_length, List.length_map, List.length_range])
    fun i _ _ => ?_
  simp only [laneWrites, List.getElem_map, List.getElem_zipIdx, cleanLanes_getElem, List.getElem_range, Nat.zero_add]

section
variable (fn : VeFn) (sl : Nat) (a b d : Nat → W32)

/-- No lane of a result is poisoned where no operand is (08 R201). -/
theorem veBadLanes_clean : veBadLanes fn (cleanSlice sl a b d) = noPoison := by
  unfold veBadLanes cleanSlice
  refine map_eq_noPoison fun i => ?_
  simp only [cleanLanes_poison, cleanLanes_head, Option.map_some, Option.getD_some, Bool.and_false, Bool.or_false, ite_self]

theorem veMeets_clean (fmt : Nat) : veMeets fn fmt (cleanSlice sl a b d) = false := by
  rw [veMeets, veBadLanes_clean]
  exact List.any_eq_false.mpr fun x hx => by simp [mem_noPoison (List.fst_mem_of_mem_zipIdx hx)]

end

/-! ### Results (08 Table 8-1) -/

/-- The operations that compute lane i from lane i of A, B and LD (08 Table 8-1, R191, R192). -/
def laneWise (fn : VeFn) : Bool :=
  match fn with
  | .bcst | .iota | .cvtn | .cvtw | .feval | .fdrv | .routine | .ftld | .rdrop | .rmask | .rsum | .rmax | .rmin | .ramax | .risum => false
  | _ => true

/-- Nothing changes but counters and the next free value. -/
def Counted (s t : State) : Prop := ∃ d n, t = { s with dict := d, cnt := { s.cnt with free := n } }

theorem Counted.refl (s : State) : Counted s s := ⟨s.dict, s.cnt.free, rfl⟩

theorem Counted.trans {s t u : State} (h : Counted s t) (k : Counted t u) : Counted s u := by
  obtain ⟨_, _, rfl⟩ := h
  obtain ⟨d, n, rfl⟩ := k
  exact ⟨d, n, rfl⟩

theorem objAdd_counted (s : State) (i j n : Nat) : Counted s (objAdd s i j n) := ⟨_, s.cnt.free, rfl⟩

/-- A job gives in a slice the lanes f, and counts besides. -/
def GivesLanes (j : VeJob) (sl : VeSlice) (f : Nat → W32) : Prop :=
  ∀ s, ∃ t, Counted s t ∧ veResult s j sl = (t, cleanLanes f)

section
variable {j : VeJob} {sl : Nat} {a b d : Nat → W32}

theorem GivesLanes.of_same {f : Nat → W32} {x : VeSlice} (h : ∀ s, veResult s j x = (s, cleanLanes f)) : GivesLanes j x f :=
  fun s => ⟨s, .refl s, h s⟩

theorem GivesLanes.congr {f g : Nat → W32} {x : VeSlice} (h : GivesLanes j x f) (hfg : ∀ i, f i = g i) : GivesLanes j x g :=
  funext hfg ▸ h

theorem laneWise_gives (h : laneWise j.fn = true) :
    GivesLanes j (cleanSlice sl a b d) fun i => laneOp j.fn j.sat (a i) (b i) (d i) := by
  refine .of_same fun s => ?_
  have hlanes : (((((List.range 256).map a).zip ((List.range 256).map b)).zip ((List.range 256).map d)).map fun p =>
      laneOp j.fn j.sat p.1.1 p.1.2 p.2).zip noPoison = cleanLanes fun i => laneOp j.fn j.sat (a i) (b i) (d i) := by
    rw [List.zip_map', List.zip_map', List.map_map]
    exact map_zip_noPoison _
  rw [← hlanes, ← veBadLanes_clean j.fn sl a b d, ← cleanLanes_values a, ← cleanLanes_values b, ← cleanLanes_values d]
  have hred : ¬ veReduces j.fn = true := by
    generalize j.fn = fn at h
    revert h
    cases fn <;> decide
  unfold veResult
  dsimp only
  rw [if_neg hred]
  have hother {g : VeFn} (hg : laneWise g = false) : j.fn ≠ g := fun hfn => by rw [hfn, hg] at h; cases h
  split
  case h_10 => rfl
  all_goals exact absurd ‹j.fn = _› (hother rfl)

theorem broadcast_gives (h : j.fn = .bcst) : GivesLanes j (cleanSlice sl a b d) fun _ => b 0 := by
  refine .of_same fun s => ?_
  unfold veResult
  rw [h, veBadLanes_clean]
  rw [cleanLanes_const, cleanSlice, cleanLanes_head]
  exact Prod.ext rfl List.map_replicate

theorem iota_gives (h : j.fn = .iota) : GivesLanes j (cleanSlice sl a b d) fun i => b 0 + BitVec.ofNat 32 i := by
  refine .of_same fun s => ?_
  unfold veResult
  rw [h, veBadLanes_clean]
  refine Prod.ext rfl (List.ext_getElem (by simp [veReduces]) fun i h₁ h₂ => ?_)
  simp [cleanSlice, veReduces, cleanLanes_head]

theorem rattle_gives (h : j.fn = .rdrop ∨ j.fn = .rmask) : GivesLanes j (cleanSlice sl a b d) fun i =>
    ratLane (decide (j.fn = .rmask)) j.key j.sub j.step j.imm (a i) (b i) := by
  refine .of_same fun s => ?_
  have hlanes : ((((List.range 256).map a).zip ((List.range 256).map b)).map fun p =>
      ratLane (decide (j.fn = .rmask)) j.key j.sub j.step j.imm p.1 p.2).zip noPoison
      = cleanLanes fun i => ratLane (decide (j.fn = .rmask)) j.key j.sub j.step j.imm (a i) (b i) := by
    rw [List.zip_map', List.map_map]
    exact map_zip_noPoison _
  rw [← hlanes, ← veBadLanes_clean j.fn sl a b d, ← cleanLanes_values a, ← cleanLanes_values b]
  unfold veResult
  rcases h with h | h <;> rw [h] <;> rfl

/-- A reduction gives its one result to every lane (08 R196). -/
theorem reduction_gives (h : veReduces j.fn = true) : GivesLanes j (cleanSlice sl a b d) fun _ =>
    reduceLanes j.fn ((List.range 256).map a) := by
  refine .of_same fun s => ?_
  unfold veResult
  dsimp only
  rw [if_pos h, veBadLanes_clean, noPoison_any, cleanLanes_const, ← cleanLanes_values a]
  rfl

theorem cvtnBad_clean (fmt : Nat) : cvtnBad fmt noPoison = noPoison := by
  unfold cvtnBad
  refine map_eq_noPoison fun j => List.any_eq_false.mpr fun i _ => ?_
  have hblock : ((List.range 32).any fun k => noPoison.getD (i / 32 * 32 + k) false) = false :=
    List.any_eq_false.mpr fun k _ => by rw [noPoison_getD]; decide
  rw [hblock, noPoison_getD, ite_self, Bool.false_and]
  decide

theorem cvtwBad_clean (fmt : Nat) : cvtwBad fmt noPoison = noPoison := by
  unfold cvtwBad
  refine map_eq_noPoison fun i => ?_
  simp only [noPoison_getD, Bool.and_false, Bool.or_false]
  exact List.any_eq_false.mpr fun _ _ => by decide

theorem momentFlushes_counted (s : State) (fmt flush : Nat) : Counted s (momentFlushes s fmt flush) := by
  have hfree : Counted s (freshFree s).2 := ⟨s.dict, _, rfl⟩
  unfold momentFlushes
  dsimp only
  split
  · split
    · exact hfree.trans (objAdd_counted ..)
    · exact hfree
  · exact .refl s

theorem narrowing_gives (h : j.fn = .cvtn) : GivesLanes j (cleanSlice sl a b d) fun i =>
    (cvtnLanes j.fmt j.e ((List.range 256).map a)).1.getD i 0 := by
  intro s
  have hlen : (cvtnLanes j.fmt j.e ((List.range 256).map a)).1.length = 256 := (List.length_map _).trans List.length_range
  unfold veResult
  rw [h, veBadLanes_clean]
  dsimp only
  rw [if_neg (by decide), cvtnBad_clean, cleanSlice]
  dsimp only
  rw [cleanLanes_values, zip_noPoison hlen]
  refine ⟨_, ?_, rfl⟩
  exact ((((((objAdd_counted ..).trans (objAdd_counted ..)).trans (objAdd_counted ..)).trans (momentFlushes_counted ..)).trans
    (objAdd_counted ..)).trans (objAdd_counted ..))

theorem widening_gives (h : j.fn = .cvtw) : GivesLanes j (cleanSlice sl a b d) fun i =>
    (cvtwLanes j.fmt j.e ((List.range 256).map a)).getD i 0 := by
  refine .of_same fun s => ?_
  have hlen : (cvtwLanes j.fmt j.e ((List.range 256).map a)).length = 256 := (List.length_map _).trans List.length_range
  unfold veResult
  rw [h, veBadLanes_clean]
  dsimp only
  rw [if_neg (by decide), cvtwBad_clean, cleanSlice]
  dsimp only
  rw [cleanLanes_values, zip_noPoison hlen]

end

end Sys2Proof.Machine
end

section
/-! The element-wise engine at issue: operands read, results scheduled (08 R187 to R196, 02 R55). -/

namespace Sys2Proof.Machine

/-! ### Results scheduled -/

/-- Nothing changes but counters, spot samples and the next free value, and work is added to what is in flight. -/
def AddsLandings (s t : State) : Prop := ∃ w d r n,
  t = { s with work := w, dict := d, rel := r, cnt := { s.cnt with free := n } } ∧ s.work ⊆ w

theorem AddsLandings.refl (s : State) : AddsLandings s s := ⟨s.work, s.dict, s.rel, s.cnt.free, rfl, List.Subset.refl _⟩

theorem AddsLandings.trans {s t u : State} (h : AddsLandings s t) (k : AddsLandings t u) : AddsLandings s u := by
  obtain ⟨_, _, _, _, rfl, hsub⟩ := h
  obtain ⟨w, d, r, n, rfl, hsub'⟩ := k
  exact ⟨w, d, r, n, rfl, List.Subset.trans hsub hsub'⟩

theorem AddsLandings.elem {s t : State} (h : AddsLandings s t) : t.elem = s.elem := by
  obtain ⟨_, _, _, _, rfl, -⟩ := h
  rfl

theorem AddsLandings.sub {s t : State} (h : AddsLandings s t) : s.work ⊆ t.work := by
  obtain ⟨_, _, _, _, rfl, hsub⟩ := h
  exact hsub

section
variable {β : Type} {f : State → β → State} {s : State} {l : List β}
  (h : ∀ t, t.elem = s.elem → ∀ x ∈ l, AddsLandings t (f t x))
include h

theorem AddsLandings.foldl : AddsLandings s (l.foldl f s) := by
  refine List.foldlRecOn (motive := AddsLandings s) l f (.refl s) fun t ht x hx => ?_
  exact ht.trans (h t ht.elem x hx)

/-- Of operations that each add work, what one of them puts in flight stays. -/
theorem AddsLandings.mem_foldl {P : Work → Prop} {x : β} (hx : x ∈ l) (hP : ∀ t, t.elem = s.elem → ∃ w ∈ (f t x).work, P w) :
    ∃ w ∈ (l.foldl f s).work, P w := by
  obtain ⟨l₁, l₂, rfl⟩ := List.append_of_mem hx
  rw [List.foldl_append, List.foldl_cons]
  have hbefore : AddsLandings s (l₁.foldl f s) := .foldl fun t ht y hy => h t ht y (List.mem_append_left _ hy)
  have hone := h _ hbefore.elem x hx
  have hafter : AddsLandings (f (l₁.foldl f s) x) (l₂.foldl f (f (l₁.foldl f s) x)) :=
    .foldl fun t ht y hy => h t (ht.trans (hone.elem.trans hbefore.elem)) y (List.mem_append_right _ (List.mem_cons_of_mem _ hy))
  obtain ⟨w, hw, hPw⟩ := hP _ hbefore.elem
  exact ⟨w, hafter.sub hw, hPw⟩

end

theorem veSample_rel (s : State) (j : VeJob) (sl : VeSlice) (out : List (W32 × Bool)) :
    ∃ r, veSample s j sl out = { s with rel := r } := by
  unfold veSample
  split
  · exact ⟨_, rfl⟩
  · exact ⟨s.rel, rfl⟩

/-- The landing of a register of a slice. -/
def lanesLanding (ld sl : Nat) (f : Nat → W32) : Micro := .setL ((List.range 256).map fun i => (laneIdx sl ld i, f i, false))

section
variable {s t : State} {j : VeJob} {sl : VeSlice} {f : Nat → W32}

/-- A result without poison, of a job that keeps its slices, is scheduled whole. -/
theorem veFinish_result (hlost : j.lost = []) (hfn : j.fn ≠ .ftld) (hres : veResult s j sl = (t, cleanLanes f)) :
    ∃ r, veFinish s j sl = schedule { t with rel := r } j.land 0 j.op (j.res.filter fun k => decide (k % 256 = sl.slice))
      (lanesLanding j.ld sl.slice f) := by
  obtain ⟨r, hr⟩ := veSample_rel t j sl (cleanLanes f)
  refine ⟨r, ?_⟩
  simp only [veFinish, hlost, List.any_nil, Bool.false_eq_true, if_false, if_neg hfn, hres, hr, laneWrites_clean, lanesLanding]

theorem veFinish_adds (hlost : j.lost = []) (hfn : j.fn ≠ .ftld) (ht : Counted s t) (hres : veResult s j sl = (t, cleanLanes f)) :
    AddsLandings s (veFinish s j sl) := by
  obtain ⟨r, hr⟩ := veFinish_result hlost hfn hres
  obtain ⟨d, n, rfl⟩ := ht
  rw [hr]
  exact ⟨_, d, r, n, rfl, fun x hx => (mem_insertWork _ x s.work).mpr (.inr hx)⟩

theorem veFinish_mem (hlost : j.lost = []) (hfn : j.fn ≠ .ftld) (hres : veResult s j sl = (t, cleanLanes f)) :
    ∃ w ∈ (veFinish s j sl).work, w.due = j.land ∧ w.phase = 0 ∧ w.op = j.op ∧ w.act = lanesLanding j.ld sl.slice f := by
  obtain ⟨r, hr⟩ := veFinish_result hlost hfn hres
  rw [hr]
  exact ⟨_, mem_schedule .., rfl, rfl, rfl, rfl⟩

end

/-- All of a job's slices, each with its lanes, are scheduled. -/
theorem veFinish_all {j : VeJob} (hlost : j.lost = []) (hfn : j.fn ≠ .ftld) {f : Nat → Nat → W32}
    (hgives : ∀ sl ∈ j.lanes, GivesLanes j sl (f sl.slice)) (s : State) :
    AddsLandings s (j.lanes.foldl (fun s sl => veFinish s j sl) s)
      ∧ ∀ sl ∈ j.lanes, ∃ w ∈ (j.lanes.foldl (fun s sl => veFinish s j sl) s).work,
        w.due = j.land ∧ w.phase = 0 ∧ w.op = j.op ∧ w.act = lanesLanding j.ld sl.slice (f sl.slice) := by
  have hadds (t : State) (_ : t.elem = s.elem) (sl : VeSlice) (hsl : sl ∈ j.lanes) : AddsLandings t (veFinish t j sl) := by
    obtain ⟨u, hu, hres⟩ := hgives sl hsl t
    exact veFinish_adds hlost hfn hu hres
  refine ⟨.foldl hadds, fun sl hsl => AddsLandings.mem_foldl hadds hsl fun t _ => ?_⟩
  obtain ⟨u, -, hres⟩ := hgives sl hsl t
  exact veFinish_mem hlost hfn hres

/-! ### Operands at issue -/

/-- The operations that read a function table, 6 clk after their issue. -/
def veEvaluates (fn : VeFn) : Bool :=
  match fn with
  | .feval | .fdrv | .routine => true
  | _ => false

theorem veEvaluates_iff (fn : VeFn) : (fn = .feval ∨ fn = .fdrv ∨ fn = .routine) ↔ veEvaluates fn = true := by
  cases fn <;> decide

/-- What an operation reads in a slice at its issue (02 R55), with no word of the L registers marked. -/
def operandsNow (v : VeStart) (s : State) (sl : Nat) : VeSlice :=
  cleanSlice sl (laneGet s sl v.la) (fun i => v.immB.getD (laneGet s sl v.lb i)) (laneGet s sl v.ld)

/-- An operation whose A is no bank, as it is captured at its issue. -/
def jobNow (v : VeStart) (sampled : List Nat) (s : State) : VeJob :=
  { fn := v.fn, ld := v.ld, sat := v.sat, bank := none, scdq := v.scdq, imm := v.imm
    fmt := (v.conv.getD (s.seq.fa.toNat, 0)).1, e := (v.conv.getD (s.seq.fa.toNat, 0)).2, fe := v.fe
    key := s.ctl.rtkh ++ s.ctl.rtkl, sub := s.ctl.rtsub.setWidth 32, step := s.cnt.step
    land := s.cnt.clk + v.lat.getD (veLat v.fn), lanes := (members v.mask).map (operandsNow v s)
    res := v.res ++ if veReduces v.fn then (members v.mask).map (resKey .reduction) else []
    lost := v.lost, sampled := sampled, level := v.level, bundle := v.bundle, op := v.op }

theorem jobNow_lanes (v : VeStart) (sampled : List Nat) (s : State) :
    (jobNow v sampled s).lanes = (members v.mask).map (operandsNow v s) := rfl

/-- A captured operation goes on: it waits for its table, or its results are scheduled. -/
def startJob (j : VeJob) (s : State) : State :=
  if veEvaluates j.fn then schedule s (s.cnt.clk + 6) 1 j.op [] (.veRead j) else j.lanes.foldl (fun s sl => veFinish s j sl) s

/-- What the issue of an operation takes: its unit, in which others lose their work, and its spot samples (02 R63, 13 R368). -/
def UnitsTaken (s t : State) : Prop := ∃ w x d r, t = { s with work := w, uses := x, dict := d, rel := r }

theorem UsesClaimed.units {s t u : State} (h : UnitsTaken s t) (k : UsesClaimed t u) : UnitsTaken s u := by
  obtain ⟨_, _, _, r, rfl⟩ := h
  obtain ⟨w, x, d, rfl⟩ := k
  exact ⟨w, x, d, r, rfl⟩

theorem veSampleQuarters_taken (s : State) (fn : VeFn) (ms : List Nat) : UnitsTaken s (veSampleQuarters s fn ms).1 := by
  unfold veSampleQuarters
  split
  · exact ⟨s.work, s.uses, s.dict, s.rel, rfl⟩
  · exact ⟨s.work, s.uses, s.dict, _, rfl⟩

/-- A captured job hangs on the registers, the modes and the counts alone. -/
theorem UnitsTaken.jobNow {s t : State} (h : UnitsTaken s t) (v : VeStart) (qs : List Nat) : jobNow v qs t = jobNow v qs s := by
  obtain ⟨_, _, _, _, rfl⟩ := h
  rfl

section
variable {s : State} (hmark : s.elem.lMark = [])
include hmark

theorem operandsNow_register {v : VeStart} (h : v.immB = none) (sl : Nat) :
    operandsNow v s sl = ⟨sl, lanesOf s sl v.la, lanesOf s sl v.lb, lanesOf s sl v.ld⟩ := by
  simp only [lanesOf_unmarked hmark, operandsNow, cleanSlice, h, Option.getD_none]

theorem operandsNow_immediate {v : VeStart} {b : W32} (h : v.immB = some b) (sl : Nat) :
    operandsNow v s sl = ⟨sl, lanesOf s sl v.la, List.replicate 256 (b, false), lanesOf s sl v.ld⟩ := by
  simp only [lanesOf_unmarked hmark, operandsNow, cleanSlice, h, Option.getD_some, cleanLanes_const]

end

/-- No slice meets poison at issue. -/
theorem operandsNow_good (v : VeStart) (s : State) (fmt : Nat) (ms : List Nat) :
    (ms.map (operandsNow v s)).filter (veMeets v.fn fmt) = [] := by
  refine List.filter_eq_nil_iff.mpr fun x hx => ?_
  obtain ⟨sl, -, rfl⟩ := List.mem_map.mp hx
  rw [operandsNow, veMeets_clean]
  decide

/-- On no slices an operation does nothing (02 R41). -/
theorem veStart_empty {v : VeStart} (h : members v.mask = []) (s : State) : veStart s v = s := by
  simp [veStart, h]

/-- Without a bank and without poison an operation is captured as it stands at its issue. -/
theorem veStart_eq {v : VeStart} {s : State} (hmark : s.elem.lMark = []) (hbank : v.bank = none) (hne : members v.mask ≠ []) :
    ∃ qs u, UnitsTaken s u ∧ veStart s v = startJob (jobNow v qs s) u := by
  obtain ⟨u₀, qs, hsample, hsampled⟩ : ∃ u₀ qs, veSampleQuarters s v.fn (members v.mask) = (u₀, qs) ∧ UnitsTaken s u₀ :=
    ⟨_, _, rfl, veSampleQuarters_taken ..⟩
  obtain ⟨u, hclaim⟩ : ∃ u, (if veReduces v.fn then claim u₀ .reduction (members v.mask) v.op s.cnt.clk 2 else u₀) = u := ⟨_, rfl⟩
  have htaken : UnitsTaken s u := by
    rw [← hclaim]
    split
    · exact (claim_claimed ..).units hsampled
    · exact hsampled
  have hu : u.elem.lMark = [] ∧ s.cnt.clk = u.cnt.clk := by
    obtain ⟨_, _, _, _, rfl⟩ := htaken
    exact ⟨hmark, rfl⟩
  refine ⟨qs, u, htaken, ?_⟩
  rw [← htaken.jobNow, startJob]
  unfold veStart
  dsimp only
  rw [if_neg (by simpa using hne), hsample]
  dsimp only
  rw [hclaim]
  simp only [hu, hbank, meetAll_nil, Option.isSome_none, Bool.false_eq_true, if_false, false_and, Nat.add_zero, false_or]
  cases hB : v.immB with
  | none =>
    simp only [← operandsNow_register hu.1 hB, operandsNow_good, veEvaluates_iff]
    rfl
  | some b =>
    simp only [← operandsNow_immediate hu.1 hB, operandsNow_good, veEvaluates_iff]
    rfl

end Sys2Proof.Machine
end

section
/-! Lane-wise operations, broadcasts, reductions, the rattle and conversions of the element-wise engine (08 R189 to R196, R208 to R210). -/

namespace Sys2Proof.Machine

/-! ### The issue of an operation on L registers (08 R187 to R189) -/

/-- What the issue of an element-wise operation can change: the work in flight, the use of its unit, counters, spot samples and the next
free value. -/
def VeIssued (s t : State) : Prop := ∃ w x d r n, t = { s with
  work := w, uses := x, dict := d, rel := r, cnt := { s.cnt with free := n } }

theorem UnitsTaken.lands {s t u : State} (h : UnitsTaken s t) (k : AddsLandings t u) : VeIssued s u := by
  obtain ⟨_, x, _, _, rfl⟩ := h
  obtain ⟨w, d, r, n, rfl, -⟩ := k
  exact ⟨w, x, d, r, n, rfl⟩

section
variable {s : State} {o : VeOps}

theorem veStartOf_bank (h : o.src.getLsbD 0 = false) (fn : VeFn) : (veStartOf fn o s).bank = none :=
  if_neg (by rw [bit, h]; decide)

/-- On an empty group an operation does nothing (02 R41). -/
theorem doVe_empty {fn : VeFn} (h : members (groupMask s o.gn.toNat) = []) : doVe fn o s = s := veStart_empty h s

variable {fn : VeFn} {f : Nat → Nat → W32} (hreg : Spec.fromRegisters s o)
include hreg

theorem doVe_eq (hne : members (groupMask s o.gn.toNat) ≠ []) :
    ∃ qs u, UnitsTaken s u ∧ doVe fn o s = startJob (jobNow (veStartOf fn o s) qs s) u :=
  veStart_eq hreg.2 (veStartOf_bank hreg.1 fn) hne

/-- Where its job gives the lanes f in every slice of the group, an operation lands them after its latency. -/
theorem doVe_lands (heval : veEvaluates fn = false) (hfn : fn ≠ .ftld) (hgives : ∀ qs, ∀ sl ∈ members (groupMask s o.gn.toNat),
      GivesLanes (jobNow (veStartOf fn o s) qs s) (operandsNow (veStartOf fn o s) s sl) (f sl)) :
    VeIssued s (doVe fn o s) ∧ ∀ sl ∈ members (groupMask s o.gn.toNat), ∃ w ∈ (doVe fn o s).work,
      w.due = s.cnt.clk + veLat fn ∧ w.phase = 0 ∧ w.op = s.cnt.op ∧ w.act = lanesLanding o.ld.toNat sl (f sl) := by
  by_cases hne : members (groupMask s o.gn.toNat) = []
  · rw [doVe_empty hne, hne]
    exact ⟨⟨s.work, s.uses, s.dict, s.rel, s.cnt.free, rfl⟩, fun _ h => nomatch h⟩
  · obtain ⟨qs, u, htaken, heq⟩ := doVe_eq hreg hne (fn := fn)
    have hstart : startJob (jobNow (veStartOf fn o s) qs s) u
        = (jobNow (veStartOf fn o s) qs s).lanes.foldl (fun t sl => veFinish t (jobNow (veStartOf fn o s) qs s) sl) u :=
      if_neg (Bool.eq_false_iff.mp heval)
    have hall : ∀ sl ∈ (jobNow (veStartOf fn o s) qs s).lanes, GivesLanes (jobNow (veStartOf fn o s) qs s) sl (f sl.slice) := by
      rw [jobNow_lanes]
      exact List.forall_mem_map.mpr (hgives qs)
    obtain ⟨hadds, hmem⟩ := veFinish_all rfl hfn hall u
    rw [heq, hstart]
    exact ⟨htaken.lands hadds, fun sl hsl => hmem (operandsNow (veStartOf fn o s) s sl) <| by
      rw [jobNow_lanes]
      exact List.mem_map_of_mem hsl⟩

omit hreg in
/-- An operation without a condition is the issue of its job, on what a peal that it violates leaves. -/
theorem issue_ve {c : Instr} (hexec : exec c s = .next (issueOne (opVe fn o) s)) (hclk : Spec.clkGiven s) (hcond : condVe fn o = none)
    (hissued : ∀ u, PealNoted s u → VeIssued u (doVe fn o u)) : ∃ u, PealNoted s u ∧ exec c s = .next (nextOp (doVe fn o u)) := by
  obtain ⟨u, hnoted, -, hissue⟩ := issueOne_opOver (slot := 3) (gn := o.gn) (c := fun _ => condVe fn o) (run := doVe fn o) hclk hcond
    fun u hu => by
      obtain ⟨_, _, _, _, _, hrun⟩ := hissued u hu
      obtain ⟨_, _, _, _, _, _, rfl⟩ := hu
      rw [hrun]
  exact ⟨u, hnoted, hexec.trans (congrArg Host.Outcome.next hissue)⟩

/-- Where its job gives the lanes, an operation that issues lands them. -/
theorem lanesLand_of_gives {c : Instr} (hexec : exec c s = .next (issueOne (opVe fn o) s)) (hclk : Spec.clkGiven s)
    (hcond : condVe fn o = none) (heval : veEvaluates fn = false) (hfn : fn ≠ .ftld)
    (hgives : ∀ qs, ∀ sl ∈ members (groupMask s o.gn.toNat),
      GivesLanes (jobNow (veStartOf fn o s) qs s) (operandsNow (veStartOf fn o s) s sl) (f sl)) :
    Spec.lanesLand c s o (veLat fn) f := by
  have hdone (u : State) (hu : PealNoted s u) : VeIssued u (doVe fn o u) ∧ ∀ sl ∈ members (groupMask u o.gn.toNat),
      ∃ w ∈ (doVe fn o u).work, w.due = u.cnt.clk + veLat fn ∧ w.phase = 0 ∧ w.op = u.cnt.op
        ∧ w.act = lanesLanding o.ld.toNat sl (f sl) := by
    obtain ⟨_, _, _, _, _, _, rfl⟩ := hu
    exact doVe_lands hreg heval hfn hgives
  obtain ⟨u, hnoted, hissue⟩ := issue_ve hexec hclk hcond fun u hu => (hdone u hu).1
  obtain ⟨⟨_, _, _, _, _, hrun⟩, hmem⟩ := hdone u hnoted
  refine ⟨nextOp (doVe fn o u), hissue, ?_⟩
  obtain ⟨_, _, _, _, _, _, rfl⟩ := hnoted
  refine ⟨hmem, ?_⟩
  rw [hrun]
  exact ⟨⟨rfl, rfl, rfl, rfl, rfl, rfl, rfl⟩, rfl, rfl, rfl, rfl⟩

end

/-! ### Lane-wise operations (08 Table 8-1, R190 to R192) -/

/-- B of an operation without a field word: the broadcast immediate, or LB. -/
theorem operandB {fn : VeFn} (h : veField fn = false) (s : State) (o : VeOps) (sl i : Nat) :
    (veStartOf fn o s).immB.getD (laneGet s sl o.lb.toNat i) = Spec.laneB s o sl i := by
  have himm : (veStartOf fn o s).immB = o.imm.map (veImm o.imi) := if_neg (by rw [h]; decide)
  rw [himm, Spec.laneB]
  cases o.imm <;> rfl

/-- B of an operation with a field word is LB. -/
theorem operandB_field {fn : VeFn} (h : veField fn = true) (s : State) (o : VeOps) (sl i : Nat) :
    (veStartOf fn o s).immB.getD (laneGet s sl o.lb.toNat i) = laneGet s sl o.lb.toNat i := by
  rw [show (veStartOf fn o s).immB = none from if_pos h, Option.getD_none]

/-- A signed integer result is clamped under SAT, and wraps else (08 R191). -/
theorem satLane_signed (sat : Bool) (z : Int) :
    satLane sat false z = BitVec.ofInt 32 (if sat then max (-(2 ^ 31)) (min (2 ^ 31 - 1) z) else z) := by
  apply BitVec.eq_of_toNat_eq
  cases sat <;> simp [satLane, narrow, patternOf, BitVec.toNat_ofInt] <;> omega

/-- An unsigned one likewise. -/
theorem satLane_unsigned (sat : Bool) (z : Int) :
    satLane sat true z = BitVec.ofInt 32 (if sat then max 0 (min (2 ^ 32 - 1) z) else z) := by
  apply BitVec.eq_of_toNat_eq
  cases sat <;> simp [satLane, narrow, patternOf, BitVec.toNat_ofInt] <;> omega

/-- What a row of the table says of its command is what the model does: the operation that issues, its latency, and its lanes. -/
structure RowAgrees (o : VeOps) (p : Spec.LaneRow) : Prop where
  issues : ∀ s, exec p.cmd s = .next (issueOne (opVe p.fn o) s)
  wise : laneWise p.fn = true
  lat : veLat p.fn = p.lat
  val : ∀ a b d, laneOp p.fn o.sat a b d = p.val a b d

theorem laneTable_agrees (o : VeOps) : ∀ p ∈ Spec.laneTable o, RowAgrees o p := by
  simp only [Spec.laneTable, List.forall_mem_cons, List.not_mem_nil, false_imp_iff, implies_true, and_true]
  and_intros
  all_goals exact ⟨fun _ => rfl, rfl, rfl, fun a b d => by simp only [laneOp, satLane_signed, satLane_unsigned] <;> rfl⟩

theorem laneWise_kind {fn : VeFn} (h : laneWise fn = true) : veEvaluates fn = false ∧ veField fn = false ∧ fn ≠ .ftld := by
  revert h
  cases fn <;> decide

/-- Settles O18: a lane-wise operation is the issue of a job that gives, lane by lane, the row's result. -/
theorem laneResults : Obligations.LaneResults := by
  intro s o hclk hreg p hp hcond
  obtain ⟨hexec, hwise, hlat, hval⟩ := laneTable_agrees o p hp
  obtain ⟨heval, hfield, hfn⟩ := laneWise_kind hwise
  rw [← hlat]
  refine lanesLand_of_gives hreg (hexec s) hclk hcond heval hfn fun qs sl _ => ?_
  simp only [← hval, ← operandB hfield]
  exact laneWise_gives hwise

/-! ### Broadcasts, the rattle and reductions (08 R195, R196, R208 to R210) -/

theorem veReduces_kind {fn : VeFn} (h : veReduces fn = true) : veEvaluates fn = false ∧ veLat fn = 20 ∧ fn ≠ .ftld := by
  revert h
  cases fn <;> decide

/-- A reduction that issues lands its one result in all lanes of each slice (08 R196). -/
theorem reduction_lands {s : State} {o : VeOps} {c : Instr} {fn : VeFn} (hclk : Spec.clkGiven s) (hreg : Spec.fromRegisters s o)
    (hred : veReduces fn = true) (hexec : exec c s = .next (issueOne (opVe fn o) s)) (hcond : condVe fn o = none) :
    Spec.lanesLand c s o 20 fun sl _ => reduceLanes fn ((List.range 256).map fun i => laneGet s sl o.la.toNat i) := by
  obtain ⟨heval, hlat, hfn⟩ := veReduces_kind hred
  rw [← hlat]
  exact lanesLand_of_gives hreg hexec hclk hcond heval hfn fun qs sl _ => reduction_gives hred

theorem laneBroadcastsAndReductions : Spec.LaneBroadcastsAndReductions := by
  intro s o hclk hreg lanes key
  refine ⟨fun hcond => ?_, fun hcond => ?_, fun hcond => ?_, fun hcond => ?_, fun p hp hcond _ => ?_⟩
  · refine lanesLand_of_gives hreg rfl hclk hcond rfl (by decide) fun qs sl _ => (broadcast_gives rfl).congr fun _ => ?_
    exact operandB rfl s o sl 0
  · refine lanesLand_of_gives hreg rfl hclk hcond rfl (by decide) fun qs sl _ => (iota_gives rfl).congr fun i => ?_
    exact congrArg (· + BitVec.ofNat 32 i) (operandB rfl s o sl 0)
  · refine lanesLand_of_gives hreg rfl hclk hcond rfl (by decide) fun qs sl _ => (rattle_gives (.inl rfl)).congr fun i => ?_
    exact congrArg (ratLane false key (s.ctl.rtsub.setWidth 32) s.cnt.step (veWord o) _) (operandB_field rfl s o sl i)
  · refine lanesLand_of_gives hreg rfl hclk hcond rfl (by decide) fun qs sl _ => (rattle_gives (.inr rfl)).congr fun i => ?_
    exact congrArg (ratLane true key (s.ctl.rtsub.setWidth 32) s.cnt.step (veWord o) _) (operandB_field rfl s o sl i)
  · simp only [List.mem_cons, List.not_mem_nil, or_false] at hp
    rcases hp with rfl | rfl | rfl | rfl | rfl <;> exact reduction_lands hclk hreg rfl rfl hcond

/-! ### Conversions (08 R193, R194) -/

/-- The format and the exponent of a conversion: those of its field word, or MODE.FA and 0. -/
theorem conversion_fields {fn : VeFn} (h : fn = .cvtn ∨ fn = .cvtw) (s : State) (o : VeOps) (qs : List Nat) :
    (jobNow (veStartOf fn o s) qs s).fmt
        = (if o.imm.isSome ∧ veWord o / 2 ^ 13 % 2 = 1 then veWord o / 512 % 16 else s.seq.fa.toNat)
      ∧ (jobNow (veStartOf fn o s) qs s).e = (if o.imm.isSome then signedOf 9 (veWord o) else 0) := by
  have hconv : (veStartOf fn o s).conv = if o.imm.isSome then
      some (if veWord o / 2 ^ 13 % 2 = 1 then veWord o / 512 % 16 else s.seq.fa.toNat, signedOf 9 (veWord o)) else none := by
    simp only [veStartOf, h, true_and]
  rw [jobNow]
  dsimp only
  rw [hconv]
  cases himm : o.imm.isSome with
  | false => exact ⟨rfl, rfl⟩
  | true => simp only [if_true, true_and, Option.getD_some, and_self]

theorem laneConversions : Spec.LaneConversions := by
  intro s o hclk hreg lanes w fmt e
  refine ⟨fun hcond => ?_, fun hcond => ?_⟩
  · refine lanesLand_of_gives hreg rfl hclk hcond rfl (by decide) fun qs sl _ => ?_
    obtain ⟨hfmt, he⟩ := conversion_fields (.inl rfl) s o qs
    exact (narrowing_gives rfl).congr fun i => by rw [hfmt, he]; rfl
  · refine lanesLand_of_gives hreg rfl hclk hcond rfl (by decide) fun qs sl _ => ?_
    obtain ⟨hfmt, he⟩ := conversion_fields (.inr rfl) s o qs
    exact (widening_gives rfl).congr fun i => by rw [hfmt, he]; rfl

/-- Settles O19: each operation is the issue of a job that gives its lanes. -/
theorem laneBroadcasts : Obligations.LaneBroadcasts := ⟨laneBroadcastsAndReductions, laneConversions⟩

end Sys2Proof.Machine
end

section
/-! Function evaluation by tables (08 R202, R203). -/

namespace Sys2Proof.Machine

/-! ### Tables without poison (08 R201) -/

section
variable {s : State} (hmark : s.elem.tableMark = [])
include hmark

theorem headBad_unmarked (sl e : Nat) : headBad s sl e = false := by
  rw [headBad, hmark]
  exact Bool.and_false _

theorem pairHeadBad_unmarked (sl e : Nat) : pairHeadBad s sl e = false := by
  simp only [pairHeadBad, headBad_unmarked hmark, Bool.and_false, Bool.or_false]

theorem entryMarks_unmarked (sl e : Nat) : entryMarks s sl e = [] := by
  rw [entryMarks, hmark]
  exact if_pos (Bool.or_true _)

end

/-! ### Entries hang on the tables alone (08 R202) -/

section
variable {s t : State} (h : t.elem = s.elem)
include h

theorem vendorHeld_congr (sl e : Nat) : vendorHeld t sl e = vendorHeld s sl e := by
  rw [vendorHeld, vendorHeld, h]

theorem entryValid_congr (sl e : Nat) : entryValid t sl e = entryValid s sl e := by
  rw [entryValid, entryValid, vendorHeld_congr h, h]

theorem entryImage_congr (sl e : Nat) : entryImage t sl e = entryImage s sl e := by
  rw [entryImage, entryImage, vendorHeld_congr h, h]

theorem pairEntry_congr (sl e : Nat) : pairEntry t sl e = pairEntry s sl e := by
  simp only [pairEntry, entryValid_congr h, entryImage_congr h]

theorem evalEntry_congr (j : VeJob) (sl : Nat) : evalEntry t j sl = evalEntry s j sl := by
  simp only [evalEntry, pairEntry_congr h, entryValid_congr h]

end

/-! ### The evaluation of one slice (08 R203) -/

/-- The lanes of a slice that an evaluation gives: of the entry it uses, and the canonical NaN without one. -/
def evalGives (s : State) (j : VeJob) (sl : Nat) (a : Nat → W32) (i : Nat) : W32 :=
  (evalLanes ((evalEntry s j sl).map (entryImage s sl)) s.cnt.free ((List.range 256).map a)).getD i 0

/-- An evaluation counts the lanes for which no entry is valid, and takes its free values. -/
def evalCounted (s : State) (j : VeJob) (sl : Nat) : State :=
  (if (evalEntry s j sl).isNone then objAdd s 0x7260 6 256 else s).onCnt fun c => { c with free := c.free + 256 }

theorem evalCounted_counted (s : State) (j : VeJob) (sl : Nat) : Counted s (evalCounted s j sl) := by
  unfold evalCounted
  split
  · exact (objAdd_counted ..).trans ⟨_, _, rfl⟩
  · exact ⟨s.dict, _, rfl⟩

theorem evalLanes_length (img : Option (List Byte)) (free : Nat) (a : List W32) : (evalLanes img free a).length = a.length := by
  cases img <;> simp [evalLanes]

theorem veResult_evaluates {s : State} {j : VeJob} (hmark : s.elem.tableMark = []) (hfn : j.fn = .feval ∨ j.fn = .fdrv)
    (sl : Nat) (a b d : Nat → W32) :
    veResult s j (cleanSlice sl a b d) = (evalCounted s j sl, cleanLanes (evalGives s j sl a)) := by
  have hlen : (evalLanes ((evalEntry s j sl).map (entryImage s sl)) s.cnt.free ((List.range 256).map a)).length = 256 :=
    (evalLanes_length ..).trans ((List.length_map _).trans List.length_range)
  have hbad : (noPoison.zipIdx.map fun x => x.1 || ([] : List Bool).getD x.2 false) = noPoison :=
    List.ext_getElem (by simp) fun i _ _ => by simp
  have hout : cleanLanes (evalGives s j sl a)
      = (evalLanes ((evalEntry s j sl).map (entryImage s sl)) s.cnt.free ((List.range 256).map a)).zip noPoison := (zip_noPoison hlen).symm
  rw [evalCounted, hout]
  unfold veResult
  rcases hfn with h | h
  all_goals
    rw [h, veBadLanes_clean]
    dsimp only
    rw [if_neg (by decide)]
    cases he : evalEntry s j sl
    all_goals simp only [cleanSlice, he, headBad_unmarked hmark, pairHeadBad_unmarked hmark, entryMarks_unmarked hmark, ite_self,
      cleanLanes_values, reduceCtorEq, if_false, Bool.not_false, Bool.and_true, Bool.false_or, List.isEmpty_nil, Bool.not_true,
      Bool.false_eq_true, List.any_nil, hbad, vePoison_nil]

/-- An entry that is not valid gives the canonical NaN in every lane. -/
theorem evalGives_none {s : State} {j : VeJob} {sl i : Nat} (h : evalEntry s j sl = none) (a : Nat → W32) (hi : i < 256) :
    evalGives s j sl a i = 0x7FC00000 := by
  rw [evalGives, h]
  simp [evalLanes, hi, f32Nan]

/-- A valid entry gives in every lane the value of its function, where it names one. -/
theorem evalGives_some {s : State} {j : VeJob} {sl i k : Nat} {z : W32} (h : evalEntry s j sl = some k) (a : Nat → W32) (hi : i < 256)
    (hz : fevalWords (fun n => ((List.range 208).map fun m => imgWord (entryImage s sl k) m).getD n 0) (a i) = some z) :
    evalGives s j sl a i = z := by
  have hlane : ((List.range 256).map a).zipIdx[i]? = some (a i, i) := by simp [hi]
  rw [evalGives, h, Option.map_some, evalLanes, List.getD_eq_getElem?_getD, List.getElem?_map, hlane]
  rw [Option.map_some, Option.getD_some, hz, Option.getD_some]

/-! ### The reads of all slices (08 R202) -/

/-- What the lanes without a valid entry leave of their counter, 256 for each of n slices; counters wrap. -/
def missesCounted (x n : Nat) : Nat := if n = 0 then x else (x + 256 * n) % 2 ^ 64

theorem missesCounted_succ (x n : Nat) : missesCounted ((x + 256) % 2 ^ 64) n = missesCounted x (n + 1) := by
  unfold missesCounted
  split <;> simp <;> omega

section
variable {j : VeJob} (hfn : j.fn = .feval ∨ j.fn = .fdrv) (hlost : j.lost = [])
include hfn hlost

/-- One slice is evaluated: its landing is added, and its lanes without an entry are counted. -/
theorem veFinish_evaluates {s : State} (hmark : s.elem.tableMark = []) (v : VeStart) (s₀ : State) (sl : Nat) :
    AddsLandings s (veFinish s j (operandsNow v s₀ sl))
      ∧ objGet (veFinish s j (operandsNow v s₀ sl)) 0x7260 6 = missesCounted (objGet s 0x7260 6) (evalEntry s j sl).isNone.toNat
      ∧ ∃ w ∈ (veFinish s j (operandsNow v s₀ sl)).work,
        w.due = j.land ∧ w.act = lanesLanding j.ld sl (evalGives s j sl (laneGet s₀ sl v.la)) := by
  have hftld : j.fn ≠ .ftld := by rcases hfn with h | h <;> rw [h] <;> decide
  have hcount : objGet (evalCounted s j sl) 0x7260 6 = missesCounted (objGet s 0x7260 6) (evalEntry s j sl).isNone.toNat := by
    cases h : (evalEntry s j sl).isNone
    · rw [evalCounted, h]; rfl
    · rw [evalCounted, h]
      exact objGet_objAdd_same s 0x7260 6 256
  have hres := veResult_evaluates hmark hfn sl (laneGet s₀ sl v.la) (fun i => v.immB.getD (laneGet s₀ sl v.lb i)) (laneGet s₀ sl v.ld)
  refine ⟨veFinish_adds hlost hftld (evalCounted_counted s j sl) hres, ?_, ?_⟩
  · obtain ⟨r, hr⟩ := veFinish_result hlost hftld hres
    rw [operandsNow, hr]
    exact hcount
  · obtain ⟨w, hw, hdue, -, -, hact⟩ := veFinish_mem hlost hftld hres
    exact ⟨w, hw, hdue, hact⟩

/-- Over all slices 256 lanes are counted for each without a valid entry. -/
theorem foldl_evaluates_counts (v : VeStart) (s₀ : State) (ms : List Nat) {u : State} (hmark : u.elem.tableMark = []) :
    objGet (ms.foldl (fun t sl => veFinish t j (operandsNow v s₀ sl)) u) 0x7260 6
      = missesCounted (objGet u 0x7260 6) (ms.filter fun sl => (evalEntry u j sl).isNone).length := by
  induction ms generalizing u with
  | nil => rfl
  | cons sl ms ih =>
    obtain ⟨hadds, hcount, -⟩ := veFinish_evaluates hfn hlost hmark v s₀ sl
    rw [List.foldl_cons, ih (hadds.elem ▸ hmark), hcount]
    simp only [evalEntry_congr hadds.elem, List.filter_cons]
    cases (evalEntry u j sl).isNone
    · rfl
    · exact missesCounted_succ ..

/-- In each slice the landing holds what the entry gives, as the tables stand at the read. -/
theorem foldl_evaluates_mem (v : VeStart) (s₀ : State) {ms : List Nat} {sl : Nat} (hsl : sl ∈ ms) {u : State}
    (hmark : u.elem.tableMark = []) : ∃ w ∈ (ms.foldl (fun t sl => veFinish t j (operandsNow v s₀ sl)) u).work, ∃ t : State,
      t.elem = u.elem ∧ w.due = j.land ∧ w.act = lanesLanding j.ld sl (evalGives t j sl (laneGet s₀ sl v.la)) := by
  refine AddsLandings.mem_foldl (fun t ht x _ => (veFinish_evaluates hfn hlost (ht ▸ hmark) v s₀ x).1) hsl fun t ht => ?_
  obtain ⟨-, -, w, hw, hdue, hact⟩ := veFinish_evaluates hfn hlost (s := t) (ht ▸ hmark) v s₀ sl
  exact ⟨w, hw, t, ht, hdue, hact⟩

end

/-- With no word of the tables marked, and no bank, the read evaluates the slices one after another. -/
theorem veRead_unmarked {u : State} {j : VeJob} (hmark : u.elem.tableMark = []) (hbank : j.bank = none) :
    veRead u j = j.lanes.foldl (fun t sl => veFinish t j sl) u := by
  unfold veRead
  simp only [hbank, hmark, meetAll_nil, vePoison_nil, Option.isSome_none, Bool.false_and, Bool.false_eq_true, if_false, List.map_id']

/-! ### FEVAL and FDRV (08 R202, R203) -/

/-- An evaluation at issue waits for its table. -/
theorem doVe_evaluates {fn : VeFn} {s : State} {o : VeOps} (hreg : Spec.fromRegisters s o) (heval : veEvaluates fn = true)
    (hne : members (groupMask s o.gn.toNat) ≠ []) : ∃ qs, VeIssued s (doVe fn o s)
      ∧ ⟨s.cnt.clk + 6, 1, s.cnt.op, [], .veRead (jobNow (veStartOf fn o s) qs s)⟩ ∈ (doVe fn o s).work := by
  obtain ⟨qs, u, ⟨w, x, d, r, rfl⟩, heq⟩ := doVe_eq hreg hne (fn := fn)
  rw [heq, startJob, if_pos (show veEvaluates (jobNow (veStartOf fn o s) qs s).fn = true from heval)]
  exact ⟨qs, ⟨_, x, d, r, s.cnt.free, rfl⟩, mem_schedule ..⟩

/-- The entry that FEVAL or FDRV uses: the one that its word names, or that entry's PAIR. -/
theorem evalEntry_jobNow {fn : VeFn} (hfn : fn = .feval ∨ fn = .fdrv) (o : VeOps) (s : State) (qs : List Nat) (u : State) (sl : Nat) :
    evalEntry u (jobNow (veStartOf fn o s) qs s) sl = if fn = .fdrv then pairEntry u sl (veWord o % 64)
      else if entryValid u sl (veWord o % 64) then some (veWord o % 64) else none := by
  rcases hfn with rfl | rfl <;> rfl

/-- Settles O20: the job waits for its table, and the read evaluates slice by slice. -/
theorem functionEvaluation : Obligations.FunctionEvaluation := by
  intro s o hclk hreg hne p hp hcond entry
  have hrow : (p.2 = .feval ∨ p.2 = .fdrv) ∧ exec p.1 s = .next (issueOne (opVe p.2 o) s) := by
    simp only [List.mem_cons, List.not_mem_nil, or_false] at hp
    rcases hp with rfl | rfl
    · exact ⟨.inl rfl, rfl⟩
    · exact ⟨.inr rfl, rfl⟩
  obtain ⟨hfn, hexec⟩ := hrow
  have hkind : veEvaluates p.2 = true ∧ veLat p.2 = 15 := by rcases hfn with h | h <;> rw [h] <;> decide
  obtain ⟨heval, hlat⟩ := hkind
  have hissued (u : State) (hu : PealNoted s u) : ∃ qs, VeIssued u (doVe p.2 o u)
      ∧ ⟨s.cnt.clk + 6, 1, s.cnt.op, [], .veRead (jobNow (veStartOf p.2 o s) qs s)⟩ ∈ (doVe p.2 o u).work := by
    obtain ⟨_, _, _, _, _, _, rfl⟩ := hu
    exact doVe_evaluates hreg heval hne
  obtain ⟨u, hnoted, hissue⟩ := issue_ve hexec hclk hcond fun u hu => (hissued u hu).elim fun _ h => h.1
  obtain ⟨qs, ⟨_, _, _, _, _, hrun⟩, hmem⟩ := hissued u hnoted
  refine ⟨nextOp (doVe p.2 o u), jobNow (veStartOf p.2 o s) qs s, hissue, ?_, hmem, fun v hmark => ?_⟩
  · obtain ⟨_, _, _, _, _, _, rfl⟩ := hnoted
    rw [hrun]
    exact ⟨rfl, rfl, rfl, rfl, rfl, rfl, rfl⟩
  · have hentry (t : State) (sl : Nat) : evalEntry t (jobNow (veStartOf p.2 o s) qs s) sl = entry t sl := evalEntry_jobNow hfn o s qs t sl
    rw [veRead_unmarked hmark rfl, jobNow_lanes, List.foldl_map]
    refine ⟨fun n hn => ?_, fun sl hsl => ?_⟩
    · rw [foldl_evaluates_counts hfn rfl _ _ _ hmark]
      simp only [hentry]
      subst hn
      rfl
    · obtain ⟨w, hw, t, ht, hdue, hact⟩ := foldl_evaluates_mem (j := jobNow (veStartOf p.2 o s) qs s) hfn rfl (veStartOf p.2 o s) s
        hsl hmark
      refine ⟨w, hw, _, hdue.trans (congrArg (s.cnt.clk + ·) hlat), hact, fun hnone i hi => ?_, fun k hk i hi z hz => ?_⟩
      · exact evalGives_none ((evalEntry_congr ht _ sl).trans ((hentry v sl).trans hnone)) _ hi
      · exact evalGives_some ((evalEntry_congr ht _ sl).trans ((hentry v sl).trans hk)) _ hi (entryImage_congr ht sl k ▸ hz)

end Sys2Proof.Machine
end

section
/-! Long-vector memory access at issue (08 R187, R197 to R199), and the empty group under FTLD and coprocessor opcodes (02 R41). -/

namespace Sys2Proof.Machine

/-! ### What a long-vector access takes (08 R198, 02 R63) -/

theorem UsesClaimed.refl (s : State) : UsesClaimed s s := ⟨s.work, s.uses, s.dict, rfl⟩

theorem UsesClaimed.trans {s t u : State} (h : UsesClaimed s t) (k : UsesClaimed t u) : UsesClaimed s u := by
  obtain ⟨_, _, _, rfl⟩ := h
  obtain ⟨w, x, d, rfl⟩ := k
  exact ⟨w, x, d, rfl⟩

theorem dropWork_claimed (s : State) (op key clk : Nat) : UsesClaimed s (dropWork s op key clk) := ⟨_, s.uses, s.dict, rfl⟩

theorem setUses_claimed (s : State) (u : Store Use) : UsesClaimed s { s with uses := u } := ⟨s.work, u, s.dict, rfl⟩

theorem objAdd_claimed (s : State) (i j n : Nat) : UsesClaimed s (objAdd s i j n) := ⟨s.work, s.uses, _, rfl⟩

theorem UsesClaimed.ite {s t u : State} {p : Prop} [Decidable p] (h : UsesClaimed s t) (k : UsesClaimed s u) :
    UsesClaimed s (if p then t else u) := by
  split <;> assumption

/-- A scratch port that is taken is taken from the work in flight alone (08 R198). -/
theorem vmTakePort_claimed (s : State) (kind : Nat) (ms : List Nat) (clk op : Nat) : UsesClaimed s (vmTakePort s kind ms clk op) := by
  unfold vmTakePort
  dsimp only
  generalize hr : ms.foldl _ (s, false) = r
  have htaken : UsesClaimed s r.1 := by
    rw [← hr]
    refine List.foldlRecOn (motive := fun acc : State × Bool => UsesClaimed s acc.1) ms _ (.refl s) fun acc hacc sl _ => ?_
    generalize hmoves : List.foldl _ acc _ = moved
    have hdropped : UsesClaimed s moved.1 := by
      rw [← hmoves]
      refine List.foldlRecOn (motive := fun acc : State × Bool => UsesClaimed s acc.1) _ _ hacc fun a ha x _ => ?_
      rw [apply_ite Prod.fst]
      apply UsesClaimed.ite
      · exact ha.trans (dropWork_claimed ..)
      · exact ha
    refine UsesClaimed.ite (UsesClaimed.trans ?_ (setUses_claimed _ _)) ?_
    all_goals exact UsesClaimed.ite (hdropped.trans (dropWork_claimed ..)) hdropped
  exact UsesClaimed.ite (htaken.trans (objAdd_claimed ..)) htaken

/-! ### The access at its issue (08 R187, R197, R199) -/

/-- The bank and the block that a gather or a scatter takes its index from, if it does (08 R187). -/
def indexBank (kind : Nat) (o : VeOps) : Option (Nat × Nat) :=
  if 3 ≤ kind ∧ bit o.src 0 = true then some (o.la.toNat % 8, o.arb.toNat) else none

/-- A long-vector access as it is latched at its issue. -/
def memNow (kind : Nat) (o : VeOps) (s : State) : VeMem :=
  { kind := kind, ld := o.ld.toNat, imm := veWord o % (if kind ≤ 2 then 2 ^ 28 else 2 ^ 14)
    addr := if kind ≤ 2 then storeGet 0 s.ctl.vb (veWord o / 2 ^ 26 % 4) + BitVec.ofNat 64 (veWord o % 2 ^ 22)
      else storeGet 0 s.ctl.vb (veWord o / 2 ^ 12 % 4)
    bank := indexBank kind o, scdq := scdqOf s o.la.toNat
    lanes := (members (groupMask s o.gn.toNat)).map fun sl =>
      ⟨sl, if (indexBank kind o).isSome then [] else lanesOf s sl o.la.toNat, lanesOf s sl o.lb.toNat, lanesOf s sl o.ld.toNat⟩
    level := s.seq.pl, bundle := s.seq.pc, op := s.cnt.op, base := s.cnt.clk }

/-- An access that reads no poisoned lane meets no poison at issue (08 R201). -/
theorem vmBadSlices_nil {m : VeMem}
    (h : ∀ l ∈ m.lanes, (∀ x ∈ l.a, x.2 = false) ∧ (∀ x ∈ l.b, x.2 = false) ∧ ∀ x ∈ l.d, x.2 = false) : vmBadSlices m = [] := by
  have hgood {l : List (W32 × Bool)} (hl : ∀ x ∈ l, x.2 = false) (n : Nat) : (l.take n).any (·.2) = false :=
    List.any_eq_false.mpr fun x hx => by simp [hl x (List.mem_of_mem_take hx)]
  unfold vmBadSlices
  rw [List.map_eq_nil_iff, List.filter_eq_nil_iff]
  intro l hl
  obtain ⟨ha, hb, hd⟩ := h l hl
  simp only [hgood ha, hgood hb, hgood hd, Bool.or_false, ite_self]
  decide

theorem lanesOf_good {s : State} (hmark : s.elem.lMark = []) (sl r : Nat) : ∀ x ∈ lanesOf s sl r, x.2 = false := by
  rw [lanesOf_unmarked hmark]
  exact fun x => mem_cleanLanes

/-- Where no word of the L registers is marked no access meets poison at issue. -/
theorem memNow_good {s : State} (hmark : s.elem.lMark = []) (kind : Nat) (o : VeOps) : vmBadSlices (memNow kind o s) = [] := by
  refine vmBadSlices_nil (List.forall_mem_map.mpr fun sl _ => ⟨?_, lanesOf_good hmark _ _, lanesOf_good hmark _ _⟩)
  dsimp only
  split
  · exact fun _ h => nomatch h
  · exact lanesOf_good hmark _ _

/-- The issue of a long-vector access: it takes its port or its unit, and is located and checked three clk later. -/
theorem doVeMem_eq {kind : Nat} {o : VeOps} {s : State} (hmark : s.elem.lMark = []) (hne : members (groupMask s o.gn.toNat) ≠ []) :
    ∃ u, UsesClaimed s u ∧ doVeMem kind o s = schedule u (s.cnt.clk + 3) 1 s.cnt.op [] (.veMem (memNow kind o s)) := by
  have hgood := memNow_good hmark kind o
  unfold memNow indexBank at hgood
  unfold doVeMem
  dsimp only
  rw [if_neg (by simpa using hne), hmark]
  simp only [meetAll_nil, hgood, vePoison_nil]
  refine ⟨_, ?_, rfl⟩
  exact .ite (vmTakePort_claimed ..) (.ite (.refl s) (claim_claimed ..))

/-- LDL, STL, LDB, GATH and SCAT are each the issue of an access over the group. -/
theorem exec_veMem {kind : Nat} {c : VeOps → Instr} (hk : (kind, c) ∈ [(0, Instr.ldl), (1, .stl), (2, .ldb), (3, .gath), (4, .scat)])
    (o : VeOps) (s : State) : exec (c o) s = .next (issueOne (opVeMem kind o) s) := by
  simp only [List.mem_cons, List.not_mem_nil, or_false] at hk
  rcases hk with ⟨rfl, rfl⟩ | ⟨rfl, rfl⟩ | ⟨rfl, rfl⟩ | ⟨rfl, rfl⟩ | ⟨rfl, rfl⟩ <;> rfl

/-- Settles O21: an access is latched as it stands at its issue, and detected three clk later. -/
theorem laneMemoryIssues : Obligations.LaneMemoryIssues := by
  intro s o kind c hclk hk hcond hmark hne w fromBank
  have hdone (u : State) (hu : PealNoted s u) : ∃ v, UsesClaimed u v
      ∧ doVeMem kind o u = schedule v (s.cnt.clk + 3) 1 s.cnt.op [] (.veMem (memNow kind o s)) := by
    obtain ⟨_, _, _, _, _, _, rfl⟩ := hu
    exact doVeMem_eq hmark hne
  obtain ⟨u, hnoted, -, hissue⟩ := issueOne_opOver (slot := 3) (gn := o.gn) (c := fun _ => condVeMem kind o) (run := doVeMem kind o)
    hclk hcond fun u hu => by
      obtain ⟨_, ⟨_, _, _, rfl⟩, hdo⟩ := hdone u hu
      obtain ⟨_, _, _, _, _, _, rfl⟩ := hu
      rw [hdo]
      rfl
  obtain ⟨v, ⟨_, _, _, rfl⟩, hdo⟩ := hdone u hnoted
  rw [hdo] at hissue
  refine ⟨_, memNow kind o s, (exec_veMem hk o s).trans (congrArg Host.Outcome.next hissue), mem_schedule .., rfl, rfl, rfl, rfl, rfl,
    ?_, rfl, List.forall_mem_map.mpr fun sl _ => ⟨rfl, rfl, fun hreg => if_neg ?_⟩, ?_⟩
  · exact List.map_map.trans (List.map_id _)
  · rw [show indexBank kind o = none from if_neg hreg]
    decide
  · obtain ⟨_, _, _, _, _, _, rfl⟩ := hnoted
    exact ⟨rfl, rfl, rfl, rfl, rfl, rfl, rfl⟩

/-! ### The empty group (02 R41) -/

/-- On an empty group FTLD issues and does nothing, whatever entry it names. -/
theorem exec_ftld_empty {o : VeOps} {s : State} (hclk : withheld s = false) (hcond : condVe .ftld o = none)
    (hg : groupMask s o.gn.toNat = 0) : exec (.ftld o) s = .next (nextOp s) := by
  have hnone : members (groupMask s o.gn.toNat) = [] := by simp [hg, members]
  have hpass : condFtld o s = none := by simp [condFtld, hcond, unlessEmpty, hg]
  have hstill {u : State} (hu : PealNoted s u) : doVe .ftld o u = u ∧ u.power = s.power := by
    obtain ⟨_, _, _, _, _, _, rfl⟩ := hu
    exact ⟨doVe_empty hnone, rfl⟩
  obtain ⟨u, hnoted, hempty, hissue⟩ := issueOne_opOver (slot := 3) (run := doVe .ftld o) hclk hpass fun u hu => by
    obtain ⟨hsame, hpower⟩ := hstill hu
    rw [hsame, hpower]
  rw [(hstill hnoted).1, hempty hg] at hissue
  exact congrArg Host.Outcome.next hissue

/-- Refutes O22: the privilege clause on FTLD does not ask for a group with members. After reset group 1 is empty, so an FTLD of
entry 15 over it at U level issues and does nothing (02 R41), where the clause asks for the privilege fault. -/
theorem not_elementEntries : ¬ Obligations.ElementEntries := by
  rintro ⟨hloads, -⟩
  let s : State := State.reset.onSeq fun q => { q with running := true, pl := 0 }
  let o : VeOps := ⟨1, 2, 3, 2, 1, false, 0, 0, some ⟨.w14, 15⟩⟩
  have hfault := (hloads s o rfl ⟨by decide, rfl⟩ (by decide)).2 (by decide) (by decide) rfl
  rw [exec_ftld_empty rfl (by decide) rfl] at hfault
  injection hfault with hsame
  exact absurd (congrArg (fun t => t.cnt.op) hsame) (by decide)

end Sys2Proof.Machine
end

section
/-! The stash: what the end of a move leaves of an entry, how the one part of a transfer begins, and put, get and release of a group of
one slice (09 R228 to R234). -/

namespace Sys2Proof.Machine

/-! ### Sparse tables whose entries pass through a function -/

/-- A table lists a key at most once. -/
def KeyOnce {α : Type} (s : Store α) (k : Nat) : Prop := s.countP (fun e => decide (e.1 = k)) ≤ 1

theorem storeGet_absent {α : Type} (d : α) {s : Store α} {k : Nat} (h : s.countP (fun e => decide (e.1 = k)) = 0) : storeGet d s k = d :=
  Classical.byContradiction fun hne => by
    obtain ⟨e, he, hk⟩ := storeGet_mem d s k hne
    exact List.countP_eq_zero.mp h e he (decide_eq_true hk)

theorem countP_storeMap_le {α : Type} [DecidableEq α] (d : α) (f : Nat → α → α) (s : Store α) (k : Nat) :
    (storeMap d f s).countP (fun e => decide (e.1 = k)) ≤ s.countP (fun e => decide (e.1 = k)) := by
  induction s with
  | nil => exact Nat.le_refl _
  | cons e r ih =>
    obtain ⟨j, v⟩ := e
    unfold storeMap
    split <;> simp only [List.countP_cons] <;> omega

theorem KeyOnce.map {α : Type} [DecidableEq α] {s : Store α} {k : Nat} (h : KeyOnce s k) (d : α) (f : Nat → α → α) :
    KeyOnce (storeMap d f s) k := Nat.le_trans (countP_storeMap_le d f s k) h

theorem storeSorted_keyOnce {α : Type} (s : Store α) (k : Nat) : ∀ lo, storeSorted lo s = true → KeyOnce s k ∧
    (k < lo → s.countP (fun e => decide (e.1 = k)) = 0) := by
  induction s with
  | nil => exact fun _ _ => ⟨Nat.zero_le _, fun _ => rfl⟩
  | cons e r ih =>
    obtain ⟨j, v⟩ := e
    intro lo h
    simp only [storeSorted, Bool.and_eq_true, decide_eq_true_eq] at h
    obtain ⟨hlo, hr⟩ := h
    obtain ⟨honce, habsent⟩ := ih _ hr
    simp only [KeyOnce, List.countP_cons, decide_eq_true_eq] at honce ⊢
    by_cases hj : j = k
    · have hrest := habsent (by omega)
      exact ⟨by rw [if_pos hj]; omega, fun hk => by omega⟩
    · simp only [hj, if_false, Nat.add_zero]
      exact ⟨honce, fun hk => habsent (by omega)⟩

/-- A table in canonical form lists no key twice. -/
theorem keyOnce_of_wf {α : Type} [DecidableEq α] {d : α} {s : Store α} (h : storeWf d s = true) (k : Nat) : KeyOnce s k :=
  (storeSorted_keyOnce s k 0 ((storeWf_iff d s).mp h).1).1

theorem countP_storeInsert {α : Type} (s : Store α) (k : Nat) (v : α) (j : Nat) :
    (storeInsert s k v).countP (fun e => decide (e.1 = j)) = s.countP (fun e => decide (e.1 = j)) + if k = j then 1 else 0 := by
  induction s with
  | nil => simp [storeInsert]
  | cons e r ih =>
    unfold storeInsert
    split
    · simp [List.countP_cons]
    · simp only [List.countP_cons, ih]
      omega

/-- A key that has just been written is listed at most once, whatever the table listed before. -/
theorem keyOnce_set_same {α : Type} [DecidableEq α] (d : α) (s : Store α) (k : Nat) (v : α) : KeyOnce (storeSet d s k v) k := by
  have hgone : (storeErase s k).countP (fun e => decide (e.1 = k)) = 0 :=
    List.countP_eq_zero.mpr fun e he => by simpa using storeErase_ne s k e he
  unfold KeyOnce storeSet
  split
  · omega
  · rw [countP_storeInsert, hgone]
    simp

/-- A key listed at most once reads as the function of what it read before. -/
theorem storeGet_map {α : Type} [DecidableEq α] (d : α) (f : Nat → α → α) {s : Store α} {k : Nat} (hd : f k d = d) (h : KeyOnce s k) :
    storeGet d (storeMap d f s) k = f k (storeGet d s k) := by
  induction s with
  | nil => exact hd.symm
  | cons e r ih =>
    obtain ⟨j, v⟩ := e
    simp only [KeyOnce, List.countP_cons, decide_eq_true_eq] at h
    unfold storeMap
    by_cases hj : j = k
    · have hr : r.countP (fun e => decide (e.1 = k)) = 0 := by rw [if_pos hj] at h; omega
      have hmap := storeGet_absent d (Nat.le_zero.mp (hr ▸ countP_storeMap_le d f r k))
      subst hj
      by_cases hv : f j v = d
      · rw [if_pos hv, hmap]
        simp [storeGet, hv]
      · simp [hv, storeGet]
    · rw [if_neg hj] at h
      split <;> simp [storeGet, hj, ih h]

/-! ### Entries -/

@[simp] theorem entGet_entSet_same (s : State) (e : Nat) (v : StashEnt) : entGet (entSet s e v) e = v := storeGet_set_same ..

theorem entGet_entSet_other (s : State) {e k : Nat} (v : StashEnt) (h : k ≠ e) : entGet (entSet s e v) k = entGet s k :=
  storeGet_set_other _ _ _ v h

/-- An entry that the end of transfers leaves as it is: a busy one whose transfer an engine holds; another that no repeat announced since
its put is to free, or that is free (09 R234). -/
def EntrySettled (held : List Held) (cut : Nat) (v : StashEnt) : Prop :=
  if v.st = 4 then ∃ h ∈ held, h.x.op = v.op ∧ stashKind h.desc = true
  else cut ≤ v.seqNo ∨ (v.st = 0 ∧ v.run = [])

theorem EntrySettled.freeOld_eq {held : List Held} {cut : Nat} {v : StashEnt} (h : EntrySettled held cut v) : freeOld cut v = v := by
  unfold EntrySettled at h
  unfold freeOld
  split at h
  · rename_i hbusy
    simp [hbusy]
  · split
    · obtain hcut | ⟨hst, hrun⟩ := h
      · omega
      · rw [← hst, ← hrun]
    · rfl

/-- What the end of a stash transfer leaves of an entry that it keeps busy (09 R230, R232). -/
def endMove (held : List Held) (v : StashEnt) : StashEnt :=
  if v.st = 4 ∧ (held.any fun h => decide (h.x.op = v.op) && stashKind h.desc) = false then
    { v with st := v.next, run := if v.next = 1 then v.run else [] }
  else v

theorem EntrySettled.endMove_eq {held : List Held} {cut : Nat} {v : StashEnt} (h : EntrySettled held cut v) : endMove held v = v := by
  refine if_neg fun ⟨hbusy, hgone⟩ => ?_
  obtain ⟨g, hg, hop, hkind⟩ := (if_pos hbusy).mp h
  rw [List.any_eq_false] at hgone
  exact hgone g hg (by simp [hop, hkind])

/-- The end of transfers changes the engines' tables alone, and none that they hold. -/
theorem stashSettle_frame (s : State) : ∃ d : Dma, stashSettle s = { s with dma := d } ∧ d.held = s.dma.held := by
  unfold stashSettle
  dsimp only
  split <;> exact ⟨_, rfl, rfl⟩

/-- The table of the stash once transfers have ended: moves end, and the entries that a repeat frees are freed, or wait for transfers in
flight (09 R234). -/
theorem stashSettle_stash (s : State) :
    let ended := storeMap freeEntry (fun _ v => endMove s.dma.held v) s.dma.stash
    (stashSettle s).dma.stash = ended ∨ (stashSettle s).dma.stash = storeMap freeEntry (fun _ v => freeOld s.dma.cut v) ended := by
  unfold stashSettle
  dsimp only
  split
  · exact .inl rfl
  · exact .inr rfl

/-- A settled entry stays as it is when transfers end. -/
theorem stashSettle_entGet {s : State} {k : Nat} (hk : KeyOnce s.dma.stash k) (h : EntrySettled s.dma.held s.dma.cut (entGet s k)) :
    entGet (stashSettle s) k = entGet s k := by
  have hended : storeGet freeEntry (storeMap freeEntry (fun _ v => endMove s.dma.held v) s.dma.stash) k = entGet s k :=
    (storeGet_map freeEntry _ (if_neg fun hbusy => absurd hbusy.1 (by decide)) hk).trans h.endMove_eq
  unfold entGet
  obtain hst | hst := stashSettle_stash s <;> rw [hst]
  · exact hended
  · have hfree : freeOld s.dma.cut freeEntry = freeEntry := by unfold freeOld; split <;> rfl
    rw [storeGet_map freeEntry (fun _ v => freeOld s.dma.cut v) hfree (hk.map ..), hended]
    exact h.freeOld_eq

/-! ### The one part of a transfer begins (10 R254) -/

/-- The one transfer that the engines hold, before its kind's step: it lies in one slice of an operation that has left the queue. -/
structure OnePart (s : State) (sl kind : Nat) (h : Held) : Prop where
  held : s.dma.held = [h]
  slice : h.slice = sl
  fresh : h.begun = false
  conv : h.conv = false
  out : h.out = []
  group : members h.x.mask = [sl]
  left : leftQueue s h.x.op = true
  kind : dKind h.desc = kind

/-- A part with its requests, as its engine holds it; one with none has left it. -/
def begunPart (h : Held) (reqs : List Req) : List Held := if reqs = [] then [] else [{ h with begun := true, todo := reqs }]

theorem begunPart_of_ne_nil (h : Held) {reqs : List Req} (hr : reqs ≠ []) : begunPart h reqs = [{ h with begun := true, todo := reqs }] :=
  if_neg hr

/-- The engines hold one part, which has begun, or none. -/
def holdBegun (t : State) (h : Held) (reqs : List Req) : State := t.onDma fun d => { d with held := begunPart h reqs }

theorem admitAll_none {s : State} (h : flights s = []) : admitAll s = s := by simp [admitAll, h]

theorem filterMap_range_one {α : Type} (x : α) (k n : Nat) :
    (List.range n).filterMap (fun i => if k = i then some x else none) = if k < n then [x] else [] := by
  induction n with
  | zero => rfl
  | succ n ih =>
    rw [List.range_succ, List.filterMap_append, ih]
    obtain hlt | rfl | hgt := Nat.lt_trichotomy k n
    · simp [hlt, Nat.ne_of_lt hlt, Nat.lt_succ_of_lt hlt]
    · simp
    · simp [Nat.ne_of_gt hgt, show ¬ k < n by omega, show ¬ k < n + 1 by omega]

section
variable {s : State} {sl kind : Nat} {h : Held} (p : OnePart s sl kind h)
include p

theorem OnePart.slice_lt : sl < 160 := by
  have hmem : sl ∈ members h.x.mask := by simp [p.group]
  exact List.mem_range.mp (List.mem_filter.mp hmem).1

/-- Its kind's step acts on the one part. -/
theorem OnePart.stashRun_eq (f : State → List Held → Held → State) : stashRun s sl kind f = f s [h] h := by
  have hfound : unbegun s sl [kind] = some h := by simp [unbegun, p.held, p.slice, p.fresh, p.kind]
  have hparts : groupParts s h.x.op (fun d => decide (dKind d = kind) && decide (tEnt d = tEnt h.desc)) = [h] := by
    simp [groupParts, p.held, p.fresh, p.kind, p.slice, List.find?_singleton, filterMap_range_one, p.slice_lt]
  simp [stashRun, hfound, p.left, hparts]

/-- Begun and with its requests, the one part stays, or leaves its engine where it has none. -/
theorem OnePart.settleHeld_eq {t : State} (ht : t.dma.held = [h]) (reqs : List Req) :
    ((putHeld t { h with begun := true, todo := reqs }).onDma fun d => { d with held := d.held.filter fun g =>
      !(decide (g.x.op = h.x.op ∧ g.slice = h.slice) && g.begun && !g.conv && g.todo.isEmpty && g.out.isEmpty) }) = holdBegun t h reqs := by
  cases reqs <;> simp [putHeld, holdBegun, State.onDma, ht, begunPart, p.conv, p.out]

theorem OnePart.beginGroup_eq {t : State} (ht : t.dma.held = [h]) (reqs : Nat → List Req) :
    beginGroup t [h] reqs = stashSettle (holdBegun t h (reqs sl)) := by
  obtain ⟨d, hframe, hheld⟩ := stashSettle_frame (holdBegun t h (reqs sl))
  have hflights : flights (stashSettle (holdBegun t h (reqs sl))) = [] := by
    rw [hframe, flights, hheld]
    simp only [holdBegun, begunPart, State.onDma]
    split <;> simp [p.out]
  rw [beginGroup, List.foldl_cons, List.foldl_nil, beginWith, settle, p.settleHeld_eq ht, p.slice, admitAll_none hflights]

/-- An entry that the begun part of a stash transfer moves stays busy. -/
theorem OnePart.entrySettled_moving (hkind : 8 ≤ kind ∧ kind ≤ 10) {reqs : List Req} (hr : reqs ≠ []) (cut : Nat) {v : StashEnt}
    (hst : v.st = 4) (hop : v.op = h.x.op) : EntrySettled (begunPart h reqs) cut v := by
  rw [begunPart_of_ne_nil h hr]
  exact (if_pos hst).mpr ⟨_, List.mem_singleton.mpr rfl, hop.symm, by simp [stashKind, p.kind, hkind]⟩

/-- A command whose step begins the one part: the state but for the engines, the part as it is held, and every settled entry. -/
theorem OnePart.exec_begins {c : Instr} {f : State → List Held → Held → State} {t : State} {reqs : Nat → List Req}
    (hexec : exec c s = .next (guardReset s (stashRun s sl kind f))) (hf : f s [h] h = beginGroup t [h] reqs)
    (hpower : t.power = s.power) (ht : t.dma.held = [h]) :
    ∃ d : Dma, exec c s = .next { t with dma := d } ∧ d.held = begunPart h (reqs sl)
      ∧ ∀ k, KeyOnce t.dma.stash k → EntrySettled (begunPart h (reqs sl)) t.dma.cut (entGet t k) →
          entGet { t with dma := d } k = entGet t k := by
  obtain ⟨d, hframe, hheld⟩ := stashSettle_frame (holdBegun t h (reqs sl))
  have hstep : stashRun s sl kind f = { t with dma := d } := by
    rw [p.stashRun_eq, hf, p.beginGroup_eq ht, hframe]
    rfl
  have hwhole : guardReset s { t with dma := d } = { t with dma := d } := guardReset_same _ _ (congrArg Power.domains hpower)
  rw [hstep, hwhole] at hexec
  refine ⟨d, hexec, hheld, fun k hk hset => ?_⟩
  have hentry := stashSettle_entGet (s := holdBegun t h (reqs sl)) hk hset
  rw [hframe] at hentry
  exact hentry

/-- A command whose step writes an entry and begins the one part: its requests, the entry, and the entries that it leaves. -/
theorem OnePart.exec_writes {c : Instr} {f : State → List Held → Held → State} {u : State} {e : Nat} {w : StashEnt}
    {reqs : Nat → List Req}
    (hexec : exec c s = .next (guardReset s (stashRun s sl kind f))) (hf : f s [h] h = beginGroup (entSet u e w) [h] reqs)
    (hpower : u.power = s.power) (hdma : u.dma = s.dma) (hw : EntrySettled (begunPart h (reqs sl)) s.dma.cut w) :
    ∃ d : Dma, exec c s = .next { u with dma := d } ∧ d.held = begunPart h (reqs sl) ∧ entGet { u with dma := d } e = w
      ∧ ∀ k, k ≠ e → KeyOnce (storeSet freeEntry s.dma.stash e w) k → EntrySettled (begunPart h (reqs sl)) s.dma.cut (entGet s k) →
          entGet { u with dma := d } k = entGet s k := by
  have hstash : (entSet u e w).dma.stash = storeSet freeEntry s.dma.stash e w := by rw [← hdma]; rfl
  have hcut : (entSet u e w).dma.cut = s.dma.cut := by rw [← hdma]; rfl
  obtain ⟨d, hnext, hheld, hentry⟩ := p.exec_begins hexec hf hpower (by rw [← p.held, ← hdma]; rfl)
  rw [hstash, hcut] at hentry
  refine ⟨d, hnext, hheld, ?_, fun k hk honce hset => ?_⟩
  · have hsame := entGet_entSet_same u e w
    exact (hentry e (keyOnce_set_same ..) (by rwa [hsame])).trans hsame
  · have hother : entGet (entSet u e w) k = entGet s k := by rw [entGet_entSet_other u w hk, entGet, hdma, entGet]
    exact (hentry k honce (by rwa [hother])).trans hother

end

/-! ### Put, get and release (09 R230, R232, R233) -/

theorem stashBad_clear {d : BitVec 512} {size : Nat} (hhdr : dHdr d 247 0 = 0) (hbody : dBody d 139 0 = 0) {loc : Bool}
    (hloc : loc = true → tLoc d % 64 = 0 ∧ tLoc d + size * 1024 ≤ 0x1000000) : stashBad d loc size = false := by
  cases loc with
  | false => simp [stashBad, hhdr, hbody]
  | true =>
    obtain ⟨halign, hspan⟩ := hloc rfl
    simpa [stashBad, hhdr, hbody, halign] using hspan

@[simp] theorem granuleOff_entSet (s : State) (e : Nat) (v : StashEnt) (g : Nat) : granuleOff (entSet s e v) g = granuleOff s g := rfl

theorem localReqs_eq (sl src dst size : Nat) : localReqs sl src dst size = (List.range size).map fun i =>
    ⟨.phys (scratchAddr sl (src + i * 1024)), .phys (scratchAddr sl (dst + i * 1024)), 1024⟩ := by
  simp [localReqs, pieces]

theorem localReqs_ne_nil {sl src dst size : Nat} (h : 0 < size) : localReqs sl src dst size ≠ [] := by
  simpa [localReqs, pieces] using Nat.ne_of_gt h

@[simp] theorem partLoc_one (h : Held) (sl : Nat) : partLoc [h] sl = tLoc h.desc := by
  unfold partLoc
  split
  · rename_i g hg
    rw [List.mem_singleton.mp (List.mem_of_find?_eq_some hg)]
  · rfl

/-- The entry that a put makes, on its way to resident (09 R230). -/
def putEntry (h : Held) (run : Store Nat) : StashEnt :=
  { st := 4, next := 1, op := h.x.op, last := 0, recomp := tRec h.desc, keep := false, size := tSize h.desc,
    layer := BitVec.ofNat 16 (tLayer h.desc), home := BitVec.ofNat 64 (tHome h.desc), level := h.x.level, mask := h.x.mask,
    seqNo := h.x.op, run := run }

/-- The entry that a get of a resident entry leaves, on its way to free or back to resident (09 R232). -/
def getEntry (h : Held) (v : StashEnt) : StashEnt :=
  { v with st := 4, next := if tKeep h.desc then 1 else 0, op := h.x.op, last := 1, keep := tKeep h.desc }

section
variable {s : State} {sl : Nat} {h : Held}

theorem stashPut_fits (hbad : stashBad h.desc true (tSize h.desc) = false) (hfree : (entGet s (tEnt h.desc)).st = 0)
    (hclaim : claimedByOther s h.x.op (tEnt h.desc) = false) (hpos : 0 < tSize h.desc) (hmax : tSize h.desc ≤ 9830)
    (hlevel : h.x.level = 3) (hgroup : members h.x.mask = [sl]) {g : Nat} (hfit : firstFit s sl (tSize h.desc) = some g) :
    stashPut s [h] h = beginGroup (entSet s (tEnt h.desc) (putEntry h (storeSet 0 [] sl (g + 1)))) [h] fun m =>
      localReqs m (tLoc h.desc) (granuleOff s (storeGet 0 (storeSet 0 [] sl (g + 1)) m - 1)) (tSize h.desc) := by
  have hroom : makeRoom s h h.x.mask (tSize h.desc) 256 = (s, true) := by simp [makeRoom, roomFor, hgroup, hfit]
  simp only [stashPut, List.any_cons, List.any_nil, hbad, hfree, hclaim, Nat.ne_of_gt hpos, Nat.not_lt.mpr hmax, locReserved, hlevel, hroom,
    hgroup, hfit, List.foldl_cons, List.foldl_nil, partLoc_one, granuleOff_entSet]
  simp [putEntry, hlevel]

theorem stashGet_resident {v : StashEnt} (hv : entGet s (tEnt h.desc) = v) (hbad : stashBad h.desc true v.size = false) (hst : v.st = 1)
    (hclaim : claimedByOther s h.x.op (tEnt h.desc) = false) (hlevel : h.x.level = 3) :
    stashGet s [h] h = beginGroup (entSet (objAdd s 0x7270 5 1) (tEnt h.desc) (getEntry h v)) [h]
      (getReqs (objAdd s 0x7270 5 1) v [h]) := by
  simp [stashGet, hv, hbad, hst, hclaim, locReserved, hlevel, getEntry]

/-- One slice's part of a get of a resident entry moves the slice's own run. -/
theorem getReqs_one {v : StashEnt} (hst : v.st = 1) (hmask : members v.mask = [sl]) : getReqs s v [h] sl =
    localReqs sl (granuleOff s (storeGet 0 v.run sl - 1)) (tLoc h.desc) v.size := by
  simp [getReqs, hst, hmask]

theorem stashRelease_still (hbad : stashBad h.desc false 0 = false) (hst : (entGet s (tEnt h.desc)).st ≠ 0)
    (hstill : (entGet s (tEnt h.desc)).st ≠ 4) (hclaim : claimedByOther s h.x.op (tEnt h.desc) = false) :
    stashRelease s [h] h = beginGroup (entSet s (tEnt h.desc) { entGet s (tEnt h.desc) with st := 0, run := [] }) [h] fun _ => [] := by
  simp only [stashRelease, List.any_cons, List.any_nil, hbad, decide_eq_false hst, decide_eq_false hstill, hclaim,
    Bool.or_self, Bool.false_eq_true, if_false]

end

/-- Settles O41: each kind's step writes its entry and begins the one part, and what it has written is settled. -/
theorem stashKinds : Obligations.StashKinds := by
  intro s slice h d e v hheld hslice hbegun hconv hout hclaim hgroup hleft hlevel hhdr hbody
  have part : ∀ kind, dKind d = kind → OnePart s slice.toNat kind h := fun kind hkind =>
    ⟨hheld, hslice, hbegun, hconv, hout, hgroup, hleft, hkind⟩
  refine ⟨fun hkind halign hspan hfree hpos hmax g hfit => ?_, fun hkind halign hspan hst hmask hpos => ?_, fun hkind hst hstill => ?_⟩
  · have hput := stashPut_fits (stashBad_clear hhdr hbody fun _ => ⟨halign, hspan⟩) hfree hclaim hpos hmax hlevel hgroup hfit
    have hreqs := localReqs_ne_nil (sl := slice.toNat) (src := tLoc d)
      (dst := granuleOff s (storeGet 0 (storeSet 0 [] slice.toNat (g + 1)) slice.toNat - 1)) hpos
    obtain ⟨t, hexec, ht, hentry, -⟩ := (part 8 hkind).exec_writes (c := .stashPut slice) rfl hput rfl rfl
      ((part 8 hkind).entrySettled_moving (by decide) hreqs _ rfl rfl)
    rw [begunPart_of_ne_nil h hreqs, localReqs_eq, storeGet_set_same, Nat.add_sub_cancel] at ht
    refine ⟨_, hexec, ⟨rfl, rfl, rfl, rfl, rfl, rfl, rfl⟩, ?_⟩
    rw [hentry]
    exact ⟨rfl, rfl, rfl, Nat.mod_eq_of_lt (Nat.mod_lt _ (by decide)), rfl, storeGet_set_same 0 [] slice.toNat (g + 1), ht⟩
  · have hget := stashGet_resident (v := v) rfl (stashBad_clear hhdr hbody fun _ => ⟨halign, hspan⟩) hst hclaim hlevel
    have hreqs : getReqs (objAdd s 0x7270 5 1) v [h] slice.toNat ≠ [] := by
      rw [getReqs_one hst (hmask ▸ hgroup)]
      exact localReqs_ne_nil hpos
    obtain ⟨t, hexec, -, hentry, -⟩ := (part 9 hkind).exec_writes (c := .stashGet slice) rfl hget rfl rfl
      ((part 9 hkind).entrySettled_moving (by decide) hreqs _ rfl rfl)
    refine ⟨_, hexec, ⟨rfl, rfl, rfl, rfl, rfl, rfl, rfl⟩, ?_⟩
    rw [hentry]
    exact ⟨rfl, rfl, rfl, rfl, objGet_objAdd_same s 0x7270 5 1⟩
  · have hrelease := stashRelease_still (stashBad_clear hhdr hbody nofun) hst hstill hclaim
    obtain ⟨t, hexec, ht, hentry, hother⟩ := (part 10 hkind).exec_writes (c := .stashRelease slice) rfl hrelease rfl rfl
      (.inr ⟨rfl, rfl⟩)
    refine ⟨_, hexec, ⟨rfl, rfl, rfl, rfl, rfl, rfl, rfl⟩, ?_⟩
    rw [hentry]
    refine ⟨rfl, rfl, fun hwf k hk hnot hcut => ?_, ht⟩
    exact hother k hk (keyOnce_of_wf (storeWf_set _ _ _ _ hwf) k) ((if_neg hnot).mpr (.inl hcut))

end Sys2Proof.Machine
end
